-- ==== Sys2Proof/Word.lean ====
section
/-!
DEFINITION. Sys2Proof/Word.lean: the word types of the hub and the plainest names that commands and state share:
sides, registers, channels, ports, events, traffic classes. No meaning stands here.
-/
namespace Sys2Proof

/-- A field, an instruction and a scratch word are 32 bits wide (R153, R167, R536). -/
abbrev Word := BitVec 32

/-- One byte of a packet or of a time message. -/
abbrev Byte := BitVec 8

/-- A square's register number g0 to g15 (R121). -/
abbrev Reg := BitVec 4

/-- A channel, and with it a slice, 0 to 255 (R20). -/
abbrev Chan := Fin 256

/-- A serial port P0 to P23 (R372). -/
abbrev Port := Fin 24

/-- The two sides of the hub (R26). -/
inductive Side where
  | k
  | q
  deriving DecidableEq, Repr

/-- The side that is not this one. -/
def Side.other : Side → Side
  | .k => .q
  | .q => .k

/-- Side K is coded 0 and side Q is coded 1 wherever a table codes a side (Tables 14-5, 14-6, 19-1). -/
def Side.code : Side → Nat
  | .k => 0
  | .q => 1

/-- Who issues an instruction (R120, R122, R410): a program square b1 to h8, or square a1 for a host command that
arrived on a side under a command ID. -/
inductive Issuer where
  /-- The program square of index q + 1. -/
  | prog (q : Fin 63)
  /-- Square a1, executing the command of this side and ID. -/
  | host (side : Side) (id : BitVec 16)
  deriving DecidableEq, Repr

/-- The index of the issuing square, 0 for a1 (R120). -/
def Issuer.idx : Issuer → Nat
  | .prog q => q.val + 1
  | .host _ _ => 0

/-- The traffic classes that the frame buffer queues (R23, R338). -/
inductive Cls where
  | h
  | w
  | s
  | m
  deriving DecidableEq, Repr

/-- The class code of a packet header (Table 11-2). -/
def Cls.code : Cls → Nat
  | .h => 2
  | .w => 3
  | .s => 4
  | .m => 5

/-- The bit of a class in `BUF.CFG.CREQ` and `BUF.NOTICE.CLASS` (Table 12-6). -/
def Cls.bit : Cls → Nat
  | .h => 0
  | .w => 1
  | .s => 2
  | .m => 3

/-- The events of the board (Table 5-3). -/
inductive Event where
  | orbit
  | gapBegin
  | gapEnd
  | bunch
  | trig
  | tev
  | check
  | timer
  | sig
  | calDone
  | link
  | temp
  | pkt
  deriving DecidableEq, Repr

/-- The bit of an event in the event mask and in the pending set (Table 5-3). -/
def Event.bit : Event → Nat
  | .orbit => 0
  | .gapBegin => 1
  | .gapEnd => 2
  | .bunch => 3
  | .trig => 4
  | .tev => 5
  | .check => 6
  | .timer => 7
  | .sig => 8
  | .calDone => 9
  | .link => 10
  | .temp => 11
  | .pkt => 12

end Sys2Proof
end

