-- ==== Sys2Proof/Syntax.lean ====
section
/-!
DEFINITION. Sys2Proof/Syntax.lean: the commands of the hub, one constructor of `Instr` for each row of
spec/opcode_table.json. A constructor's operands are what the row's rule names: the registers and the operand bits of an
instruction (Tables 6-1 and 6-7), the side, port, channel, group or block an event belongs to, and the measured figure
that an analog part of the hub delivers with it. The table gives no row any encoding bits of its own.
-/
namespace Sys2Proof

/-- An upset that has struck a stored word of the frame buffer: the place of the word in what the command reads, and the data bits of an
uncorrectable word that read flipped; none where one bit is wrong, which is corrected (R348, R349). The upsets are the
environment's. -/
structure Upset where
  word : Nat
  flips : Option (BitVec 64)
  deriving DecidableEq, Repr

/-- What the scrubber finds at one word of program or scratch memory (R462): the word's error state is the environment's. -/
inductive Scrubbed where
  | clean
  | corrected
  | uncorrectable
  deriving DecidableEq, Repr

/-- A cell whose voted state can lose its majority (R523): a slice, a data lane or a compression engine. -/
inductive CellId where
  | slice (c : Chan)
  | lane (p : Port)
  | engine (e : Fin 8)
  deriving DecidableEq, Repr

/-- The chip-level faults of R526. -/
inductive ChipState where
  | portBlock (s : Side)
  | clock
  | reset
  | sequencer
  | bufferTables
  | claims
  | fuseShadows
  deriving DecidableEq, Repr

/-- The commands of the hub, one constructor per row of the table of operations and events. -/
inductive Instr where
  -- register, immediate and scratch instructions (R166, R167, R175)
  | nop (by_ : Issuer)
  | add (by_ : Issuer) (gd ga gb : Reg)
  | sub (by_ : Issuer) (gd ga gb : Reg)
  | and (by_ : Issuer) (gd ga gb : Reg)
  | or (by_ : Issuer) (gd ga gb : Reg)
  | xor (by_ : Issuer) (gd ga gb : Reg)
  | shl (by_ : Issuer) (gd ga gb : Reg) (sub : BitVec 14)
  | shr (by_ : Issuer) (gd ga gb : Reg) (sub : BitVec 14)
  | sar (by_ : Issuer) (gd ga gb : Reg) (sub : BitVec 14)
  | mul (by_ : Issuer) (gd ga gb : Reg)
  | cmp (by_ : Issuer) (ga gb : Reg)
  | min (by_ : Issuer) (gd ga gb : Reg) (unsigned : Bool)
  | max (by_ : Issuer) (gd ga gb : Reg) (unsigned : Bool)
  | addi (by_ : Issuer) (gd ga : Reg) (imm : BitVec 18)
  | andi (by_ : Issuer) (gd ga : Reg) (imm : BitVec 18)
  | ori (by_ : Issuer) (gd ga : Reg) (imm : BitVec 18)
  | movi (by_ : Issuer) (gd : Reg) (imm : BitVec 18)
  | movhi (by_ : Issuer) (gd ga : Reg) (imm : BitVec 18)
  | cmpi (by_ : Issuer) (ga : Reg) (imm : BitVec 18)
  | ld (by_ : Issuer) (gd ga : Reg) (imm : BitVec 18)
  | st (by_ : Issuer) (gs ga : Reg) (imm : BitVec 18)
  -- field instructions (R168 to R172)
  | ldf (by_ : Issuer) (gd gi : Reg) (a : BitVec 18)
  | stf (by_ : Issuer) (gs gi : Reg) (a : BitVec 18)
  | take (by_ : Issuer) (gd gi : Reg) (a : BitVec 18)
  -- flow, events and squares (R173 to R179, R194)
  | br (by_ : Issuer) (cond ga : Reg) (target : BitVec 14)
  | call (by_ : Issuer) (cond ga : Reg) (target : BitVec 14)
  | ret (by_ : Issuer) (cond : Reg)
  | halt (by_ : Issuer)
  | wait (by_ : Issuer) (gd ga : Reg) (operand : BitVec 18)
  /-- SIGNAL with operation SIG, and with the operation values 0b101 to 0b111 that name none (R177). -/
  | signalSig (by_ : Issuer) (gd ga : Reg) (op : BitVec 3)
  | signalStart (by_ : Issuer) (gd ga : Reg) (pc : BitVec 14)
  | signalStop (by_ : Issuer) (gd ga : Reg)
  | signalResume (by_ : Issuer) (gd ga : Reg)
  | signalFree (by_ : Issuer) (gd ga : Reg)
  | yield (by_ : Issuer)
  | illegalOpcode (by_ : Issuer) (op : BitVec 6)
  -- device instructions (Table 6-7)
  | convQuadrant (by_ : Issuer) (ga : Reg) (quad : BitVec 2)
  | convMonitor (by_ : Issuer) (entry : BitVec 5)
  | calConverters (by_ : Issuer)
  | calMonitor (by_ : Issuer) (mask : BitVec 8)
  | ledp (by_ : Issuer) (gs ga : Reg) (lamp : BitVec 7) (slow : Bool) (count : BitVec 10)
  | mark (by_ : Issuer) (gd : Reg) (openWin : Bool) (tag : BitVec 16)
  | arm (by_ : Issuer) (timeout : BitVec 16)
  | emit (by_ : Issuer) (ga : Reg) (tag : BitVec 6) (n : BitVec 12)
  | restart (by_ : Issuer) (block : BitVec 5)
  | power (by_ : Issuer) (gd : Reg) (target : BitVec 4)
  | spend (by_ : Issuer) (gd ga : Reg) (eu : BitVec 18)
  | admission (by_ : Issuer) (gd : Reg) (operand : BitVec 18)
  | fuse (by_ : Issuer) (gd ga : Reg) (offset : BitVec 8)
  -- waits that end, and events of the board (R127, R132, R140, R144)
  | budgetGrant
  | hwRequestGrant
  | emitQueueAccept (sq : Fin 64)
  | ledpSlotFreed (sq : Fin 64)
  | monConvAccepted (sq : Fin 64)
  | eventLatch
  | timerExpiry (sq : Fin 64)
  | bunchMatch (sq : Fin 64)
  | bucketRefill
  -- the downlink and its fast commands (R404 to R414)
  | downlinkFrame (side : Side) (ok : Bool) (hdr : BitVec 2) (fc : BitVec 8) (payload : BitVec 44)
  | orbit (side : Side)
  | gapBegin (side : Side)
  | gapEnd (side : Side)
  | trigger (side : Side)
  | calstrobe (side : Side)
  | resync (side : Side)
  | snapshot (side : Side)
  | orbitStart
  | ledgerTrailer
  -- reset, start, clock and sides (chapters 2, 3 and 14)
  | porAssert (vdd vdda vddio : Bool)
  | porRelease
  | rstnAssert
  | rstnRelease
  | fuseLoadDone
  | memoryInitDone
  | warmStartDone
  | controlPortLock (side : Side)
  | controlPortLoss (side : Side)
  | returnComplete (side : Side)
  | activityStop (side : Side)
  | activityResume (side : Side)
  | holdoverHandover
  | holdoverTimeout
  | safeForcing
  | safeExit
  | pllLock
  | pllLossOfLock
  | coreClockRelease
  /-- The reference moves to the other live side; `bins` is the measured phase step (R48). -/
  | referenceSwitch (bins : BitVec 11)
  /-- The reference's own phase steps by `bins` (R580). -/
  | phaseStep (bins : BitVec 11)
  | slewComplete
  | testenFall
  | adcSelfcalDone
  | monSelfcalDone
  -- power groups and block restart (chapters 3 and 4)
  | groupExitComplete (g : Fin 11)
  | groupIdleTimeout (g : Fin 11)
  | pwrLtolWrite (g : Fin 11) (value : Word)
  | quiesceAck (block : BitVec 5)
  | quiesceTimeout (block : BitVec 5)
  | blockResetEnd (block : BitVec 5)
  -- the slice: discriminator, timing, quarantine, pulser (chapters 7 and 9)
  /-- A leading edge with its raw interpolator code and cycle index (R258); `near` when it follows the previous
  trailing edge of the channel by less than 2.0 ns (R270). -/
  | discLeadingEdge (c : Chan) (raw : BitVec 7) (e : BitVec 7) (near : Bool)
  | discTrailingEdge (c : Chan) (raw : BitVec 7) (e : BitVec 7)
  | hitTimeout (c : Chan)
  | hitDequeue (c : Chan)
  | stuckDetect (c : Chan)
  | quarantineRequest (c : Chan)
  | quarantineEnd (c : Chan)
  | pulserFire (c : Chan)
  | ftoEnableApply (n : Fin 4)
  | tempReading (r : Fin 6) (t : BitVec 16)
  | backgroundRunEnd
  | tdcRunEnd
  | tdcRunAccept
  -- the trigger bus (R276, R329, R330)
  | tbLineEdge (n : Fin 4) (rising : Bool) (raw : BitVec 7) (e : BitVec 7)
  | tbCompensatedEdge (n : Fin 4)
  | tbDrive (n : Fin 4)
  | tbAlignPulse (n : Fin 4)
  | tbAlignWrite (n : Fin 4)
  | tbcapArmWrite (n : Fin 4) (value : Word)
  -- acquisition, records and the frame buffer (chapters 10 to 12)
  | thresholdEvent (c : Chan)
  | triggerFrame
  | hRecordComplete (c : Chan)
  | wRecordClose (c : Chan)
  | packetCloseIdle (cls : Cls)
  | captureAreaAlloc
  | captureDone
  | recordSpaceGrant (r : Fin 6)
  | compressionJobStart
  /-- The job of an engine ends within its slot; `upsets` have struck words of its input (R348, R363). -/
  | compressionJobSuccess (e : Fin 8) (upsets : List Upset := [])
  /-- The job of an engine fails: its output exceeds its slot, or it reads an uncorrectable word of its input, of which `upsets` have
  struck some, or an uncorrectable dictionary word, `fault`, ends it (R350, R363, R366). -/
  | compressionJobFail (e : Fin 8) (upsets : List Upset) (fault : Bool)
  | engineReturn (e : Fin 8)
  | framerSendStart (side : Side)
  /-- The job of engine `e` has produced the cut-through threshold (R352). -/
  | gambitStart (side : Side) (e : Fin 8)
  /-- A side has sent the packet that is in progress at a port; `upsets` have struck words of its stored bytes (R345, R348,
  R349). -/
  | packetSent (side : Side) (port : Port) (upsets : List Upset)
  /-- One BP of granted scrubbing: the words of the 16 banks that an upset has struck, by bank, and what the scrubber finds in program
  memory and in scratch memory (R351, R462). -/
  | scrubPass (upsets : List Upset) (prog scratch : Scrubbed)
  | sideDeadTimeout (side : Side)
  | bufDeadWrite (value : Word)
  -- the serial ports (chapter 13)
  | laneLock (p : Port)
  /-- A receiver loses its lock; `stop` when its activity detector has declared a stop (R378, R385, R388). -/
  | laneUnlock (p : Port) (stop : Bool := false)
  | laneFail (p : Port)
  | laneDrop (p : Port)
  | laneRejoinWrite (p : Port)
  | laneRejoin (p : Port)
  | singleWrite (lg : Fin 4) (value : Bool)
  | alignMarker (lg : Fin 4)
  | uplinkFrame (side : Side)
  /-- A partner frame is received; `ok` when its check passes (R378, R433, R434). -/
  | partnerFrameReceived (side : Side) (map : BitVec 16) (bcid : BitVec 8) (ok : Bool := true)
  -- network time (chapter 15)
  /-- A whole message at a port, with its ingress instant: `bin` TDC bins after the tick of cycle `cyc` in the BP `ago` BP
  before this one (R448, R449). -/
  | timeMessageReceived (p : Port) (bytes : List Byte) (ago : Nat) (cyc : Fin 8) (bin : BitVec 7)
  /-- The first bit of a message leaves, `bin` TDC bins after the last core-clock tick (R448, R453). -/
  | timeMessageForward (p : Port) (bin : BitVec 7)
  | timSend (value : Word)
  | timTxEgress (p : Port) (bin : BitVec 7)
  | timSlotFree (slot : Fin 8)
  | stepGo
  | stepJudgement
  | unsync
  | timIncWrite (value : Word)
  | timNownsRead
  | compareArm (n : Fin 2) (value : Word)
  | compareFire (n : Fin 2)
  -- the monitor front end and the LED driver (chapters 17 and 18)
  | monEntryStart
  /-- The converter delivers the code of the conversion in progress. -/
  | monResult (code : BitVec 24)
  | monRunWrite (run : Bool)
  | monIlkClear (value : Word)
  | ledTempStale
  | ledPulseFire
  | ledPulseEnd (col : Fin 16)
  | blankingEnd
  | ledFlush
  | ledDiagPulse
  /-- 300 ns into a pulse of a lamp: its sink's regulation and its column voltage in 0.1 V (R515). -/
  | diagResult (lamp : Fin 128) (unregulated : Bool) (volts : BitVec 8)
  -- program load, faults and plain field accesses (chapters 3, 19 and 20)
  | pmvalidWrite
  | cellNoMajority (cell : CellId)
  | parityQuarantine (c : Chan) (errors : Word)
  | blockNoMajority (block : BitVec 5)
  | watchdogExpiry (block : BitVec 5)
  | chipFault (what : ChipState)
  | rcRead (a : BitVec 18)
  | fieldWrite (a : BitVec 18) (value : Word)
  /-- The converter codes of a slice's newest sampling edge reach the stitcher, which delivers the sample of two edges
  before (R234, R236). -/
  | correctedSampleDelivered (c : Chan) (codeA codeB : BitVec 14)
  | convCountEnd (quad : Fin 4)
  /-- FUSE ends; `burned` are the bits that programmed (R193). -/
  | fuseProgramDone (burned : Word)
  | quietTimeEnd
  | adaptationConverged (p : Port) (width : BitVec 7) (height : BitVec 9) (coef : BitVec 28)
  | partnerFrameSend (side : Side)
  | tckRisingEdge (tms tdi : Bool)
  | trstnAssert
  | testenRise
  deriving DecidableEq, Repr

end Sys2Proof
end

