-- ==== Sys2Proof/Decode.lean ====
section
/-!
DEFINITION. Sys2Proof/Decode.lean: the commands that a word spells by the table of operations and events. The table gives no row
any bits, so no word spells a command. The 32-bit instruction words of the squares are decoded in Machine/Decode32.lean.
-/
namespace Sys2Proof

/-- The command that a word of nbits bits spells by the table's bits: none, for no row has any. -/
def decodeTableWord (_nbits _w : Nat) : Option Instr := none

end Sys2Proof
end

