-- ==== Sys2Proof/Machine/Decode32.lean ====
section
/-!
DEFINITION. Sys2Proof/Machine/Decode32.lean: the 32-bit instruction words of the squares (R153 to R156, R166, R176, R177,
R194, Tables 6-1, 6-2 and 6-7): program memory and host commands hold them. Reserved bits are ignored (R154).
-/
namespace Sys2Proof.Machine

/-- The fields of a word that the forms of Table 6-1 share: the gd position, the ga position, the gb position, the low 18 bits
and the low 14 bits. -/
structure WordFields where
  gd : Reg
  ga : Reg
  gb : Reg
  imm : BitVec 18
  low : BitVec 14

/-- The fields of a word (Table 6-1). -/
def fieldsOf (w : Word) : WordFields :=
  { gd := w.extractLsb' 22 4, ga := w.extractLsb' 18 4, gb := w.extractLsb' 14 4, imm := w.extractLsb' 0 18, low := w.extractLsb' 0 14 }

/-- Form A (Table 6-1). -/
def decodeA (by_ : Issuer) (op : Nat) (f : WordFields) : Instr :=
  let u := f.low.getLsbD 0
  match op with
  | 0x00 => .nop by_
  | 0x01 => .add by_ f.gd f.ga f.gb
  | 0x02 => .sub by_ f.gd f.ga f.gb
  | 0x03 => .and by_ f.gd f.ga f.gb
  | 0x04 => .or by_ f.gd f.ga f.gb
  | 0x05 => .xor by_ f.gd f.ga f.gb
  | 0x06 => .shl by_ f.gd f.ga f.gb f.low
  | 0x07 => .shr by_ f.gd f.ga f.gb f.low
  | 0x08 => .sar by_ f.gd f.ga f.gb f.low
  | 0x09 => .mul by_ f.gd f.ga f.gb
  | 0x0A => .cmp by_ f.ga f.gb
  | 0x0B => .min by_ f.gd f.ga f.gb u
  | 0x0C => .max by_ f.gd f.ga f.gb u
  | n => .illegalOpcode by_ (BitVec.ofNat 6 n)

/-- Forms I and F (Table 6-1). -/
def decodeI (by_ : Issuer) (op : Nat) (f : WordFields) : Instr :=
  match op with
  | 0x10 => .addi by_ f.gd f.ga f.imm
  | 0x11 => .andi by_ f.gd f.ga f.imm
  | 0x12 => .ori by_ f.gd f.ga f.imm
  | 0x13 => .movi by_ f.gd f.imm
  | 0x14 => .movhi by_ f.gd f.ga f.imm
  | 0x15 => .cmpi by_ f.ga f.imm
  | 0x18 => .ld by_ f.gd f.ga f.imm
  | 0x19 => .st by_ f.gd f.ga f.imm
  | 0x1A => .ldf by_ f.gd f.ga f.imm
  | 0x1B => .stf by_ f.gd f.ga f.imm
  | 0x1C => .take by_ f.gd f.ga f.imm
  | n => .illegalOpcode by_ (BitVec.ofNat 6 n)

/-- `SIGNAL` by its operation in operand[17:15] (R177, Table 6-6). -/
def decodeSignal (by_ : Issuer) (f : WordFields) : Instr :=
  match (f.imm.extractLsb' 15 3).toNat with
  | 1 => .signalStart by_ f.gd f.ga f.low
  | 2 => .signalStop by_ f.gd f.ga
  | 3 => .signalResume by_ f.gd f.ga
  | 4 => .signalFree by_ f.gd f.ga
  | _ => .signalSig by_ f.gd f.ga (f.imm.extractLsb' 15 3)

/-- Forms B and E of the flow instructions (Tables 6-1 and 6-2). -/
def decodeFlow (by_ : Issuer) (op : Nat) (f : WordFields) : Instr :=
  match op with
  | 0x20 => .br by_ f.gd f.ga f.low
  | 0x21 => .call by_ f.gd f.ga f.low
  | 0x22 => .ret by_ f.gd
  | 0x23 => .halt by_
  | 0x28 => .wait by_ f.gd f.ga f.imm
  | 0x29 => decodeSignal by_ f
  | 0x2A => .yield by_
  | n => .illegalOpcode by_ (BitVec.ofNat 6 n)

/-- The device instructions (Table 6-7). -/
def decodeDevice (by_ : Issuer) (op : Nat) (f : WordFields) : Instr :=
  match op with
  | 0x30 => if f.imm.getLsbD 17 then .convMonitor by_ (f.imm.extractLsb' 0 5) else .convQuadrant by_ f.ga (f.imm.extractLsb' 15 2)
  | 0x31 => if f.imm.getLsbD 17 then .calMonitor by_ (f.imm.extractLsb' 0 8) else .calConverters by_
  | 0x32 => .ledp by_ f.gd f.ga (f.imm.extractLsb' 11 7) (f.imm.getLsbD 10) (f.imm.extractLsb' 0 10)
  | 0x33 => .mark by_ f.gd (f.imm.getLsbD 16) (f.imm.extractLsb' 0 16)
  | 0x34 => .arm by_ (f.imm.extractLsb' 0 16)
  | 0x35 => .emit by_ f.ga (f.imm.extractLsb' 12 6) (f.imm.extractLsb' 0 12)
  | 0x36 => .restart by_ (f.imm.extractLsb' 0 5)
  | 0x37 => .power by_ f.gd (f.imm.extractLsb' 0 4)
  | 0x38 => .spend by_ f.gd f.ga f.imm
  | 0x39 => .admission by_ f.gd f.imm
  | 0x3B => .fuse by_ f.gd f.ga (f.imm.extractLsb' 0 8)
  | n => .illegalOpcode by_ (BitVec.ofNat 6 n)

/-- The instruction that a word is to its issuer; every word is one (R153, R156, R194). -/
def decodeWord (by_ : Issuer) (w : Word) : Instr :=
  let op := (w.extractLsb' 26 6).toNat
  let f := fieldsOf w
  if op < 0x10 then decodeA by_ op f
  else if op < 0x20 then decodeI by_ op f
  else if op < 0x30 then decodeFlow by_ op f
  else decodeDevice by_ op f

/-! ### The words of the instructions -/

/-- Who issues a command that is an instruction; no one issues an event. -/
def issuerOf : Instr → Option Issuer
  | .nop b | .add b _ _ _ | .sub b _ _ _ | .and b _ _ _ | .or b _ _ _ | .xor b _ _ _ | .shl b _ _ _ _ | .shr b _ _ _ _
  | .sar b _ _ _ _ | .mul b _ _ _ | .cmp b _ _ | .min b _ _ _ _ | .max b _ _ _ _ | .addi b _ _ _ | .andi b _ _ _
  | .ori b _ _ _ | .movi b _ _ | .movhi b _ _ _ | .cmpi b _ _ | .ld b _ _ _ | .st b _ _ _ | .ldf b _ _ _ | .stf b _ _ _
  | .take b _ _ _ | .br b _ _ _ | .call b _ _ _ | .ret b _ | .halt b | .wait b _ _ _ | .signalSig b _ _ _
  | .signalStart b _ _ _ | .signalStop b _ _ | .signalResume b _ _ | .signalFree b _ _ | .yield b | .illegalOpcode b _
  | .convQuadrant b _ _ | .convMonitor b _ | .calConverters b | .calMonitor b _ | .ledp b _ _ _ _ _ | .mark b _ _ _ | .arm b _
  | .emit b _ _ _ | .restart b _ | .power b _ _ | .spend b _ _ _ | .admission b _ _ | .fuse b _ _ _ => some b
  | .budgetGrant | .hwRequestGrant | .emitQueueAccept _ | .ledpSlotFreed _ | .monConvAccepted _ | .eventLatch
  | .timerExpiry _ | .bunchMatch _ | .bucketRefill | .downlinkFrame _ _ _ _ _ | .orbit _ | .gapBegin _ | .gapEnd _
  | .trigger _ | .calstrobe _ | .resync _ | .snapshot _ | .orbitStart | .ledgerTrailer | .porAssert _ _ _ | .porRelease
  | .rstnAssert | .rstnRelease | .fuseLoadDone | .memoryInitDone | .warmStartDone | .controlPortLock _ | .controlPortLoss _
  | .returnComplete _ | .activityStop _ | .activityResume _ | .holdoverHandover | .holdoverTimeout | .safeForcing | .safeExit
  | .pllLock | .pllLossOfLock | .coreClockRelease | .referenceSwitch _ | .phaseStep _ | .slewComplete | .testenFall
  | .adcSelfcalDone | .monSelfcalDone | .groupExitComplete _ | .groupIdleTimeout _ | .pwrLtolWrite _ _ | .quiesceAck _
  | .quiesceTimeout _ | .blockResetEnd _ | .discLeadingEdge _ _ _ _ | .discTrailingEdge _ _ _ | .hitTimeout _ | .hitDequeue _
  | .stuckDetect _ | .quarantineRequest _ | .quarantineEnd _ | .pulserFire _ | .ftoEnableApply _ | .tempReading _ _
  | .backgroundRunEnd | .tdcRunEnd | .tdcRunAccept | .tbLineEdge _ _ _ _ | .tbCompensatedEdge _ | .tbDrive _
  | .tbAlignPulse _ | .tbAlignWrite _ | .tbcapArmWrite _ _ | .thresholdEvent _ | .triggerFrame | .hRecordComplete _
  | .wRecordClose _ | .packetCloseIdle _ | .captureAreaAlloc | .captureDone | .recordSpaceGrant _ | .compressionJobStart
  | .compressionJobSuccess _ _ | .engineReturn _ | .framerSendStart _ | .gambitStart _ _ | .sideDeadTimeout _ | .bufDeadWrite _
  | .laneLock _ | .laneUnlock _ _ | .laneFail _ | .laneDrop _ | .laneRejoinWrite _ | .laneRejoin _ | .singleWrite _ _
  | .alignMarker _ | .uplinkFrame _ | .partnerFrameReceived _ _ _ _ | .timeMessageReceived _ _ _ _ _ | .timeMessageForward _ _
  | .timSend _ | .timTxEgress _ _ | .timSlotFree _ | .stepGo | .stepJudgement | .unsync | .timIncWrite _ | .timNownsRead
  | .compareArm _ _ | .compareFire _ | .monEntryStart | .monResult _ | .monRunWrite _ | .monIlkClear _ | .ledTempStale
  | .ledPulseFire | .ledPulseEnd _ | .blankingEnd | .ledFlush | .ledDiagPulse | .diagResult _ _ _ | .pmvalidWrite
  | .cellNoMajority _ | .parityQuarantine _ _ | .blockNoMajority _ | .watchdogExpiry _ | .chipFault _ | .rcRead _
  | .fieldWrite _ _ | .correctedSampleDelivered _ _ _ | .convCountEnd _ | .fuseProgramDone _ | .quietTimeEnd
  | .adaptationConverged _ _ _ _ | .partnerFrameSend _ | .tckRisingEdge _ _ | .trstnAssert | .testenRise
  | .compressionJobFail _ _ _ | .packetSent _ _ _ | .scrubPass _ _ _ => none

/-- A word of form A, B or E: opcode, gd, ga, gb and the low 14 bits (Table 6-1). -/
def wordA (op : BitVec 6) (gd ga gb : Reg) (low : BitVec 14) : Word := op ++ gd ++ ga ++ gb ++ low

/-- A word of form I, F or D: opcode, gd, ga and the low 18 bits (Table 6-1). -/
def wordI (op : BitVec 6) (gd ga : Reg) (imm : BitVec 18) : Word := op ++ gd ++ ga ++ imm

/-- The word of an instruction, its reserved bits 0 (R153 to R156, R166, R177, Tables 6-1, 6-2, 6-6 and 6-7); an event has
none. -/
def encodeWord : Instr → Option Word
  | .nop _ => some (wordA 0x00 0 0 0 0)
  | .add _ gd ga gb => some (wordA 0x01 gd ga gb 0)
  | .sub _ gd ga gb => some (wordA 0x02 gd ga gb 0)
  | .and _ gd ga gb => some (wordA 0x03 gd ga gb 0)
  | .or _ gd ga gb => some (wordA 0x04 gd ga gb 0)
  | .xor _ gd ga gb => some (wordA 0x05 gd ga gb 0)
  | .shl _ gd ga gb sub => some (wordA 0x06 gd ga gb sub)
  | .shr _ gd ga gb sub => some (wordA 0x07 gd ga gb sub)
  | .sar _ gd ga gb sub => some (wordA 0x08 gd ga gb sub)
  | .mul _ gd ga gb => some (wordA 0x09 gd ga gb 0)
  | .cmp _ ga gb => some (wordA 0x0A 0 ga gb 0)
  | .min _ gd ga gb u => some (wordA 0x0B gd ga gb (if u then 1 else 0))
  | .max _ gd ga gb u => some (wordA 0x0C gd ga gb (if u then 1 else 0))
  | .addi _ gd ga imm => some (wordI 0x10 gd ga imm)
  | .andi _ gd ga imm => some (wordI 0x11 gd ga imm)
  | .ori _ gd ga imm => some (wordI 0x12 gd ga imm)
  | .movi _ gd imm => some (wordI 0x13 gd 0 imm)
  | .movhi _ gd ga imm => some (wordI 0x14 gd ga imm)
  | .cmpi _ ga imm => some (wordI 0x15 0 ga imm)
  | .ld _ gd ga imm => some (wordI 0x18 gd ga imm)
  | .st _ gs ga imm => some (wordI 0x19 gs ga imm)
  | .ldf _ gd gi a => some (wordI 0x1A gd gi a)
  | .stf _ gs gi a => some (wordI 0x1B gs gi a)
  | .take _ gd gi a => some (wordI 0x1C gd gi a)
  | .br _ cond ga target => some (wordA 0x20 cond ga 0 target)
  | .call _ cond ga target => some (wordA 0x21 cond ga 0 target)
  | .ret _ cond => some (wordA 0x22 cond 0 0 0)
  | .halt _ => some (wordA 0x23 0 0 0 0)
  | .wait _ gd ga operand => some (wordI 0x28 gd ga operand)
  | .signalSig _ gd ga op => some (wordI 0x29 gd ga (op ++ 0#15))
  | .signalStart _ gd ga pc => some (wordI 0x29 gd ga (1#3 ++ 0#1 ++ pc))
  | .signalStop _ gd ga => some (wordI 0x29 gd ga (2#3 ++ 0#15))
  | .signalResume _ gd ga => some (wordI 0x29 gd ga (3#3 ++ 0#15))
  | .signalFree _ gd ga => some (wordI 0x29 gd ga (4#3 ++ 0#15))
  | .yield _ => some (wordA 0x2A 0 0 0 0)
  | .illegalOpcode _ op => some (wordA op 0 0 0 0)
  | .convQuadrant _ ga quad => some (wordI 0x30 0 ga (0#1 ++ quad ++ 0#15))
  | .convMonitor _ entry => some (wordI 0x30 0 0 (1#1 ++ 0#12 ++ entry))
  | .calConverters _ => some (wordI 0x31 0 0 0)
  | .calMonitor _ mask => some (wordI 0x31 0 0 (1#1 ++ 0#9 ++ mask))
  | .ledp _ gs ga lamp slow count => some (wordI 0x32 gs ga (lamp ++ BitVec.ofBool slow ++ count))
  | .mark _ gd openWin tag => some (wordI 0x33 gd 0 (0#1 ++ BitVec.ofBool openWin ++ tag))
  | .arm _ timeout => some (wordI 0x34 0 0 (0#2 ++ timeout))
  | .emit _ ga tag n => some (wordI 0x35 0 ga (tag ++ n))
  | .restart _ block => some (wordI 0x36 0 0 (0#13 ++ block))
  | .power _ gd target => some (wordI 0x37 gd 0 (0#14 ++ target))
  | .spend _ gd ga eu => some (wordI 0x38 gd ga eu)
  | .admission _ gd operand => some (wordI 0x39 gd 0 operand)
  | .fuse _ gd ga offset => some (wordI 0x3B gd ga (0#10 ++ offset))
  | .budgetGrant | .hwRequestGrant | .emitQueueAccept _ | .ledpSlotFreed _ | .monConvAccepted _ | .eventLatch
  | .timerExpiry _ | .bunchMatch _ | .bucketRefill | .downlinkFrame _ _ _ _ _ | .orbit _ | .gapBegin _ | .gapEnd _
  | .trigger _ | .calstrobe _ | .resync _ | .snapshot _ | .orbitStart | .ledgerTrailer | .porAssert _ _ _ | .porRelease
  | .rstnAssert | .rstnRelease | .fuseLoadDone | .memoryInitDone | .warmStartDone | .controlPortLock _ | .controlPortLoss _
  | .returnComplete _ | .activityStop _ | .activityResume _ | .holdoverHandover | .holdoverTimeout | .safeForcing | .safeExit
  | .pllLock | .pllLossOfLock | .coreClockRelease | .referenceSwitch _ | .phaseStep _ | .slewComplete | .testenFall
  | .adcSelfcalDone | .monSelfcalDone | .groupExitComplete _ | .groupIdleTimeout _ | .pwrLtolWrite _ _ | .quiesceAck _
  | .quiesceTimeout _ | .blockResetEnd _ | .discLeadingEdge _ _ _ _ | .discTrailingEdge _ _ _ | .hitTimeout _ | .hitDequeue _
  | .stuckDetect _ | .quarantineRequest _ | .quarantineEnd _ | .pulserFire _ | .ftoEnableApply _ | .tempReading _ _
  | .backgroundRunEnd | .tdcRunEnd | .tdcRunAccept | .tbLineEdge _ _ _ _ | .tbCompensatedEdge _ | .tbDrive _
  | .tbAlignPulse _ | .tbAlignWrite _ | .tbcapArmWrite _ _ | .thresholdEvent _ | .triggerFrame | .hRecordComplete _
  | .wRecordClose _ | .packetCloseIdle _ | .captureAreaAlloc | .captureDone | .recordSpaceGrant _ | .compressionJobStart
  | .compressionJobSuccess _ _ | .engineReturn _ | .framerSendStart _ | .gambitStart _ _ | .sideDeadTimeout _ | .bufDeadWrite _
  | .laneLock _ | .laneUnlock _ _ | .laneFail _ | .laneDrop _ | .laneRejoinWrite _ | .laneRejoin _ | .singleWrite _ _
  | .alignMarker _ | .uplinkFrame _ | .partnerFrameReceived _ _ _ _ | .timeMessageReceived _ _ _ _ _ | .timeMessageForward _ _
  | .timSend _ | .timTxEgress _ _ | .timSlotFree _ | .stepGo | .stepJudgement | .unsync | .timIncWrite _ | .timNownsRead
  | .compareArm _ _ | .compareFire _ | .monEntryStart | .monResult _ | .monRunWrite _ | .monIlkClear _ | .ledTempStale
  | .ledPulseFire | .ledPulseEnd _ | .blankingEnd | .ledFlush | .ledDiagPulse | .diagResult _ _ _ | .pmvalidWrite
  | .cellNoMajority _ | .parityQuarantine _ _ | .blockNoMajority _ | .watchdogExpiry _ | .chipFault _ | .rcRead _
  | .fieldWrite _ _ | .correctedSampleDelivered _ _ _ | .convCountEnd _ | .fuseProgramDone _ | .quietTimeEnd
  | .adaptationConverged _ _ _ _ | .partnerFrameSend _ | .tckRisingEdge _ _ | .trstnAssert | .testenRise
  | .compressionJobFail _ _ _ | .packetSent _ _ _ | .scrubPass _ _ _ => none

end Sys2Proof.Machine
end

