-- ==== Sys2Proof/Config.lean ====
section
/-!
DEFINITION. Sys2Proof/Config.lean: what the spec leaves to an implementation or gives no value. Every constant here is
opaque: nothing can be proved of its value, so a claim about the machine holds for every value of it.
-/
namespace Sys2Proof

/-- The n-th free value: a result the spec does not state (a calibration factor, a measured phase, an unstated result).
The step applies it to the counter `State.free` and advances the counter. DESIGN CHOICE (log 2). -/
opaque Config.freeValue : Nat → Word

/-- The outcome of a self-timed choice the spec leaves open, by number. DESIGN CHOICE (log 2). -/
opaque Config.freeBit : Nat → Bool

/-- What an IEEE 1149.1 instruction code selects (R555 names the instructions and not their codes). The code is the
instruction register read from its first stage; answers 1 IDCODE, 2 SAMPLE/PRELOAD, 3 EXTEST, and any other value BYPASS. -/
opaque Config.tapCode : List Bool → Nat

/-- How many stages the test access port's instruction register has above 2 (not stated in the spec). -/
opaque Config.tapIrExtra : Nat

/-- The number of cells of the boundary register (R555 names the pins that have cells, and not how many each has). -/
opaque Config.tapCells : Nat

/-- The fields of IDCODE other than its part number, which the spec does not state: version and manufacturer. -/
opaque Config.tapIdRest : Word

/-- The sensor curves of Table 17-3 that the spec names by standard: the curve's code, the input in the unit of the
curve as numerator and denominator, and the cold-junction reading; the answer is the result in 2^-16 °C.
DESIGN CHOICE (log 21). -/
opaque Config.sensorCurve : Nat → Int → Nat → Int → Int

/-- binary32 evaluation of a polynomial set (R485): coefficients c_00 to c_33, curve result s and temperature t in 2^-16.
The standard IEEE 754 is named, and its rounding of each single operation is not laid out in the spec.
DESIGN CHOICE (log 21). -/
opaque Config.polynomial : List Word → Int → Int → Int

end Sys2Proof
end

