-- ==== Sys2Proof/Machine/Fields.lean ====
section
/-!
DEFINITION. Sys2Proof/Machine/Fields.lean: the field map of the hub (R536 to R547 and the field tables of every chapter): each
field by its name, and for each word of the field space which of its bits carry which access code and what it reads after
reset. An entry "Fuses", "Variant" or "Straps" of a Reset column stands as 0 here: those words are computed.
-/
namespace Sys2Proof.Machine

/-- A field: the address of its word and its bits hi down to lo. -/
structure Fld where
  addr : Nat
  hi : Nat
  lo : Nat
  deriving DecidableEq, Repr

/-- One row of the field map: the words base + s1 i + s2 j with i < n1 and j < n2, the bits of each access code and the
reset value (R14, R541). Every other bit is RO, WO, FZ or reserved. -/
structure WordRow where
  base : Nat
  s1 : Nat
  n1 : Nat
  s2 : Nat
  n2 : Nat
  rw : Word
  rwo : Word
  w1c : Word
  rc : Word
  reset : Word
  deriving DecidableEq, Repr

/-- The address lies in this row. -/
def WordRow.holds (r : WordRow) (a : Nat) : Bool :=
  let d := a - r.base
  Nat.ble r.base a && Nat.blt (d / r.s1) r.n1 && Nat.blt (d % r.s1 / r.s2) r.n2 &&
    Nat.beq (r.s1 * (d / r.s1) + r.s2 * (d % r.s1 / r.s2)) d

namespace F

-- CAP.VARIANT: Table 20-2, R542
def CAP_VARIANT_CODE : Fld := ⟨0x0, 1, 0⟩
-- CAP.ID: Table 20-2, R542
def CAP_ID_DEVICE : Fld := ⟨0x1, 31, 16⟩
def CAP_ID_STEPPING : Fld := ⟨0x1, 15, 8⟩
-- CAP.UNITS: Table 20-2, R542
def CAP_UNITS_MON : Fld := ⟨0x2, 10, 10⟩
def CAP_UNITS_LED : Fld := ⟨0x2, 9, 9⟩
def CAP_UNITS_CMP : Fld := ⟨0x2, 8, 8⟩
def CAP_UNITS_LG : Fld := ⟨0x2, 7, 4⟩
def CAP_UNITS_QUAD : Fld := ⟨0x2, 3, 0⟩
-- CAP.PORTS: Table 20-2, R542
def CAP_PORTS_PORTS : Fld := ⟨0x3, 23, 0⟩
-- CAP.CHAN: Table 20-2, R542
def CAP_CHAN_CHAN (i : Nat) : Fld := ⟨0x4 + 1 * i, 31, 0⟩
-- CAP.DIEID: Table 20-2, R542
def CAP_DIEID_ID (i : Nat) : Fld := ⟨0xC + 1 * i, 31, 0⟩
-- CAP.ABSENT: Table 20-2, R542
def CAP_ABSENT_FLAG : Fld := ⟨0x10, 0, 0⟩
-- CAP.CNT_ABSENT: Table 20-2, R542
def CAP_CNT_ABSENT_COUNT : Fld := ⟨0x11, 15, 0⟩
-- CAP.ABSADDR: Table 20-2, R542
def CAP_ABSADDR_BYINSTR : Fld := ⟨0x12, 31, 31⟩
def CAP_ABSADDR_ADDR : Fld := ⟨0x12, 17, 0⟩
-- FUS.PART: Table 20-4, R544
def FUS_PART_VARIANT : Fld := ⟨0x100, 9, 8⟩
def FUS_PART_STEPPING : Fld := ⟨0x100, 7, 0⟩
-- FUS.DIEID: Table 20-4, R544
def FUS_DIEID_ID (i : Nat) : Fld := ⟨0x101 + 1 * i, 31, 0⟩
-- FUS.TRIM: Table 20-4, R544
def FUS_TRIM_TRIM (i : Nat) : Fld := ⟨0x103 + 1 * i, 31, 0⟩
-- FUS.RESET: Table 3-1, R67
def FUS_RESET_PINREACH : Fld := ⟨0x108, 1, 0⟩
-- FUS.MONLIM: Table 17-5, R498
def FUS_MONLIM_IMAX : Fld := ⟨0x109, 2, 0⟩
-- FUS.LEDLIM: Table 18-1, R509
def FUS_LEDLIM_QMAX : Fld := ⟨0x10A, 5, 3⟩
def FUS_LEDLIM_IMAX : Fld := ⟨0x10A, 2, 0⟩
-- FUS.RATING: Table 20-4, R544
def FUS_RATING_RATQ : Fld := ⟨0x10B, 7, 4⟩
def FUS_RATING_RATK : Fld := ⟨0x10B, 3, 0⟩
-- FUS.LOCK: Table 20-4, R544
def FUS_LOCK_LOCK : Fld := ⟨0x10C, 5, 0⟩
-- FUS.USER: Table 20-4, R544
def FUS_USER_DATA : Fld := ⟨0x10D, 31, 0⟩
-- RST.CAUSE: Table 3-9, R91
def RST_CAUSE_SAFEREC : Fld := ⟨0x200, 7, 7⟩
def RST_CAUSE_REACH : Fld := ⟨0x200, 6, 5⟩
def RST_CAUSE_PIN : Fld := ⟨0x200, 4, 4⟩
def RST_CAUSE_POR_VDDIO : Fld := ⟨0x200, 3, 3⟩
def RST_CAUSE_POR_VDDA : Fld := ⟨0x200, 2, 2⟩
def RST_CAUSE_POR_VDD : Fld := ⟨0x200, 1, 1⟩
-- RST.STATUS: Table 3-10, R91
def RST_STATUS_PMVALID : Fld := ⟨0x201, 6, 6⟩
def RST_STATUS_MCALOK : Fld := ⟨0x201, 5, 5⟩
def RST_STATUS_ADCCAL : Fld := ⟨0x201, 4, 4⟩
def RST_STATUS_STEP : Fld := ⟨0x201, 3, 0⟩
-- RST.BUSY: Table 3-11, R91
def RST_BUSY_BLOCK : Fld := ⟨0x202, 28, 0⟩
-- RST.QTIMEOUT: Table 3-11, R91
def RST_QTIMEOUT_BP : Fld := ⟨0x203, 12, 0⟩
-- RST.STALE: Table 3-12, R91
def RST_STALE_SIDEQ : Fld := ⟨0x204, 29, 29⟩
def RST_STALE_BLOCK : Fld := ⟨0x204, 28, 0⟩
-- RST.STICKY: Table 3-13, R91
def RST_STICKY_ABANDON : Fld := ⟨0x205, 2, 2⟩
def RST_STICKY_FORCED : Fld := ⟨0x205, 1, 1⟩
def RST_STICKY_RESTART : Fld := ⟨0x205, 0, 0⟩
-- RST.CNT: Table 3-13, R91
def RST_CNT_COUNT (i : Nat) : Fld := ⟨0x206 + 1 * i, 15, 0⟩
-- RST.LASTLOSS: Table 3-13, R91
def RST_LASTLOSS_BLOCK : Fld := ⟨0x209, 20, 16⟩
def RST_LASTLOSS_RECORDS : Fld := ⟨0x209, 15, 0⟩
-- CLK.STATUS: Table 2-5, R60
def CLK_STATUS_SLEW : Fld := ⟨0x300, 9, 9⟩
def CLK_STATUS_HOLDOVER : Fld := ⟨0x300, 8, 8⟩
def CLK_STATUS_REF : Fld := ⟨0x300, 7, 6⟩
def CLK_STATUS_PLLLOCK : Fld := ⟨0x300, 5, 5⟩
def CLK_STATUS_SETTLED : Fld := ⟨0x300, 4, 4⟩
def CLK_STATUS_ACT1 : Fld := ⟨0x300, 3, 3⟩
def CLK_STATUS_ACT0 : Fld := ⟨0x300, 2, 2⟩
def CLK_STATUS_CDR1 : Fld := ⟨0x300, 1, 1⟩
def CLK_STATUS_CDR0 : Fld := ⟨0x300, 0, 0⟩
-- CLK.SETCODE: Table 2-6, R60
def CLK_SETCODE_CODE : Fld := ⟨0x301, 2, 0⟩
-- CLK.STICKY: Table 2-7, R60
def CLK_STICKY_SAFE : Fld := ⟨0x302, 4, 4⟩
def CLK_STICKY_UNLOCK : Fld := ⟨0x302, 3, 3⟩
def CLK_STICKY_WIDE : Fld := ⟨0x302, 2, 2⟩
def CLK_STICKY_SWITCH : Fld := ⟨0x302, 1, 1⟩
def CLK_STICKY_HOLD : Fld := ⟨0x302, 0, 0⟩
-- CLK.CNT: Table 2-8, R60
def CLK_CNT_COUNT (i : Nat) : Fld := ⟨0x303 + 1 * i, 15, 0⟩
-- CLK.PHDIFF: Table 2-9, R60
def CLK_PHDIFF_VALID : Fld := ⟨0x308, 16, 16⟩
def CLK_PHDIFF_PHASE : Fld := ⟨0x308, 15, 0⟩
-- CLK.LASTHOLD: Table 2-9, R60
def CLK_LASTHOLD_CYCLES : Fld := ⟨0x309, 15, 0⟩
-- PWR.MODE: Table 4-6, R116
def PWR_MODE_DEGRADED : Fld := ⟨0x400, 9, 9⟩
def PWR_MODE_PEND : Fld := ⟨0x400, 8, 8⟩
def PWR_MODE_TARGET : Fld := ⟨0x400, 7, 4⟩
def PWR_MODE_MODE : Fld := ⟨0x400, 3, 0⟩
-- PWR.GSTATE: Table 4-7, R116
def PWR_GSTATE_STATE : Fld := ⟨0x401, 21, 0⟩
-- PWR.LTOL: Table 4-8, R116
def PWR_LTOL_NS (i : Nat) : Fld := ⟨0x402 + 1 * i, 23, 0⟩
-- PWR.STICKY: Table 4-9, R116
def PWR_STICKY_CANCEL : Fld := ⟨0x40D, 2, 2⟩
def PWR_STICKY_DEGR : Fld := ⟨0x40D, 1, 1⟩
def PWR_STICKY_REFUSE : Fld := ⟨0x40D, 0, 0⟩
-- PWR.CNT: Table 4-9, R116
def PWR_CNT_COUNT (i : Nat) : Fld := ⟨0x40E + 1 * i, 15, 0⟩
-- PWR.BUCKET: Table 5-9, R152
def PWR_BUCKET_EU : Fld := ⟨0x420, 24, 0⟩
-- PWR.BUCKETF: Table 5-9, R152
def PWR_BUCKETF_FRAC : Fld := ⟨0x421, 7, 0⟩
-- PWR.REFILL: Table 5-9, R152
def PWR_REFILL_AMOUNT : Fld := ⟨0x422, 15, 0⟩
-- PWR.HEAT: Table 5-9, R152
def PWR_HEAT_TLIMIT : Fld := ⟨0x423, 31, 16⟩
def PWR_HEAT_TWARN : Fld := ⟨0x423, 15, 0⟩
-- PWR.GOV: Table 5-9, R152
def PWR_GOV_THOT : Fld := ⟨0x424, 31, 16⟩
def PWR_GOV_SCALE : Fld := ⟨0x424, 8, 0⟩
-- PWR.DEBT: Table 5-9, R152
def PWR_DEBT_EU : Fld := ⟨0x425, 24, 0⟩
-- PWR.RESV: Table 5-9, R152
def PWR_RESV_EU : Fld := ⟨0x426, 24, 0⟩
-- PWR.CLASSCAP: Table 5-9, R152
def PWR_CLASSCAP_EU (i : Nat) : Fld := ⟨0x427 + 1 * i, 24, 0⟩
-- PWR.CLASSSPENT: Table 5-9, R152
def PWR_CLASSSPENT_EU (i : Nat) : Fld := ⟨0x42B + 1 * i, 24, 0⟩
-- PWR.HWPRI: Table 5-9, R152
def PWR_HWPRI_SCRUB : Fld := ⟨0x42F, 18, 16⟩
def PWR_HWPRI_LDIAG : Fld := ⟨0x42F, 14, 12⟩
def PWR_HWPRI_RECAL : Fld := ⟨0x42F, 10, 8⟩
def PWR_HWPRI_MON : Fld := ⟨0x42F, 6, 4⟩
def PWR_HWPRI_LWAKE : Fld := ⟨0x42F, 2, 0⟩
-- PWR.BSTICKY: Table 5-9, R152
def PWR_BSTICKY_ADMREJ : Fld := ⟨0x430, 4, 4⟩
def PWR_BSTICKY_SKIP : Fld := ⟨0x430, 3, 3⟩
def PWR_BSTICKY_REFBUD : Fld := ⟨0x430, 2, 2⟩
def PWR_BSTICKY_WAITED : Fld := ⟨0x430, 1, 1⟩
def PWR_BSTICKY_DEBT : Fld := ⟨0x430, 0, 0⟩
-- PWR.BCNT: Table 5-9, R152
def PWR_BCNT_COUNT (i : Nat) : Fld := ⟨0x431 + 1 * i, 15, 0⟩
-- PWR.ADM: Table 5-9, R152
def PWR_ADM_ADMITTED : Fld := ⟨0x440, 31, 31⟩
def PWR_ADM_STD : Fld := ⟨0x440, 0, 0⟩
-- PWR.DECL: Table 5-9, R152
def PWR_DECL_RATE (i : Nat) : Fld := ⟨0x441 + 1 * i, 15, 0⟩
-- PWR.ADMSUM: Table 5-9, R152
def PWR_ADMSUM_SUM : Fld := ⟨0x445, 17, 0⟩
-- PWR.ADMCAP: Table 5-9, R152
def PWR_ADMCAP_CAP : Fld := ⟨0x446, 15, 0⟩
-- PWR.SMIN: Table 5-9, R152
def PWR_SMIN_RATE : Fld := ⟨0x447, 15, 0⟩
-- SEQ.G: Table 5-7, R151
def SEQ_G_G (i j : Nat) : Fld := ⟨0x800 + 32 * i + 1 * j, 31, 0⟩
-- SEQ.CTL: Table 5-7, R151
def SEQ_CTL_PRIO (i : Nat) : Fld := ⟨0x810 + 32 * i, 10, 8⟩
def SEQ_CTL_CLASS (i : Nat) : Fld := ⟨0x810 + 32 * i, 5, 4⟩
def SEQ_CTL_STATE (i : Nat) : Fld := ⟨0x810 + 32 * i, 2, 0⟩
-- SEQ.PCF: Table 5-7, R151
def SEQ_PCF_DEPTH (i : Nat) : Fld := ⟨0x811 + 32 * i, 26, 24⟩
def SEQ_PCF_FLAGS (i : Nat) : Fld := ⟨0x811 + 32 * i, 20, 16⟩
def SEQ_PCF_PC (i : Nat) : Fld := ⟨0x811 + 32 * i, 13, 0⟩
-- SEQ.STACK: Table 5-7, R151
def SEQ_STACK_RET (i j : Nat) : Fld := ⟨0x812 + 32 * i + 1 * j, 13, 0⟩
-- SEQ.EVMASK: Table 5-7, R151
def SEQ_EVMASK_MASK (i : Nat) : Fld := ⟨0x816 + 32 * i, 12, 0⟩
-- SEQ.EVPEND: Table 5-7, R151
def SEQ_EVPEND_PEND (i : Nat) : Fld := ⟨0x817 + 32 * i, 12, 0⟩
-- SEQ.TIMER: Table 5-7, R151
def SEQ_TIMER_BP (i : Nat) : Fld := ⟨0x818 + 32 * i, 23, 0⟩
-- SEQ.BUNCH: Table 5-7, R151
def SEQ_BUNCH_EN (i : Nat) : Fld := ⟨0x819 + 32 * i, 13, 13⟩
def SEQ_BUNCH_BCID (i : Nat) : Fld := ⟨0x819 + 32 * i, 12, 0⟩
-- SEQ.TEVG: Table 5-7, R151
def SEQ_TEVG_GROUPS (i : Nat) : Fld := ⟨0x81A + 32 * i, 15, 0⟩
-- SEQ.FAULT: Table 5-7, R151
def SEQ_FAULT_PC (i : Nat) : Fld := ⟨0x81B + 32 * i, 29, 16⟩
def SEQ_FAULT_CAUSE (i : Nat) : Fld := ⟨0x81B + 32 * i, 3, 0⟩
-- SEQ.EVOVR: Table 5-7, R151
def SEQ_EVOVR_COUNT (i : Nat) : Fld := ⟨0x81C + 32 * i, 15, 0⟩
-- SEQ.ISSUED: Table 5-7, R151
def SEQ_ISSUED_COUNT (i : Nat) : Fld := ⟨0x81D + 32 * i, 31, 0⟩
-- SEQ.CMDQ: Table 5-8, R151
def SEQ_CMDQ_FILL : Fld := ⟨0x812, 6, 0⟩
-- SEQ.FREECNT: Table 5-8, R151
def SEQ_FREECNT_COUNT : Fld := ⟨0x813, 5, 0⟩
-- SEQ.STICKY: Table 5-8, R151
def SEQ_STICKY_NOSQ : Fld := ⟨0x814, 3, 3⟩
def SEQ_STICKY_FAULT : Fld := ⟨0x814, 2, 2⟩
def SEQ_STICKY_BUSYWR : Fld := ⟨0x814, 1, 1⟩
def SEQ_STICKY_CMDOVF : Fld := ⟨0x814, 0, 0⟩
-- SEQ.CNT: Table 5-8, R151
def SEQ_CNT_COUNT (i : Nat) : Fld := ⟨0x815 + 1 * i, 15, 0⟩
-- SID.CLAIM: Table 14-10, R437
def SID_CLAIM_RATQ : Fld := ⟨0x1000, 31, 28⟩
def SID_CLAIM_RATK : Fld := ⟨0x1000, 27, 24⟩
def SID_CLAIM_LIVEQ : Fld := ⟨0x1000, 23, 20⟩
def SID_CLAIM_LIVEK : Fld := ⟨0x1000, 19, 16⟩
def SID_CLAIM_CTRL : Fld := ⟨0x1000, 15, 15⟩
def SID_CLAIM_RETQ : Fld := ⟨0x1000, 14, 14⟩
def SID_CLAIM_RETK : Fld := ⟨0x1000, 13, 13⟩
def SID_CLAIM_SNAPQ : Fld := ⟨0x1000, 12, 12⟩
def SID_CLAIM_SNAPK : Fld := ⟨0x1000, 11, 11⟩
def SID_CLAIM_HEALQ : Fld := ⟨0x1000, 10, 10⟩
def SID_CLAIM_HEALK : Fld := ⟨0x1000, 9, 9⟩
-- SID.CFG: Table 14-10, R437
def SID_CFG_BADMAX : Fld := ⟨0x1001, 15, 8⟩
def SID_CFG_HOLDOFF : Fld := ⟨0x1001, 7, 0⟩
-- SID.HOLD: Table 14-10, R437
def SID_HOLD_COUNTQ : Fld := ⟨0x1002, 15, 8⟩
def SID_HOLD_COUNTK : Fld := ⟨0x1002, 7, 0⟩
-- SID.WIN: Table 14-10, R437
def SID_WIN_FILL : Fld := ⟨0x1003, 24, 16⟩
def SID_WIN_LASTID : Fld := ⟨0x1003, 15, 0⟩
-- SID.STICKY: Table 14-10, R437
def SID_STICKY_MIRDROP : Fld := ⟨0x1004, 4, 4⟩
def SID_STICKY_DUP : Fld := ⟨0x1004, 3, 3⟩
def SID_STICKY_CASTLE : Fld := ⟨0x1004, 2, 2⟩
def SID_STICKY_CLAIMCHG : Fld := ⟨0x1004, 1, 1⟩
def SID_STICKY_SNAPSHOT : Fld := ⟨0x1004, 0, 0⟩
-- SID.CNT: Table 14-10, R437
def SID_CNT_COUNT (i : Nat) : Fld := ⟨0x1005 + 1 * i, 15, 0⟩
-- TIM.CTL: Table 15-2, R458
def TIM_CTL_UNSYNC : Fld := ⟨0x1400, 31, 31⟩
def TIM_CTL_STATE : Fld := ⟨0x1400, 1, 0⟩
-- TIM.INC: Table 15-2, R458
def TIM_INC_INC : Fld := ⟨0x1401, 31, 0⟩
-- TIM.NOWNS: Table 15-2, R458
def TIM_NOWNS_NS : Fld := ⟨0x1402, 29, 0⟩
-- TIM.NOWSECH: Table 15-2, R458
def TIM_NOWSECH_SEC : Fld := ⟨0x1403, 15, 0⟩
-- TIM.NOWSECL: Table 15-2, R458
def TIM_NOWSECL_SEC : Fld := ⟨0x1404, 31, 0⟩
-- TIM.NOWFRAC: Table 15-2, R458
def TIM_NOWFRAC_FRAC : Fld := ⟨0x1405, 15, 0⟩
-- TIM.STEPSECH: Table 15-2, R458
def TIM_STEPSECH_SEC : Fld := ⟨0x1406, 15, 0⟩
-- TIM.STEPSECL: Table 15-2, R458
def TIM_STEPSECL_SEC : Fld := ⟨0x1407, 31, 0⟩
-- TIM.STEPNS: Table 15-2, R458
def TIM_STEPNS_NS : Fld := ⟨0x1408, 31, 0⟩
-- TIM.STEPFRAC: Table 15-2, R458
def TIM_STEPFRAC_FRAC : Fld := ⟨0x1409, 15, 0⟩
-- TIM.STEPCTL: Table 15-2, R458
def TIM_STEPCTL_PEND : Fld := ⟨0x140A, 31, 31⟩
def TIM_STEPCTL_GO : Fld := ⟨0x140A, 0, 0⟩
-- TIM.THR: Table 15-2, R458
def TIM_THR_NS : Fld := ⟨0x140B, 31, 0⟩
-- TIM.STICKY: Table 15-2, R458
def TIM_STICKY_CMP1 : Fld := ⟨0x140C, 5, 5⟩
def TIM_STICKY_CMP0 : Fld := ⟨0x140C, 4, 4⟩
def TIM_STICKY_TXBAD : Fld := ⟨0x140C, 3, 3⟩
def TIM_STICKY_RXOVF : Fld := ⟨0x140C, 2, 2⟩
def TIM_STICKY_STEP : Fld := ⟨0x140C, 1, 1⟩
def TIM_STICKY_STEPREF : Fld := ⟨0x140C, 0, 0⟩
-- TIM.CNT: Table 15-2, R458
def TIM_CNT_COUNT (i : Nat) : Fld := ⟨0x140D + 1 * i, 15, 0⟩
-- TIM.ORBSTAMP0: Table 15-2, R458
def TIM_ORBSTAMP0_SEC : Fld := ⟨0x1414, 15, 0⟩
-- TIM.ORBSTAMP1: Table 15-2, R458
def TIM_ORBSTAMP1_SEC : Fld := ⟨0x1415, 31, 0⟩
-- TIM.ORBSTAMP2: Table 15-2, R458
def TIM_ORBSTAMP2_NS : Fld := ⟨0x1416, 29, 0⟩
-- TIM.ORBSTAMP3: Table 15-2, R458
def TIM_ORBSTAMP3_STALE : Fld := ⟨0x1417, 31, 31⟩
def TIM_ORBSTAMP3_FRAC : Fld := ⟨0x1417, 15, 0⟩
-- TIM.ORBSTAMP4: Table 15-2, R458
def TIM_ORBSTAMP4_ORBIT : Fld := ⟨0x1418, 31, 0⟩
-- TIM.CMPSEC: Table 15-2, R458
def TIM_CMPSEC_CSEC (i : Nat) : Fld := ⟨0x1420 + 4 * i, 31, 0⟩
-- TIM.CMPNS: Table 15-2, R458
def TIM_CMPNS_CNS (i : Nat) : Fld := ⟨0x1421 + 4 * i, 29, 0⟩
-- TIM.CMPST: Table 15-2, R458
def TIM_CMPST_ARMED (i : Nat) : Fld := ⟨0x1422 + 4 * i, 31, 31⟩
def TIM_CMPST_BCID (i : Nat) : Fld := ⟨0x1422 + 4 * i, 12, 0⟩
-- TIM.CMPORB: Table 15-2, R458
def TIM_CMPORB_ORBIT (i : Nat) : Fld := ⟨0x1423 + 4 * i, 31, 0⟩
-- TIM.TXCTL: Table 15-2, R458
def TIM_TXCTL_SEND : Fld := ⟨0x1430, 31, 31⟩
def TIM_TXCTL_BUSY : Fld := ⟨0x1430, 30, 30⟩
def TIM_TXCTL_PORT : Fld := ⟨0x1430, 28, 24⟩
def TIM_TXCTL_LEN : Fld := ⟨0x1430, 6, 0⟩
-- TIM.TXSTAMP0: Table 15-2, R458
def TIM_TXSTAMP0_VALID : Fld := ⟨0x1431, 31, 31⟩
def TIM_TXSTAMP0_SEC : Fld := ⟨0x1431, 15, 0⟩
-- TIM.TXSTAMP1: Table 15-2, R458
def TIM_TXSTAMP1_SEC : Fld := ⟨0x1432, 31, 0⟩
-- TIM.TXSTAMP2: Table 15-2, R458
def TIM_TXSTAMP2_NS : Fld := ⟨0x1433, 29, 0⟩
-- TIM.TXSTAMP3: Table 15-2, R458
def TIM_TXSTAMP3_FRAC : Fld := ⟨0x1434, 15, 0⟩
-- TIM.RXEN: Table 15-2, R458
def TIM_RXEN_PORTS : Fld := ⟨0x1438, 3, 0⟩
-- TIM.RXCTL: Table 15-2, R458
def TIM_RXCTL_COUNT : Fld := ⟨0x1439, 11, 8⟩
def TIM_RXCTL_NEXT : Fld := ⟨0x1439, 2, 0⟩
-- TIM.TXBUF: Table 15-2, R458
def TIM_TXBUF_BYTES (i : Nat) : Fld := ⟨0x1440 + 1 * i, 31, 0⟩
-- TIM.SLOT: Table 15-2, R458
def TIM_SLOT_BYTES (i j : Nat) : Fld := ⟨0x1500 + 32 * i + 1 * j, 31, 0⟩
-- TIM.SLOTST: Table 15-2, R458
def TIM_SLOTST_VALID (i : Nat) : Fld := ⟨0x1510 + 32 * i, 31, 31⟩
def TIM_SLOTST_PORT (i : Nat) : Fld := ⟨0x1510 + 32 * i, 28, 24⟩
def TIM_SLOTST_LEN (i : Nat) : Fld := ⟨0x1510 + 32 * i, 21, 16⟩
-- TIM.SLOTSECH: Table 15-2, R458
def TIM_SLOTSECH_SEC (i : Nat) : Fld := ⟨0x1511 + 32 * i, 15, 0⟩
-- TIM.SLOTSECL: Table 15-2, R458
def TIM_SLOTSECL_SEC (i : Nat) : Fld := ⟨0x1512 + 32 * i, 31, 0⟩
-- TIM.SLOTNS: Table 15-2, R458
def TIM_SLOTNS_NS (i : Nat) : Fld := ⟨0x1513 + 32 * i, 29, 0⟩
-- TIM.SLOTFRAC: Table 15-2, R458
def TIM_SLOTFRAC_FRAC (i : Nat) : Fld := ⟨0x1514 + 32 * i, 15, 0⟩
-- ERR.SUMMARY: Table 19-7, R535
def ERR_SUMMARY_UNITS : Fld := ⟨0x1800, 18, 0⟩
-- ERR.CFG: Table 19-7, R535
def ERR_CFG_AUTO : Fld := ⟨0x1801, 31, 31⟩
def ERR_CFG_PARMAX : Fld := ⟨0x1801, 23, 16⟩
def ERR_CFG_WDOG : Fld := ⟨0x1801, 15, 0⟩
-- ERR.STICKY: Table 19-7, R535
def ERR_STICKY_VOTE : Fld := ⟨0x1802, 6, 6⟩
def ERR_STICKY_CHIP : Fld := ⟨0x1802, 5, 5⟩
def ERR_STICKY_WDOG : Fld := ⟨0x1802, 4, 4⟩
def ERR_STICKY_ESCAL : Fld := ⟨0x1802, 3, 3⟩
def ERR_STICKY_QUAR : Fld := ⟨0x1802, 2, 2⟩
def ERR_STICKY_NOMAJ : Fld := ⟨0x1802, 1, 1⟩
def ERR_STICKY_CELLUE : Fld := ⟨0x1802, 0, 0⟩
-- ERR.CNT: Table 19-7, R535
def ERR_CNT_COUNT (i : Nat) : Fld := ⟨0x1803 + 1 * i, 15, 0⟩
-- ERR.REFSUP: Table 19-7, R535
def ERR_REFSUP_COUNT : Fld := ⟨0x180A, 15, 0⟩
-- ERR.REPSUP: Table 19-7, R535
def ERR_REPSUP_COUNT : Fld := ⟨0x180B, 15, 0⟩
-- ERR.CHIPCAUSE: Table 19-7, R535
def ERR_CHIPCAUSE_VALID : Fld := ⟨0x180C, 31, 31⟩
def ERR_CHIPCAUSE_CLASS : Fld := ⟨0x180C, 27, 22⟩
def ERR_CHIPCAUSE_STATE : Fld := ⟨0x180C, 2, 0⟩
-- ERR.LAST: Table 19-7, R535
def ERR_LAST_WORD0 : Fld := ⟨0x180D, 31, 0⟩
-- ERR.LASTDET: Table 19-7, R535
def ERR_LASTDET_DETAIL : Fld := ⟨0x180E, 31, 0⟩
-- ERR.VOTE: Table 19-7, R535
def ERR_VOTE_UE (i : Nat) : Fld := ⟨0x1810 + 1 * i, 31, 16⟩
def ERR_VOTE_CE (i : Nat) : Fld := ⟨0x1810 + 1 * i, 15, 0⟩
-- ERR.TEMP: Table 16-6, R474
def ERR_TEMP_VALID (i : Nat) : Fld := ⟨0x1F00 + 1 * i, 31, 31⟩
def ERR_TEMP_T (i : Nat) : Fld := ⟨0x1F00 + 1 * i, 15, 0⟩
-- ERR.GAPCFG: Table 16-6, R474
def ERR_GAPCFG_LANEBP : Fld := ⟨0x1F06, 31, 24⟩
def ERR_GAPCFG_QUIET : Fld := ⟨0x1F06, 23, 16⟩
def ERR_GAPCFG_TDCGAP : Fld := ⟨0x1F06, 11, 8⟩
def ERR_GAPCFG_SCRUBEN : Fld := ⟨0x1F06, 0, 0⟩
-- ERR.GAPSTAT: Table 16-6, R474
def ERR_GAPSTAT_GAPS : Fld := ⟨0x1F07, 31, 24⟩
def ERR_GAPSTAT_LANE : Fld := ⟨0x1F07, 17, 16⟩
def ERR_GAPSTAT_LONGEST : Fld := ⟨0x1F07, 15, 0⟩
-- ERR.DUE: Table 16-6, R474
def ERR_DUE_LAST : Fld := ⟨0x1F08, 31, 24⟩
def ERR_DUE_COUNT : Fld := ⟨0x1F08, 8, 0⟩
-- ERR.GAPSTICKY: Table 16-6, R474
def ERR_GAPSTICKY_NOGAP : Fld := ⟨0x1F09, 1, 1⟩
def ERR_GAPSTICKY_LANECUT : Fld := ⟨0x1F09, 0, 0⟩
-- ERR.GAPCNT: Table 16-6, R474
def ERR_GAPCNT_COUNT (i : Nat) : Fld := ⟨0x1F0A + 1 * i, 15, 0⟩
-- AFE.CFG: Table 7-5, R223
def AFE_CFG_ON (i : Nat) : Fld := ⟨0x2000 + 16 * i, 5, 5⟩
def AFE_CFG_POL (i : Nat) : Fld := ⟨0x2000 + 16 * i, 3, 3⟩
def AFE_CFG_FB (i : Nat) : Fld := ⟨0x2000 + 16 * i, 1, 0⟩
-- AFE.BLR: Table 7-5, R223
def AFE_BLR_CODE (i : Nat) : Fld := ⟨0x2001 + 16 * i, 11, 0⟩
-- AFE.DISC: Table 7-5, R223
def AFE_DISC_HYST (i : Nat) : Fld := ⟨0x2002 + 16 * i, 15, 13⟩
def AFE_DISC_THR (i : Nat) : Fld := ⟨0x2002 + 16 * i, 9, 0⟩
-- AFE.PULSE: Table 7-5, R223
def AFE_PULSE_SRC (i : Nat) : Fld := ⟨0x2003 + 16 * i, 29, 28⟩
def AFE_PULSE_CAP (i : Nat) : Fld := ⟨0x2003 + 16 * i, 27, 27⟩
def AFE_PULSE_FINE (i : Nat) : Fld := ⟨0x2003 + 16 * i, 25, 16⟩
def AFE_PULSE_BCID (i : Nat) : Fld := ⟨0x2003 + 16 * i, 12, 0⟩
-- AFE.PAMP: Table 7-5, R223
def AFE_PAMP_AMP (i : Nat) : Fld := ⟨0x2004 + 16 * i, 7, 0⟩
-- AFE.STAT: Table 7-5, R223
def AFE_STAT_QREQ (i : Nat) : Fld := ⟨0x2005 + 16 * i, 4, 4⟩
def AFE_STAT_QUAR (i : Nat) : Fld := ⟨0x2005 + 16 * i, 3, 3⟩
def AFE_STAT_QCAUSE (i : Nat) : Fld := ⟨0x2005 + 16 * i, 2, 1⟩
def AFE_STAT_LEVEL (i : Nat) : Fld := ⟨0x2005 + 16 * i, 0, 0⟩
-- AFE.QCNT: Table 7-5, R223
def AFE_QCNT_COUNT (i : Nat) : Fld := ⟨0x2006 + 16 * i, 15, 0⟩
-- AFE.STUCK: Table 7-5, R223
def AFE_STUCK_BP (i : Nat) : Fld := ⟨0x2007 + 16 * i, 15, 0⟩
-- AFE.DSTAT0: Table 7-5, R223
def AFE_DSTAT0_EDGES (i : Nat) : Fld := ⟨0x2008 + 16 * i, 31, 0⟩
-- AFE.DSTAT1: Table 7-5, R223
def AFE_DSTAT1_HIGHBP (i : Nat) : Fld := ⟨0x2009 + 16 * i, 31, 0⟩
-- ADC.CFG: Table 8-6, R256
def ADC_CFG_LEVEL (i : Nat) : Fld := ⟨0x3000 + 16 * i, 29, 16⟩
def ADC_CFG_MODE (i : Nat) : Fld := ⟨0x3000 + 16 * i, 1, 1⟩
def ADC_CFG_EN (i : Nat) : Fld := ⟨0x3000 + 16 * i, 0, 0⟩
-- ADC.CFG0: Table 8-6, R256
def ADC_CFG0_TRIG : Fld := ⟨0x3000, 15, 10⟩
def ADC_CFG0_BGEN : Fld := ⟨0x3000, 9, 9⟩
def ADC_CFG0_BUSY : Fld := ⟨0x3000, 8, 8⟩
-- ADC.CALA: Table 8-6, R256
def ADC_CALA_OFF (i : Nat) : Fld := ⟨0x3001 + 16 * i, 31, 16⟩
def ADC_CALA_GAIN (i : Nat) : Fld := ⟨0x3001 + 16 * i, 15, 0⟩
-- ADC.CALB: Table 8-6, R256
def ADC_CALB_OFF (i : Nat) : Fld := ⟨0x3002 + 16 * i, 31, 16⟩
def ADC_CALB_GAIN (i : Nat) : Fld := ⟨0x3002 + 16 * i, 15, 0⟩
-- ADC.RQ: Table 8-6, R256
def ADC_RQ_K (i : Nat) : Fld := ⟨0x3003 + 16 * i, 31, 16⟩
def ADC_RQ_QA (i : Nat) : Fld := ⟨0x3003 + 16 * i, 15, 8⟩
def ADC_RQ_QB (i : Nat) : Fld := ⟨0x3003 + 16 * i, 7, 0⟩
-- ADC.WSEL: Table 8-6, R256
def ADC_WSEL_A (i : Nat) : Fld := ⟨0x3004 + 16 * i, 31, 16⟩
def ADC_WSEL_B (i : Nat) : Fld := ⟨0x3004 + 16 * i, 15, 0⟩
-- ADC.STAMP: Table 8-6, R256
def ADC_STAMP_VALID (i : Nat) : Fld := ⟨0x3005 + 16 * i, 31, 31⟩
def ADC_STAMP_BG (i : Nat) : Fld := ⟨0x3005 + 16 * i, 30, 30⟩
def ADC_STAMP_RUNS (i : Nat) : Fld := ⟨0x3005 + 16 * i, 29, 16⟩
def ADC_STAMP_TEMP (i : Nat) : Fld := ⟨0x3005 + 16 * i, 15, 0⟩
-- ADC.MM0: Table 8-6, R256
def ADC_MM0_MAXA (i : Nat) : Fld := ⟨0x3006 + 16 * i, 31, 16⟩
def ADC_MM0_MINA (i : Nat) : Fld := ⟨0x3006 + 16 * i, 15, 0⟩
-- ADC.MM1: Table 8-6, R256
def ADC_MM1_MAXB (i : Nat) : Fld := ⟨0x3007 + 16 * i, 31, 16⟩
def ADC_MM1_MINB (i : Nat) : Fld := ⟨0x3007 + 16 * i, 15, 0⟩
-- ADC.ACC0: Table 8-6, R256
def ADC_ACC0_SAT (i : Nat) : Fld := ⟨0x3008 + 16 * i, 31, 31⟩
def ADC_ACC0_COUNT (i : Nat) : Fld := ⟨0x3008 + 16 * i, 30, 0⟩
-- ADC.ACC1: Table 8-6, R256
def ADC_ACC1_SUMAL (i : Nat) : Fld := ⟨0x3009 + 16 * i, 31, 0⟩
-- ADC.ACC2: Table 8-6, R256
def ADC_ACC2_SUMBH (i : Nat) : Fld := ⟨0x300A + 16 * i, 31, 16⟩
def ADC_ACC2_SUMAH (i : Nat) : Fld := ⟨0x300A + 16 * i, 15, 0⟩
-- ADC.ACC3: Table 8-6, R256
def ADC_ACC3_SUMBL (i : Nat) : Fld := ⟨0x300B + 16 * i, 31, 0⟩
-- ADC.ACC4: Table 8-6, R256
def ADC_ACC4_SQAL (i : Nat) : Fld := ⟨0x300C + 16 * i, 31, 0⟩
-- ADC.ACC5: Table 8-6, R256
def ADC_ACC5_SQAH (i : Nat) : Fld := ⟨0x300D + 16 * i, 31, 0⟩
-- ADC.ACC6: Table 8-6, R256
def ADC_ACC6_SQBL (i : Nat) : Fld := ⟨0x300E + 16 * i, 31, 0⟩
-- ADC.ACC7: Table 8-6, R256
def ADC_ACC7_SQBH (i : Nat) : Fld := ⟨0x300F + 16 * i, 31, 0⟩
-- TDC.CAL: Table 9-2, R278
def TDC_CAL_C2 (i j : Nat) : Fld := ⟨0x4000 + 8 * i + 1 * j, 31, 16⟩
def TDC_CAL_C1 (i j : Nat) : Fld := ⟨0x4000 + 8 * i + 1 * j, 15, 0⟩
-- TDC.ROLE: Table 9-2, R278
def TDC_ROLE_LEAD (i : Nat) : Fld := ⟨0x4003 + 8 * i, 5, 4⟩
def TDC_ROLE_TRAIL (i : Nat) : Fld := ⟨0x4003 + 8 * i, 3, 2⟩
def TDC_ROLE_SPARE (i : Nat) : Fld := ⟨0x4003 + 8 * i, 1, 0⟩
-- TDC.CALQ: Table 9-2, R278
def TDC_CALQ_Q2 (i : Nat) : Fld := ⟨0x4004 + 8 * i, 23, 16⟩
def TDC_CALQ_Q1 (i : Nat) : Fld := ⟨0x4004 + 8 * i, 15, 8⟩
def TDC_CALQ_Q0 (i : Nat) : Fld := ⟨0x4004 + 8 * i, 7, 0⟩
-- TDC.STAT: Table 9-2, R278
def TDC_STAT_FRESH (i : Nat) : Fld := ⟨0x4005 + 8 * i, 31, 31⟩
def TDC_STAT_AGEDORB (i : Nat) : Fld := ⟨0x4005 + 8 * i, 15, 0⟩
-- TDC.HSTAT0: Table 9-2, R278
def TDC_HSTAT0_HITS (i : Nat) : Fld := ⟨0x4006 + 8 * i, 31, 0⟩
-- TDC.HSTAT1: Table 9-2, R278
def TDC_HSTAT1_MERGED (i : Nat) : Fld := ⟨0x4007 + 8 * i, 31, 16⟩
def TDC_HSTAT1_ORPHAN (i : Nat) : Fld := ⟨0x4007 + 8 * i, 15, 0⟩
-- TDC.CALCTL: Table 9-3, R278
def TDC_CALCTL_EN : Fld := ⟨0x4800, 0, 0⟩
-- TDC.CALSTAT: Table 9-3, R278
def TDC_CALSTAT_ACCEPTED : Fld := ⟨0x4801, 31, 31⟩
def TDC_CALSTAT_RUNNING : Fld := ⟨0x4801, 30, 30⟩
def TDC_CALSTAT_RUNS : Fld := ⟨0x4801, 15, 0⟩
-- TDC.STICKY: Table 9-3, R278
def TDC_STICKY_DISCARD : Fld := ⟨0x4802, 1, 1⟩
def TDC_STICKY_AGED : Fld := ⟨0x4802, 0, 0⟩
-- TDC.CNT: Table 9-3, R278
def TDC_CNT_COUNT (i : Nat) : Fld := ⟨0x4803 + 1 * i, 15, 0⟩
-- TDC.TBCAP: Table 9-3, R278
def TDC_TBCAP_ARM (i : Nat) : Fld := ⟨0x4810 + 2 * i, 31, 31⟩
def TDC_TBCAP_VALID (i : Nat) : Fld := ⟨0x4810 + 2 * i, 30, 30⟩
def TDC_TBCAP_AGED (i : Nat) : Fld := ⟨0x4810 + 2 * i, 29, 29⟩
def TDC_TBCAP_EDGE (i : Nat) : Fld := ⟨0x4810 + 2 * i, 28, 28⟩
def TDC_TBCAP_BCID (i : Nat) : Fld := ⟨0x4810 + 2 * i, 22, 10⟩
def TDC_TBCAP_FINE (i : Nat) : Fld := ⟨0x4810 + 2 * i, 9, 0⟩
-- TDC.TBORB: Table 9-3, R278
def TDC_TBORB_ORBIT (i : Nat) : Fld := ⟨0x4811 + 2 * i, 31, 0⟩
-- FLT.CFG: Table 10-9, R301
def FLT_CFG_DEC (i : Nat) : Fld := ⟨0x5000 + 64 * i, 26, 24⟩
def FLT_CFG_REF (i : Nat) : Fld := ⟨0x5000 + 64 * i, 20, 16⟩
def FLT_CFG_NTAP (i : Nat) : Fld := ⟨0x5000 + 64 * i, 12, 8⟩
def FLT_CFG_FORM (i : Nat) : Fld := ⟨0x5000 + 64 * i, 7, 6⟩
def FLT_CFG_K (i : Nat) : Fld := ⟨0x5000 + 64 * i, 4, 2⟩
def FLT_CFG_RANK (i : Nat) : Fld := ⟨0x5000 + 64 * i, 1, 0⟩
-- FLT.COEF: Table 10-9, R301
def FLT_COEF_H (i j : Nat) : Fld := ⟨0x5001 + 64 * i + 1 * j, 17, 0⟩
-- FLT.TEVCFG: Table 10-9, R301
def FLT_TEVCFG_ABOVE (i : Nat) : Fld := ⟨0x5011 + 64 * i, 8, 8⟩
def FLT_TEVCFG_SEQ (i : Nat) : Fld := ⟨0x5011 + 64 * i, 4, 4⟩
def FLT_TEVCFG_DIR (i : Nat) : Fld := ⟨0x5011 + 64 * i, 1, 0⟩
-- FLT.TEVLVL: Table 10-9, R301
def FLT_TEVLVL_LEVEL (i : Nat) : Fld := ⟨0x5012 + 64 * i, 19, 0⟩
-- FLT.TEVHYS: Table 10-9, R301
def FLT_TEVHYS_HYST (i : Nat) : Fld := ⟨0x5013 + 64 * i, 18, 0⟩
-- FLT.OUT: Table 10-9, R301
def FLT_OUT_BLANK (i : Nat) : Fld := ⟨0x5014 + 64 * i, 31, 31⟩
def FLT_OUT_G (i : Nat) : Fld := ⟨0x5014 + 64 * i, 20, 20⟩
def FLT_OUT_VALUE (i : Nat) : Fld := ⟨0x5014 + 64 * i, 19, 0⟩
-- FLT.TSTAT0: Table 10-9, R301
def FLT_TSTAT0_EVENTS (i : Nat) : Fld := ⟨0x5015 + 64 * i, 31, 0⟩
-- FLT.TSTAT1: Table 10-9, R301
def FLT_TSTAT1_CLIPS (i : Nat) : Fld := ⟨0x5016 + 64 * i, 31, 0⟩
-- FLT.TEVMAP: Table 10-10, R301
def FLT_TEVMAP_MAP (i : Nat) : Fld := ⟨0x5030 + 1 * i, 31, 0⟩
-- FLT.STICKY: Table 10-10, R301
def FLT_STICKY_BADSET : Fld := ⟨0x5038, 1, 1⟩
def FLT_STICKY_CLIP : Fld := ⟨0x5038, 0, 0⟩
-- FLT.CNT: Table 10-10, R301
def FLT_CNT_COUNT (i : Nat) : Fld := ⟨0x5039 + 1 * i, 15, 0⟩
-- FLT.BADCH: Table 10-10, R301
def FLT_BADCH_CHANNEL : Fld := ⟨0x503B, 7, 0⟩
-- ACQ.HEN: Table 11-14, R332
def ACQ_HEN_EN (i : Nat) : Fld := ⟨0x9000 + 1 * i, 31, 0⟩
-- ACQ.HWIN: Table 11-14, R332
def ACQ_HWIN_LEN : Fld := ⟨0x9008, 12, 8⟩
def ACQ_HWIN_PRE : Fld := ⟨0x9008, 6, 4⟩
def ACQ_HWIN_AMODE : Fld := ⟨0x9008, 0, 0⟩
-- ACQ.HUBID: Table 11-14, R332
def ACQ_HUBID_ID : Fld := ⟨0x9009, 11, 0⟩
-- ACQ.WSEL: Table 11-14, R332
def ACQ_WSEL_SEL (i : Nat) : Fld := ⟨0x9010 + 1 * i, 31, 0⟩
-- ACQ.WWIN: Table 11-14, R332
def ACQ_WWIN_POST : Fld := ⟨0x9018, 24, 16⟩
def ACQ_WWIN_PRE : Fld := ⟨0x9018, 6, 0⟩
-- ACQ.MARKCFG: Table 11-14, R332
def ACQ_MARKCFG_TEVCH : Fld := ⟨0x9019, 31, 24⟩
def ACQ_MARKCFG_TEVEN : Fld := ⟨0x9019, 23, 23⟩
def ACQ_MARKCFG_TEVWIN : Fld := ⟨0x9019, 22, 22⟩
def ACQ_MARKCFG_CMDEN : Fld := ⟨0x9019, 21, 21⟩
def ACQ_MARKCFG_CMDWIN : Fld := ⟨0x9019, 20, 20⟩
def ACQ_MARKCFG_TBEN : Fld := ⟨0x9019, 19, 16⟩
def ACQ_MARKCFG_TBWIN : Fld := ⟨0x9019, 15, 12⟩
-- ACQ.METER: Table 11-14, R332
def ACQ_METER_FLUSH : Fld := ⟨0x901A, 31, 16⟩
def ACQ_METER_DEPTH : Fld := ⟨0x901A, 15, 0⟩
-- ACQ.SHED: Table 11-14, R332
def ACQ_SHED_KIB : Fld := ⟨0x901B, 12, 0⟩
-- ACQ.CREDH: Table 11-14, R332
def ACQ_CREDH_CREDIT : Fld := ⟨0x901C, 31, 0⟩
-- ACQ.CREDW: Table 11-14, R332
def ACQ_CREDW_CREDIT : Fld := ⟨0x901D, 31, 0⟩
-- ACQ.CAPCFG: Table 11-14, R332
def ACQ_CAPCFG_CH : Fld := ⟨0x9020, 31, 24⟩
def ACQ_CAPCFG_TBLINE : Fld := ⟨0x9020, 21, 20⟩
def ACQ_CAPCFG_SRC : Fld := ⟨0x9020, 17, 16⟩
def ACQ_CAPCFG_AREA : Fld := ⟨0x9020, 3, 0⟩
-- ACQ.CAPWIN: Table 11-14, R332
def ACQ_CAPWIN_POST : Fld := ⟨0x9021, 31, 16⟩
def ACQ_CAPWIN_PRE : Fld := ⟨0x9021, 15, 0⟩
-- ACQ.CAPSEL: Table 11-14, R332
def ACQ_CAPSEL_SEL (i : Nat) : Fld := ⟨0x9022 + 1 * i, 31, 0⟩
-- ACQ.CAPSTAT: Table 11-14, R332
def ACQ_CAPSTAT_ARMED : Fld := ⟨0x902A, 31, 31⟩
def ACQ_CAPSTAT_WAITREL : Fld := ⟨0x902A, 30, 30⟩
def ACQ_CAPSTAT_SENDING : Fld := ⟨0x902A, 29, 29⟩
def ACQ_CAPSTAT_BCID : Fld := ⟨0x902A, 12, 0⟩
-- ACQ.CAPEFF: Table 11-14, R332
def ACQ_CAPEFF_POST : Fld := ⟨0x902B, 31, 16⟩
def ACQ_CAPEFF_PRE : Fld := ⟨0x902B, 15, 0⟩
-- ACQ.CAPORB: Table 11-14, R332
def ACQ_CAPORB_ORBIT : Fld := ⟨0x902C, 31, 0⟩
-- ACQ.LEDGER: Table 11-14, R332
def ACQ_LEDGER_ORBIT : Fld := ⟨0x9030, 31, 0⟩
-- ACQ.STICKY: Table 11-14, R332
def ACQ_STICKY_CAPTRUNC : Fld := ⟨0x9031, 3, 3⟩
def ACQ_STICKY_SHED : Fld := ⟨0x9031, 2, 2⟩
def ACQ_STICKY_THIN : Fld := ⟨0x9031, 1, 1⟩
def ACQ_STICKY_DEMOTE : Fld := ⟨0x9031, 0, 0⟩
-- ACQ.CNT: Table 11-14, R332
def ACQ_CNT_COUNT (i : Nat) : Fld := ⟨0x9032 + 1 * i, 15, 0⟩
-- BUF.CFG: Table 12-6, R370
def BUF_CFG_CUT : Fld := ⟨0xA000, 21, 16⟩
def BUF_CFG_CREQ : Fld := ⟨0xA000, 3, 0⟩
-- BUF.NOTICE: Table 12-6, R370
def BUF_NOTICE_SEQEN : Fld := ⟨0xA001, 4, 4⟩
def BUF_NOTICE_CLASS : Fld := ⟨0xA001, 3, 0⟩
-- BUF.QRES: Table 12-6, R370
def BUF_QRES_S : Fld := ⟨0xA002, 30, 16⟩
def BUF_QRES_M : Fld := ⟨0xA002, 14, 0⟩
-- BUF.DEAD: Table 12-6, R370
def BUF_DEAD_OFFQ : Fld := ⟨0xA003, 31, 31⟩
def BUF_DEAD_OFFK : Fld := ⟨0xA003, 30, 30⟩
def BUF_DEAD_BP : Fld := ⟨0xA003, 15, 0⟩
-- BUF.SIDE: Table 12-6, R370
def BUF_SIDE_DEAD : Fld := ⟨0xA004, 1, 0⟩
-- BUF.QFILL: Table 12-6, R370
def BUF_QFILL_PAGES (i : Nat) : Fld := ⟨0xA005 + 1 * i, 14, 0⟩
-- BUF.FREE: Table 12-6, R370
def BUF_FREE_DESC : Fld := ⟨0xA009, 29, 16⟩
def BUF_FREE_PAGES : Fld := ⟨0xA009, 14, 0⟩
-- BUF.STICKY: Table 12-6, R370
def BUF_STICKY_WAITSPACE : Fld := ⟨0xA00A, 4, 4⟩
def BUF_STICKY_DEADQ : Fld := ⟨0xA00A, 3, 3⟩
def BUF_STICKY_DEADK : Fld := ⟨0xA00A, 2, 2⟩
def BUF_STICKY_POISON : Fld := ⟨0xA00A, 1, 1⟩
def BUF_STICKY_CORR : Fld := ⟨0xA00A, 0, 0⟩
-- BUF.CNT: Table 12-6, R370
def BUF_CNT_COUNT (i : Nat) : Fld := ⟨0xA00B + 1 * i, 15, 0⟩
-- BUF.POISONSEQ: Table 12-6, R370
def BUF_POISONSEQ_SEQ : Fld := ⟨0xA010, 31, 0⟩
-- BUF.SCRUB: Table 12-6, R370
def BUF_SCRUB_PASSES : Fld := ⟨0xA011, 31, 16⟩
def BUF_SCRUB_POS : Fld := ⟨0xA011, 15, 0⟩
-- BUF.GSTAT: Table 12-6, R370
def BUF_GSTAT_ABORTS : Fld := ⟨0xA012, 31, 16⟩
def BUF_GSTAT_GAMBITS : Fld := ⟨0xA012, 15, 0⟩
-- BUF.ECC: Table 12-6, R370
def BUF_ECC_UE (i : Nat) : Fld := ⟨0xA020 + 1 * i, 31, 16⟩
def BUF_ECC_CE (i : Nat) : Fld := ⟨0xA020 + 1 * i, 15, 0⟩
-- CMP.CFG: Table 12-7, R371
def CMP_CFG_B : Fld := ⟨0xA800, 28, 24⟩
def CMP_CFG_DELTAW : Fld := ⟨0xA800, 17, 17⟩
def CMP_CFG_DELTAH : Fld := ⟨0xA800, 16, 16⟩
def CMP_CFG_ENGEN : Fld := ⟨0xA800, 7, 0⟩
-- CMP.STAT: Table 12-7, R371
def CMP_STAT_ENGQ : Fld := ⟨0xA801, 31, 24⟩
def CMP_STAT_BUSY : Fld := ⟨0xA801, 23, 16⟩
def CMP_STAT_QUEUED : Fld := ⟨0xA801, 13, 0⟩
-- CMP.JOBS: Table 12-7, R371
def CMP_JOBS_COUNT : Fld := ⟨0xA802, 31, 0⟩
-- CMP.FAILS: Table 12-7, R371
def CMP_FAILS_COUNT : Fld := ⟨0xA803, 31, 0⟩
-- CMP.BYTESIN: Table 12-7, R371
def CMP_BYTESIN_BYTES : Fld := ⟨0xA804, 31, 0⟩
-- CMP.BYTESOUT: Table 12-7, R371
def CMP_BYTESOUT_BYTES : Fld := ⟨0xA805, 31, 0⟩
-- CMP.STICKY: Table 12-7, R371
def CMP_STICKY_ENGQ : Fld := ⟨0xA806, 2, 2⟩
def CMP_STICKY_POISON : Fld := ⟨0xA806, 1, 1⟩
def CMP_STICKY_FAIL : Fld := ⟨0xA806, 0, 0⟩
-- CMP.CNT: Table 12-7, R371
def CMP_CNT_COUNT (i : Nat) : Fld := ⟨0xA807 + 1 * i, 15, 0⟩
-- LNK.PCFG: Table 13-9, R403
def LNK_PCFG_EN (i : Nat) : Fld := ⟨0xB000 + 64 * i, 31, 31⟩
def LNK_PCFG_LOOP (i : Nat) : Fld := ⟨0xB000 + 64 * i, 6, 4⟩
def LNK_PCFG_PRBSCHK (i : Nat) : Fld := ⟨0xB000 + 64 * i, 3, 3⟩
def LNK_PCFG_PRBSGEN (i : Nat) : Fld := ⟨0xB000 + 64 * i, 2, 2⟩
def LNK_PCFG_RXINV (i : Nat) : Fld := ⟨0xB000 + 64 * i, 1, 1⟩
def LNK_PCFG_TXINV (i : Nat) : Fld := ⟨0xB000 + 64 * i, 0, 0⟩
-- LNK.PSTAT: Table 13-9, R403
def LNK_PSTAT_LOCKED (i : Nat) : Fld := ⟨0xB001 + 64 * i, 31, 31⟩
def LNK_PSTAT_CDR (i : Nat) : Fld := ⟨0xB001 + 64 * i, 30, 30⟩
def LNK_PSTAT_INSERV (i : Nat) : Fld := ⟨0xB001 + 64 * i, 29, 29⟩
def LNK_PSTAT_MEMBER (i : Nat) : Fld := ⟨0xB001 + 64 * i, 28, 28⟩
def LNK_PSTAT_FAILED (i : Nat) : Fld := ⟨0xB001 + 64 * i, 27, 27⟩
def LNK_PSTAT_LOOPACT (i : Nat) : Fld := ⟨0xB001 + 64 * i, 26, 26⟩
-- LNK.EYE: Table 13-9, R403
def LNK_EYE_VALID (i : Nat) : Fld := ⟨0xB002 + 64 * i, 31, 31⟩
def LNK_EYE_WIDTH (i : Nat) : Fld := ⟨0xB002 + 64 * i, 22, 16⟩
def LNK_EYE_HEIGHT (i : Nat) : Fld := ⟨0xB002 + 64 * i, 8, 0⟩
-- LNK.EQ: Table 13-9, R403
def LNK_EQ_CTLE (i : Nat) : Fld := ⟨0xB003 + 64 * i, 27, 24⟩
def LNK_EQ_DFE1 (i : Nat) : Fld := ⟨0xB003 + 64 * i, 23, 16⟩
def LNK_EQ_DFE2 (i : Nat) : Fld := ⟨0xB003 + 64 * i, 15, 8⟩
def LNK_EQ_DFE3 (i : Nat) : Fld := ⟨0xB003 + 64 * i, 7, 0⟩
-- LNK.EQSAVE: Table 13-9, R403
def LNK_EQSAVE_SVALID (i : Nat) : Fld := ⟨0xB004 + 64 * i, 31, 31⟩
def LNK_EQSAVE_COEF (i : Nat) : Fld := ⟨0xB004 + 64 * i, 27, 0⟩
-- LNK.STICKY: Table 13-9, R403
def LNK_STICKY_PRBSERR (i : Nat) : Fld := ⟨0xB005 + 64 * i, 3, 3⟩
def LNK_STICKY_FAIL (i : Nat) : Fld := ⟨0xB005 + 64 * i, 2, 2⟩
def LNK_STICKY_CODEERR (i : Nat) : Fld := ⟨0xB005 + 64 * i, 1, 1⟩
def LNK_STICKY_UNLOCK (i : Nat) : Fld := ⟨0xB005 + 64 * i, 0, 0⟩
-- LNK.CNT: Table 13-9, R403
def LNK_CNT_COUNT (i j : Nat) : Fld := ⟨0xB006 + 64 * i + 1 * j, 15, 0⟩
-- LNK.PRBSCNT: Table 13-9, R403
def LNK_PRBSCNT_BITS (i : Nat) : Fld := ⟨0xB00A + 64 * i, 31, 0⟩
-- LNK.LOSSBP: Table 13-9, R403
def LNK_LOSSBP_BP (i : Nat) : Fld := ⟨0xB00B + 64 * i, 15, 0⟩
-- LNK.TASYM: Table 15-3, R459
def LNK_TASYM_ASYM (p : Nat) : Fld := ⟨0xB010 + 64 * p, 31, 0⟩
-- LNK.TRX: Table 15-3, R459
def LNK_TRX_COUNT (p : Nat) : Fld := ⟨0xB011 + 64 * p, 31, 0⟩
-- LNK.TFWD: Table 15-3, R459
def LNK_TFWD_COUNT (p : Nat) : Fld := ⟨0xB012 + 64 * p, 31, 0⟩
-- LNK.TRES: Table 15-3, R459
def LNK_TRES_RES (p : Nat) : Fld := ⟨0xB013 + 64 * p, 31, 0⟩
-- LNK.FRAMES: Table 14-11, R438
def LNK_FRAMES_COUNT (i : Nat) : Fld := ⟨0xB020 + 64 * i, 31, 0⟩
-- LNK.LSTICKY: Table 14-11, R438
def LNK_LSTICKY_NOMATCH (i : Nat) : Fld := ⟨0xB021 + 64 * i, 3, 3⟩
def LNK_LSTICKY_TMDROP (i : Nat) : Fld := ⟨0xB021 + 64 * i, 2, 2⟩
def LNK_LSTICKY_CMDERR (i : Nat) : Fld := ⟨0xB021 + 64 * i, 1, 1⟩
def LNK_LSTICKY_HDRBAD (i : Nat) : Fld := ⟨0xB021 + 64 * i, 0, 0⟩
-- LNK.LCNT: Table 14-11, R438
def LNK_LCNT_COUNT (i j : Nat) : Fld := ⟨0xB022 + 64 * i + 1 * j, 15, 0⟩
-- LNK.PEDGE: Table 14-11, R438
def LNK_PEDGE_BCID (i : Nat) : Fld := ⟨0xB026 + 64 * i, 23, 16⟩
def LNK_PEDGE_MAP (i : Nat) : Fld := ⟨0xB026 + 64 * i, 15, 0⟩
-- LNK.PCOINC: Table 14-11, R438
def LNK_PCOINC_COUNT (i : Nat) : Fld := ⟨0xB027 + 64 * i, 31, 0⟩
-- LNK.PKTS: Table 14-11, R438
def LNK_PKTS_COUNT (i : Nat) : Fld := ⟨0xB028 + 64 * i, 31, 0⟩
-- LNK.RESENT: Table 14-11, R438
def LNK_RESENT_COUNT (i : Nat) : Fld := ⟨0xB029 + 64 * i, 15, 0⟩
-- LNK.LGCFG: Table 13-10, R403
def LNK_LGCFG_SINGLE (i : Nat) : Fld := ⟨0xB600 + 16 * i, 12, 12⟩
def LNK_LGCFG_REJOIN (i : Nat) : Fld := ⟨0xB600 + 16 * i, 7, 4⟩
def LNK_LGCFG_DROP (i : Nat) : Fld := ⟨0xB600 + 16 * i, 3, 0⟩
-- LNK.LGSTAT: Table 13-10, R403
def LNK_LGSTAT_SINGLE (i : Nat) : Fld := ⟨0xB601 + 16 * i, 31, 31⟩
def LNK_LGSTAT_EPOCH (i : Nat) : Fld := ⟨0xB601 + 16 * i, 11, 8⟩
def LNK_LGSTAT_FAILED (i : Nat) : Fld := ⟨0xB601 + 16 * i, 7, 4⟩
def LNK_LGSTAT_MEMBERS (i : Nat) : Fld := ⟨0xB601 + 16 * i, 3, 0⟩
-- LNK.LGSTICKY: Table 13-10, R403
def LNK_LGSTICKY_CFGIGN (i : Nat) : Fld := ⟨0xB602 + 16 * i, 2, 2⟩
def LNK_LGSTICKY_REJOIN (i : Nat) : Fld := ⟨0xB602 + 16 * i, 1, 1⟩
def LNK_LGSTICKY_REBOND (i : Nat) : Fld := ⟨0xB602 + 16 * i, 0, 0⟩
-- LNK.LGCNT: Table 13-10, R403
def LNK_LGCNT_COUNT (i j : Nat) : Fld := ⟨0xB603 + 16 * i + 1 * j, 15, 0⟩
-- LNK.ORBIT: Table 14-12, R438
def LNK_ORBIT_NB : Fld := ⟨0xB640, 29, 16⟩
def LNK_ORBIT_BCID : Fld := ⟨0xB640, 12, 0⟩
-- LNK.ORBNUM: Table 14-12, R438
def LNK_ORBNUM_ORBIT : Fld := ⟨0xB641, 31, 0⟩
-- LNK.GAP: Table 14-12, R438
def LNK_GAP_INGAP : Fld := ⟨0xB642, 31, 31⟩
def LNK_GAP_LAST : Fld := ⟨0xB642, 15, 0⟩
-- LNK.SEQ: Table 14-12, R438
def LNK_SEQ_NEXT : Fld := ⟨0xB643, 31, 0⟩
-- LNK.TCFWD: Table 14-12, R438
def LNK_TCFWD_PATHS : Fld := ⟨0xB644, 3, 0⟩
-- LNK.FCSTICKY: Table 14-12, R438
def LNK_FCSTICKY_ORBMISS : Fld := ⟨0xB645, 4, 4⟩
def LNK_FCSTICKY_ORBSLIP : Fld := ⟨0xB645, 3, 3⟩
def LNK_FCSTICKY_FCMISM : Fld := ⟨0xB645, 2, 2⟩
def LNK_FCSTICKY_FCIGN : Fld := ⟨0xB645, 1, 1⟩
def LNK_FCSTICKY_FCINV : Fld := ⟨0xB645, 0, 0⟩
-- LNK.FCCNT: Table 14-12, R438
def LNK_FCCNT_COUNT (i : Nat) : Fld := ⟨0xB646 + 1 * i, 15, 0⟩
-- MON.CTL: Table 17-7, R501
def MON_CTL_RUN : Fld := ⟨0xC000, 31, 31⟩
def MON_CTL_LEN : Fld := ⟨0xC000, 29, 24⟩
def MON_CTL_ILEN : Fld := ⟨0xC000, 19, 16⟩
def MON_CTL_EXCEN : Fld := ⟨0xC000, 8, 8⟩
def MON_CTL_LEDTEN : Fld := ⟨0xC000, 7, 7⟩
def MON_CTL_LEDT : Fld := ⟨0xC000, 5, 0⟩
-- MON.STAT: Table 17-7, R501
def MON_STAT_CALBUSY : Fld := ⟨0xC001, 31, 31⟩
def MON_STAT_INJ : Fld := ⟨0xC001, 30, 30⟩
def MON_STAT_INJPEND : Fld := ⟨0xC001, 29, 29⟩
def MON_STAT_WAITBUD : Fld := ⟨0xC001, 28, 28⟩
def MON_STAT_CUR : Fld := ⟨0xC001, 21, 16⟩
def MON_STAT_GAINCAL : Fld := ⟨0xC001, 7, 0⟩
-- MON.ILK: Table 17-7, R501
def MON_ILK_ENTRY : Fld := ⟨0xC002, 21, 16⟩
def MON_ILK_EXC : Fld := ⟨0xC002, 1, 1⟩
def MON_ILK_LED : Fld := ⟨0xC002, 0, 0⟩
-- MON.STICKY: Table 17-7, R501
def MON_STICKY_CAPPED : Fld := ⟨0xC003, 4, 4⟩
def MON_STICKY_BADENT : Fld := ⟨0xC003, 3, 3⟩
def MON_STICKY_CHECK : Fld := ⟨0xC003, 2, 2⟩
def MON_STICKY_RANGE : Fld := ⟨0xC003, 1, 1⟩
def MON_STICKY_ILK : Fld := ⟨0xC003, 0, 0⟩
-- MON.CNT: Table 17-7, R501
def MON_CNT_COUNT (i : Nat) : Fld := ⟨0xC004 + 1 * i, 15, 0⟩
-- MON.CALSTAMP: Table 17-7, R501
def MON_CALSTAMP_VALID : Fld := ⟨0xC009, 31, 31⟩
def MON_CALSTAMP_TEMP : Fld := ⟨0xC009, 15, 0⟩
-- MON.CALG: Table 17-7, R501
def MON_CALG_QUAL (i : Nat) : Fld := ⟨0xC010 + 2 * i, 31, 24⟩
def MON_CALG_OFF (i : Nat) : Fld := ⟨0xC010 + 2 * i, 23, 0⟩
-- MON.CALGG: Table 17-7, R501
def MON_CALGG_GAIN (i : Nat) : Fld := ⟨0xC011 + 2 * i, 23, 0⟩
-- MON.EXCTRIM: Table 17-7, R501
def MON_EXCTRIM_SRC2 : Fld := ⟨0xC020, 31, 16⟩
def MON_EXCTRIM_SRC1 : Fld := ⟨0xC020, 15, 0⟩
-- MON.PINS: Table 17-8, R501
def MON_PINS_BIAS (i : Nat) : Fld := ⟨0xC100 + 16 * i, 28, 24⟩
def MON_PINS_EXCB (i : Nat) : Fld := ⟨0xC100 + 16 * i, 22, 18⟩
def MON_PINS_EXCA (i : Nat) : Fld := ⟨0xC100 + 16 * i, 16, 12⟩
def MON_PINS_NEG (i : Nat) : Fld := ⟨0xC100 + 16 * i, 10, 6⟩
def MON_PINS_POS (i : Nat) : Fld := ⟨0xC100 + 16 * i, 4, 0⟩
-- MON.CONV: Table 17-8, R501
def MON_CONV_NCONV (i : Nat) : Fld := ⟨0xC101 + 16 * i, 31, 24⟩
def MON_CONV_SETTLE (i : Nat) : Fld := ⟨0xC101 + 16 * i, 23, 16⟩
def MON_CONV_RATE (i : Nat) : Fld := ⟨0xC101 + 16 * i, 14, 12⟩
def MON_CONV_GAIN (i : Nat) : Fld := ⟨0xC101 + 16 * i, 10, 8⟩
def MON_CONV_EXC (i : Nat) : Fld := ⟨0xC101 + 16 * i, 6, 4⟩
def MON_CONV_WIRE (i : Nat) : Fld := ⟨0xC101 + 16 * i, 1, 0⟩
-- MON.LIN: Table 17-8, R501
def MON_LIN_CURVE (i : Nat) : Fld := ⟨0xC102 + 16 * i, 31, 28⟩
def MON_LIN_POLY (i : Nat) : Fld := ⟨0xC102 + 16 * i, 26, 24⟩
def MON_LIN_TENT (i : Nat) : Fld := ⟨0xC102 + 16 * i, 21, 16⟩
-- MON.PAR: Table 17-8, R501
def MON_PAR_BETA (i : Nat) : Fld := ⟨0xC103 + 16 * i, 31, 16⟩
def MON_PAR_R0 (i : Nat) : Fld := ⟨0xC103 + 16 * i, 15, 0⟩
-- MON.LO: Table 17-8, R501
def MON_LO_LO (i : Nat) : Fld := ⟨0xC104 + 16 * i, 31, 0⟩
-- MON.HI: Table 17-8, R501
def MON_HI_HI (i : Nat) : Fld := ⟨0xC105 + 16 * i, 31, 0⟩
-- MON.CMP: Table 17-8, R501
def MON_CMP_ACTION (i : Nat) : Fld := ⟨0xC106 + 16 * i, 31, 30⟩
def MON_CMP_OUT (i : Nat) : Fld := ⟨0xC106 + 16 * i, 28, 28⟩
def MON_CMP_BAD (i : Nat) : Fld := ⟨0xC106 + 16 * i, 27, 27⟩
def MON_CMP_HYST (i : Nat) : Fld := ⟨0xC106 + 16 * i, 15, 0⟩
-- MON.ECNT: Table 17-8, R501
def MON_ECNT_RANGE (i : Nat) : Fld := ⟨0xC107 + 16 * i, 31, 16⟩
def MON_ECNT_SKIP (i : Nat) : Fld := ⟨0xC107 + 16 * i, 15, 0⟩
-- MON.ACC0: Table 17-8, R501
def MON_ACC0_SAT (i : Nat) : Fld := ⟨0xC108 + 16 * i, 31, 31⟩
def MON_ACC0_PART (i : Nat) : Fld := ⟨0xC108 + 16 * i, 30, 30⟩
def MON_ACC0_COUNT (i : Nat) : Fld := ⟨0xC108 + 16 * i, 29, 0⟩
-- MON.ACC1: Table 17-8, R501
def MON_ACC1_SUML (i : Nat) : Fld := ⟨0xC109 + 16 * i, 31, 0⟩
-- MON.ACC2: Table 17-8, R501
def MON_ACC2_SUMH (i : Nat) : Fld := ⟨0xC10A + 16 * i, 15, 0⟩
-- MON.ACC3: Table 17-8, R501
def MON_ACC3_MIN (i : Nat) : Fld := ⟨0xC10B + 16 * i, 31, 0⟩
-- MON.ACC4: Table 17-8, R501
def MON_ACC4_MAX (i : Nat) : Fld := ⟨0xC10C + 16 * i, 31, 0⟩
-- MON.POLYC: Table 17-9, R501
def MON_POLYC_C (i : Nat) : Fld := ⟨0xC400 + 1 * i, 31, 0⟩
-- LED.CTL: Table 18-3, R519
def LED_CTL_FLUSH : Fld := ⟨0xD000, 31, 31⟩
def LED_CTL_EN : Fld := ⟨0xD000, 8, 8⟩
-- LED.CFG: Table 18-3, R519
def LED_CFG_BLANK : Fld := ⟨0xD001, 7, 0⟩
-- LED.HEAT: Table 18-3, R519
def LED_HEAT_TCUT : Fld := ⟨0xD002, 31, 16⟩
def LED_HEAT_TDER : Fld := ⟨0xD002, 15, 0⟩
-- LED.HEATCFG: Table 18-3, R519
def LED_HEATCFG_REQ : Fld := ⟨0xD003, 31, 31⟩
def LED_HEATCFG_TMO : Fld := ⟨0xD003, 7, 0⟩
-- LED.TSTAT: Table 18-3, R519
def LED_TSTAT_VALID : Fld := ⟨0xD004, 31, 31⟩
def LED_TSTAT_SCALE : Fld := ⟨0xD004, 24, 16⟩
def LED_TSTAT_T : Fld := ⟨0xD004, 15, 0⟩
-- LED.DIAG: Table 18-3, R519
def LED_DIAG_EVERY : Fld := ⟨0xD005, 31, 24⟩
def LED_DIAG_VSH : Fld := ⟨0xD005, 21, 16⟩
def LED_DIAG_HOLD : Fld := ⟨0xD005, 15, 0⟩
-- LED.DSTAT: Table 18-3, R519
def LED_DSTAT_DUE : Fld := ⟨0xD006, 31, 31⟩
def LED_DSTAT_RUNNING : Fld := ⟨0xD006, 30, 30⟩
def LED_DSTAT_LAMP : Fld := ⟨0xD006, 22, 16⟩
def LED_DSTAT_SINCE : Fld := ⟨0xD006, 15, 0⟩
-- LED.QSTAT: Table 18-3, R519
def LED_QSTAT_ROWON : Fld := ⟨0xD007, 19, 19⟩
def LED_QSTAT_ROW : Fld := ⟨0xD007, 18, 16⟩
def LED_QSTAT_FREE : Fld := ⟨0xD007, 11, 8⟩
def LED_QSTAT_FILLED : Fld := ⟨0xD007, 7, 0⟩
-- LED.STICKY: Table 18-3, R519
def LED_STICKY_CUT : Fld := ⟨0xD008, 5, 5⟩
def LED_STICKY_DERATE : Fld := ⟨0xD008, 4, 4⟩
def LED_STICKY_LATE : Fld := ⟨0xD008, 3, 3⟩
def LED_STICKY_SUPPQ : Fld := ⟨0xD008, 2, 2⟩
def LED_STICKY_CAPPED : Fld := ⟨0xD008, 1, 1⟩
def LED_STICKY_FAULT : Fld := ⟨0xD008, 0, 0⟩
-- LED.CNT: Table 18-3, R519
def LED_CNT_COUNT (i : Nat) : Fld := ⟨0xD009 + 1 * i, 15, 0⟩
-- LED.USE: Table 18-3, R519
def LED_USE_USE (i : Nat) : Fld := ⟨0xD010 + 1 * i, 31, 0⟩
-- LED.STATUS: Table 18-3, R519
def LED_STATUS_STATUS (i : Nat) : Fld := ⟨0xD014 + 1 * i, 31, 0⟩
-- LED.PSTAT0: Table 18-3, R519
def LED_PSTAT0_FIRED : Fld := ⟨0xD01C, 31, 0⟩
-- LED.PSTAT1: Table 18-3, R519
def LED_PSTAT1_LATE : Fld := ⟨0xD01D, 31, 16⟩
def LED_PSTAT1_DERATED : Fld := ⟨0xD01D, 15, 0⟩
-- LED.PSTAT2: Table 18-3, R519
def LED_PSTAT2_SUPPQ : Fld := ⟨0xD01E, 31, 16⟩
def LED_PSTAT2_SUPPCUT : Fld := ⟨0xD01E, 15, 0⟩
-- LED.PSTAT3: Table 18-3, R519
def LED_PSTAT3_SUPPOFF : Fld := ⟨0xD01F, 31, 16⟩
def LED_PSTAT3_DIAG : Fld := ⟨0xD01F, 15, 0⟩
-- LED.QCOL: Table 18-3, R519
def LED_QCOL_PC (i : Nat) : Fld := ⟨0xD020 + 1 * i, 31, 0⟩
-- TRG.THIT: Table 10-11, R302
def TRG_THIT_LEVEL (i : Nat) : Fld := ⟨0xE000 + 1 * i, 21, 0⟩
-- TRG.TCFG: Table 10-11, R302
def TRG_TCFG_EMASK (i : Nat) : Fld := ⟨0xE100 + 1 * i, 31, 16⟩
def TRG_TCFG_SHIFT (i : Nat) : Fld := ⟨0xE100 + 1 * i, 3, 0⟩
-- TRG.FOMASK0: Table 7-6, R224
def TRG_FOMASK0_MASK (i : Nat) : Fld := ⟨0xE800 + 8 * i, 31, 0⟩
-- TRG.FOMASK1: Table 7-6, R224
def TRG_FOMASK1_MASK (i : Nat) : Fld := ⟨0xE801 + 8 * i, 31, 0⟩
-- TRG.FTOCFG: Table 7-6, R224
def TRG_FTOCFG_EN (i : Nat) : Fld := ⟨0xE802 + 8 * i, 8, 8⟩
def TRG_FTOCFG_DELAY (i : Nat) : Fld := ⟨0xE802 + 8 * i, 4, 0⟩
-- TRG.FTOCNT: Table 7-6, R224
def TRG_FTOCNT_COUNT (i : Nat) : Fld := ⟨0xE803 + 8 * i, 31, 0⟩
-- TRG.TBCOMP: Table 11-15, R332
def TRG_TBCOMP_COARSE (i : Nat) : Fld := ⟨0xE820 + 1 * i, 13, 8⟩
def TRG_TBCOMP_FINE (i : Nat) : Fld := ⟨0xE820 + 1 * i, 5, 0⟩
-- TRG.TBDRV: Table 11-15, R332
def TRG_TBDRV_ALIGN (i : Nat) : Fld := ⟨0xE824 + 1 * i, 31, 31⟩
def TRG_TBDRV_EN (i : Nat) : Fld := ⟨0xE824 + 1 * i, 8, 8⟩
def TRG_TBDRV_SRC (i : Nat) : Fld := ⟨0xE824 + 1 * i, 5, 4⟩
def TRG_TBDRV_WIDTH (i : Nat) : Fld := ⟨0xE824 + 1 * i, 3, 0⟩
-- TRG.TBSTAT: Table 11-15, R332
def TRG_TBSTAT_ALIGNPEND : Fld := ⟨0xE828, 7, 4⟩
def TRG_TBSTAT_LEVEL : Fld := ⟨0xE828, 3, 0⟩
-- TRG.TFRAME: Table 11-15, R332
def TRG_TFRAME_FMT : Fld := ⟨0xE829, 24, 24⟩
def TRG_TFRAME_PORT1 : Fld := ⟨0xE829, 23, 12⟩
def TRG_TFRAME_PORT0 : Fld := ⟨0xE829, 11, 0⟩

end F

/-- The words of unit CAP. -/
def capRows : List WordRow :=
  [⟨0x0, 1048576, 1, 1048576, 1, 0x0, 0x0, 0x0, 0x0, 0x0⟩,
   ⟨0x1, 1048576, 1, 1048576, 1, 0x0, 0x0, 0x0, 0x0, 0x74240000⟩,
   ⟨0x2, 1048576, 1, 1048576, 1, 0x0, 0x0, 0x0, 0x0, 0x0⟩,
   ⟨0x3, 1048576, 1, 1048576, 1, 0x0, 0x0, 0x0, 0x0, 0x0⟩,
   ⟨0x4, 1, 8, 1048576, 1, 0x0, 0x0, 0x0, 0x0, 0x0⟩,
   ⟨0xC, 1, 2, 1048576, 1, 0x0, 0x0, 0x0, 0x0, 0x0⟩,
   ⟨0x10, 1048576, 1, 1048576, 1, 0x0, 0x0, 0x1, 0x0, 0x0⟩,
   ⟨0x11, 1048576, 1, 1048576, 1, 0x0, 0x0, 0x0, 0x0, 0x0⟩,
   ⟨0x12, 1048576, 1, 1048576, 1, 0x0, 0x0, 0x0, 0x0, 0x0⟩]

/-- The words of unit FUS. -/
def fusRows : List WordRow :=
  [⟨0x100, 1048576, 1, 1048576, 1, 0x0, 0x0, 0x0, 0x0, 0x0⟩,
   ⟨0x101, 1, 2, 1048576, 1, 0x0, 0x0, 0x0, 0x0, 0x0⟩,
   ⟨0x103, 1, 5, 1048576, 1, 0x0, 0x0, 0x0, 0x0, 0x0⟩,
   ⟨0x108, 1048576, 1, 1048576, 1, 0x0, 0x0, 0x0, 0x0, 0x0⟩,
   ⟨0x109, 1048576, 1, 1048576, 1, 0x0, 0x0, 0x0, 0x0, 0x0⟩,
   ⟨0x10A, 1048576, 1, 1048576, 1, 0x0, 0x0, 0x0, 0x0, 0x0⟩,
   ⟨0x10B, 1048576, 1, 1048576, 1, 0x0, 0x0, 0x0, 0x0, 0x0⟩,
   ⟨0x10C, 1048576, 1, 1048576, 1, 0x0, 0x0, 0x0, 0x0, 0x0⟩,
   ⟨0x10D, 1048576, 1, 1048576, 1, 0x0, 0x0, 0x0, 0x0, 0x0⟩]

/-- The words of unit RST. -/
def rstRows : List WordRow :=
  [⟨0x200, 1048576, 1, 1048576, 1, 0x0, 0x0, 0x0, 0x0, 0x6E⟩,
   ⟨0x201, 1048576, 1, 1048576, 1, 0x40, 0x0, 0x0, 0x0, 0x0⟩,
   ⟨0x202, 1048576, 1, 1048576, 1, 0x0, 0x0, 0x0, 0x0, 0x0⟩,
   ⟨0x203, 1048576, 1, 1048576, 1, 0x1FFF, 0x0, 0x0, 0x0, 0x100⟩,
   ⟨0x204, 1048576, 1, 1048576, 1, 0x0, 0x0, 0x0, 0x0, 0x400FFFF⟩,
   ⟨0x205, 1048576, 1, 1048576, 1, 0x0, 0x0, 0x7, 0x0, 0x0⟩,
   ⟨0x206, 1, 3, 1048576, 1, 0x0, 0x0, 0x0, 0x0, 0x0⟩,
   ⟨0x209, 1048576, 1, 1048576, 1, 0x0, 0x0, 0x0, 0x0, 0x0⟩]

/-- The words of unit CLK. -/
def clkRows : List WordRow :=
  [⟨0x300, 1048576, 1, 1048576, 1, 0x0, 0x0, 0x0, 0x0, 0x0⟩,
   ⟨0x301, 1048576, 1, 1048576, 1, 0x0, 0x0, 0x0, 0x0, 0x0⟩,
   ⟨0x302, 1048576, 1, 1048576, 1, 0x0, 0x0, 0x1F, 0x0, 0x0⟩,
   ⟨0x303, 1, 5, 1048576, 1, 0x0, 0x0, 0x0, 0x0, 0x0⟩,
   ⟨0x308, 1048576, 1, 1048576, 1, 0x0, 0x0, 0x0, 0x0, 0x0⟩,
   ⟨0x309, 1048576, 1, 1048576, 1, 0x0, 0x0, 0x0, 0x0, 0x0⟩]

/-- The words of unit PWR. -/
def pwrRows : List WordRow :=
  [⟨0x400, 1048576, 1, 1048576, 1, 0x0, 0x0, 0x0, 0x0, 0x0⟩,
   ⟨0x401, 1048576, 1, 1048576, 1, 0x0, 0x0, 0x0, 0x0, 0x3FFFFF⟩,
   ⟨0x402, 1, 11, 1048576, 1, 0xFFFFFF, 0x0, 0x0, 0x0, 0x0⟩,
   ⟨0x40D, 1048576, 1, 1048576, 1, 0x0, 0x0, 0x7, 0x0, 0x0⟩,
   ⟨0x40E, 1, 3, 1048576, 1, 0x0, 0x0, 0x0, 0x0, 0x0⟩,
   ⟨0x420, 1048576, 1, 1048576, 1, 0x0, 0x0, 0x0, 0x0, 0x1000000⟩,
   ⟨0x421, 1048576, 1, 1048576, 1, 0x0, 0x0, 0x0, 0x0, 0x0⟩,
   ⟨0x422, 1048576, 1, 1048576, 1, 0xFFFF, 0x0, 0x0, 0x0, 0x100⟩,
   ⟨0x423, 1048576, 1, 1048576, 1, 0xFFFFFFFF, 0x0, 0x0, 0x0, 0x1A40168⟩,
   ⟨0x424, 1048576, 1, 1048576, 1, 0x0, 0x0, 0x0, 0x0, 0x100⟩,
   ⟨0x425, 1048576, 1, 1048576, 1, 0x0, 0x0, 0x0, 0x0, 0x0⟩,
   ⟨0x426, 1048576, 1, 1048576, 1, 0x0, 0x0, 0x0, 0x0, 0x0⟩,
   ⟨0x427, 1, 4, 1048576, 1, 0x0, 0x1FFFFFF, 0x0, 0x0, 0x0⟩,
   ⟨0x42B, 1, 4, 1048576, 1, 0x0, 0x0, 0x0, 0x0, 0x0⟩,
   ⟨0x42F, 1048576, 1, 1048576, 1, 0x77777, 0x0, 0x0, 0x0, 0x1123⟩,
   ⟨0x430, 1048576, 1, 1048576, 1, 0x0, 0x0, 0x1F, 0x0, 0x0⟩,
   ⟨0x431, 1, 5, 1048576, 1, 0x0, 0x0, 0x0, 0x0, 0x0⟩,
   ⟨0x440, 1048576, 1, 1048576, 1, 0x0, 0x0, 0x0, 0x0, 0x0⟩,
   ⟨0x441, 1, 4, 1048576, 1, 0x0, 0xFFFF, 0x0, 0x0, 0x0⟩,
   ⟨0x445, 1048576, 1, 1048576, 1, 0x0, 0x0, 0x0, 0x0, 0x0⟩,
   ⟨0x446, 1048576, 1, 1048576, 1, 0x0, 0x0, 0x0, 0x0, 0x0⟩,
   ⟨0x447, 1048576, 1, 1048576, 1, 0x0, 0x0, 0x0, 0x0, 0x0⟩]

/-- The words of unit SEQ. -/
def seqRows : List WordRow :=
  [⟨0x800, 32, 64, 1, 16, 0xFFFFFFFF, 0x0, 0x0, 0x0, 0x0⟩,
   ⟨0x810, 32, 64, 1048576, 1, 0x730, 0x0, 0x0, 0x0, 0x0⟩,
   ⟨0x811, 32, 64, 1048576, 1, 0x71F3FFF, 0x0, 0x0, 0x0, 0x0⟩,
   ⟨0x832, 32, 63, 1, 4, 0x3FFF, 0x0, 0x0, 0x0, 0x0⟩,
   ⟨0x836, 32, 63, 1048576, 1, 0x1FFF, 0x0, 0x0, 0x0, 0x0⟩,
   ⟨0x837, 32, 63, 1048576, 1, 0x0, 0x0, 0x1FFF, 0x0, 0x0⟩,
   ⟨0x838, 32, 63, 1048576, 1, 0xFFFFFF, 0x0, 0x0, 0x0, 0x0⟩,
   ⟨0x839, 32, 63, 1048576, 1, 0x3FFF, 0x0, 0x0, 0x0, 0x0⟩,
   ⟨0x83A, 32, 63, 1048576, 1, 0xFFFF, 0x0, 0x0, 0x0, 0x0⟩,
   ⟨0x83B, 32, 63, 1048576, 1, 0x0, 0x0, 0x0, 0x0, 0x0⟩,
   ⟨0x83C, 32, 63, 1048576, 1, 0x0, 0x0, 0x0, 0x0, 0x0⟩,
   ⟨0x81D, 32, 64, 1048576, 1, 0x0, 0x0, 0x0, 0x0, 0x0⟩,
   ⟨0x812, 1048576, 1, 1048576, 1, 0x0, 0x0, 0x0, 0x0, 0x0⟩,
   ⟨0x813, 1048576, 1, 1048576, 1, 0x0, 0x0, 0x0, 0x0, 0x3F⟩,
   ⟨0x814, 1048576, 1, 1048576, 1, 0x0, 0x0, 0xF, 0x0, 0x0⟩,
   ⟨0x815, 1, 4, 1048576, 1, 0x0, 0x0, 0x0, 0x0, 0x0⟩]

/-- The words of unit SID. -/
def sidRows : List WordRow :=
  [⟨0x1000, 1048576, 1, 1048576, 1, 0x0, 0x0, 0x0, 0x0, 0x0⟩,
   ⟨0x1001, 1048576, 1, 1048576, 1, 0xFFFF, 0x0, 0x0, 0x0, 0x810⟩,
   ⟨0x1002, 1048576, 1, 1048576, 1, 0x0, 0x0, 0x0, 0x0, 0x0⟩,
   ⟨0x1003, 1048576, 1, 1048576, 1, 0x0, 0x0, 0x0, 0x0, 0x0⟩,
   ⟨0x1004, 1048576, 1, 1048576, 1, 0x0, 0x0, 0x1F, 0x0, 0x0⟩,
   ⟨0x1005, 1, 5, 1048576, 1, 0x0, 0x0, 0x0, 0x0, 0x0⟩]

/-- The words of unit TIM. -/
def timRows : List WordRow :=
  [⟨0x1400, 1048576, 1, 1048576, 1, 0x0, 0x0, 0x0, 0x0, 0x0⟩,
   ⟨0x1401, 1048576, 1, 1048576, 1, 0xFFFFFFFF, 0x0, 0x0, 0x0, 0xC800000⟩,
   ⟨0x1402, 1048576, 1, 1048576, 1, 0x0, 0x0, 0x0, 0x0, 0x0⟩,
   ⟨0x1403, 1048576, 1, 1048576, 1, 0x0, 0x0, 0x0, 0x0, 0x0⟩,
   ⟨0x1404, 1048576, 1, 1048576, 1, 0x0, 0x0, 0x0, 0x0, 0x0⟩,
   ⟨0x1405, 1048576, 1, 1048576, 1, 0x0, 0x0, 0x0, 0x0, 0x0⟩,
   ⟨0x1406, 1048576, 1, 1048576, 1, 0xFFFF, 0x0, 0x0, 0x0, 0x0⟩,
   ⟨0x1407, 1048576, 1, 1048576, 1, 0xFFFFFFFF, 0x0, 0x0, 0x0, 0x0⟩,
   ⟨0x1408, 1048576, 1, 1048576, 1, 0xFFFFFFFF, 0x0, 0x0, 0x0, 0x0⟩,
   ⟨0x1409, 1048576, 1, 1048576, 1, 0xFFFF, 0x0, 0x0, 0x0, 0x0⟩,
   ⟨0x140A, 1048576, 1, 1048576, 1, 0x0, 0x0, 0x0, 0x0, 0x0⟩,
   ⟨0x140B, 1048576, 1, 1048576, 1, 0xFFFFFFFF, 0x0, 0x0, 0x0, 0x3E8⟩,
   ⟨0x140C, 1048576, 1, 1048576, 1, 0x0, 0x0, 0x3F, 0x0, 0x0⟩,
   ⟨0x140D, 1, 6, 1048576, 1, 0x0, 0x0, 0x0, 0x0, 0x0⟩,
   ⟨0x1414, 1048576, 1, 1048576, 1, 0x0, 0x0, 0x0, 0x0, 0x0⟩,
   ⟨0x1415, 1048576, 1, 1048576, 1, 0x0, 0x0, 0x0, 0x0, 0x0⟩,
   ⟨0x1416, 1048576, 1, 1048576, 1, 0x0, 0x0, 0x0, 0x0, 0x0⟩,
   ⟨0x1417, 1048576, 1, 1048576, 1, 0x0, 0x0, 0x0, 0x0, 0x0⟩,
   ⟨0x1418, 1048576, 1, 1048576, 1, 0x0, 0x0, 0x0, 0x0, 0x0⟩,
   ⟨0x1420, 4, 2, 1048576, 1, 0xFFFFFFFF, 0x0, 0x0, 0x0, 0x0⟩,
   ⟨0x1421, 4, 2, 1048576, 1, 0x3FFFFFFF, 0x0, 0x0, 0x0, 0x0⟩,
   ⟨0x1422, 4, 2, 1048576, 1, 0x0, 0x0, 0x0, 0x0, 0x0⟩,
   ⟨0x1423, 4, 2, 1048576, 1, 0x0, 0x0, 0x0, 0x0, 0x0⟩,
   ⟨0x1430, 1048576, 1, 1048576, 1, 0x1F00007F, 0x0, 0x0, 0x0, 0x0⟩,
   ⟨0x1431, 1048576, 1, 1048576, 1, 0x0, 0x0, 0x0, 0x0, 0x0⟩,
   ⟨0x1432, 1048576, 1, 1048576, 1, 0x0, 0x0, 0x0, 0x0, 0x0⟩,
   ⟨0x1433, 1048576, 1, 1048576, 1, 0x0, 0x0, 0x0, 0x0, 0x0⟩,
   ⟨0x1434, 1048576, 1, 1048576, 1, 0x0, 0x0, 0x0, 0x0, 0x0⟩,
   ⟨0x1438, 1048576, 1, 1048576, 1, 0xF, 0x0, 0x0, 0x0, 0x3⟩,
   ⟨0x1439, 1048576, 1, 1048576, 1, 0x0, 0x0, 0x0, 0x0, 0x0⟩,
   ⟨0x1440, 1, 16, 1048576, 1, 0xFFFFFFFF, 0x0, 0x0, 0x0, 0x0⟩,
   ⟨0x1500, 32, 8, 1, 16, 0x0, 0x0, 0x0, 0x0, 0x0⟩,
   ⟨0x1510, 32, 8, 1048576, 1, 0x0, 0x0, 0x80000000, 0x0, 0x0⟩,
   ⟨0x1511, 32, 8, 1048576, 1, 0x0, 0x0, 0x0, 0x0, 0x0⟩,
   ⟨0x1512, 32, 8, 1048576, 1, 0x0, 0x0, 0x0, 0x0, 0x0⟩,
   ⟨0x1513, 32, 8, 1048576, 1, 0x0, 0x0, 0x0, 0x0, 0x0⟩,
   ⟨0x1514, 32, 8, 1048576, 1, 0x0, 0x0, 0x0, 0x0, 0x0⟩]

/-- The words of unit ERR. -/
def errRows : List WordRow :=
  [⟨0x1800, 1048576, 1, 1048576, 1, 0x0, 0x0, 0x0, 0x0, 0x0⟩,
   ⟨0x1801, 1048576, 1, 1048576, 1, 0x80FFFFFF, 0x0, 0x0, 0x0, 0x80040400⟩,
   ⟨0x1802, 1048576, 1, 1048576, 1, 0x0, 0x0, 0x7F, 0x0, 0x0⟩,
   ⟨0x1803, 1, 7, 1048576, 1, 0x0, 0x0, 0x0, 0x0, 0x0⟩,
   ⟨0x180A, 1048576, 1, 1048576, 1, 0x0, 0x0, 0x0, 0xFFFF, 0x0⟩,
   ⟨0x180B, 1048576, 1, 1048576, 1, 0x0, 0x0, 0x0, 0xFFFF, 0x0⟩,
   ⟨0x180C, 1048576, 1, 1048576, 1, 0x0, 0x0, 0x80000000, 0x0, 0x0⟩,
   ⟨0x180D, 1048576, 1, 1048576, 1, 0x0, 0x0, 0x0, 0x0, 0x0⟩,
   ⟨0x180E, 1048576, 1, 1048576, 1, 0x0, 0x0, 0x0, 0x0, 0x0⟩,
   ⟨0x1810, 1, 6, 1048576, 1, 0x0, 0x0, 0x0, 0xFFFFFFFF, 0x0⟩,
   ⟨0x1F00, 1, 6, 1048576, 1, 0x0, 0x0, 0x0, 0x0, 0x0⟩,
   ⟨0x1F06, 1048576, 1, 1048576, 1, 0xFFFF0F01, 0x0, 0x0, 0x0, 0x200001⟩,
   ⟨0x1F07, 1048576, 1, 1048576, 1, 0x0, 0x0, 0x0, 0x0, 0x0⟩,
   ⟨0x1F08, 1048576, 1, 1048576, 1, 0x0, 0x0, 0x0, 0x0, 0x0⟩,
   ⟨0x1F09, 1048576, 1, 1048576, 1, 0x0, 0x0, 0x3, 0x0, 0x0⟩,
   ⟨0x1F0A, 1, 2, 1048576, 1, 0x0, 0x0, 0x0, 0x0, 0x0⟩]

/-- The words of unit AFE. -/
def afeRows : List WordRow :=
  [⟨0x2000, 16, 256, 1048576, 1, 0x20, 0xB, 0x0, 0x0, 0x0⟩,
   ⟨0x2001, 16, 256, 1048576, 1, 0xFFF, 0x0, 0x0, 0x0, 0x0⟩,
   ⟨0x2002, 16, 256, 1048576, 1, 0x0, 0xE3FF, 0x0, 0x0, 0x0⟩,
   ⟨0x2003, 16, 256, 1048576, 1, 0x3BFF1FFF, 0x0, 0x0, 0x0, 0x0⟩,
   ⟨0x2004, 16, 256, 1048576, 1, 0xFF, 0x0, 0x0, 0x0, 0x0⟩,
   ⟨0x2005, 16, 256, 1048576, 1, 0x0, 0x0, 0x8, 0x0, 0x0⟩,
   ⟨0x2006, 16, 256, 1048576, 1, 0x0, 0x0, 0x0, 0x0, 0x0⟩,
   ⟨0x2007, 16, 256, 1048576, 1, 0xFFFF, 0x0, 0x0, 0x0, 0xFFFF⟩,
   ⟨0x2008, 16, 256, 1048576, 1, 0x0, 0x0, 0x0, 0x0, 0x0⟩,
   ⟨0x2009, 16, 256, 1048576, 1, 0x0, 0x0, 0x0, 0x0, 0x0⟩]

/-- The words of unit ADC. -/
def adcRows : List WordRow :=
  [⟨0x3000, 1048576, 1, 1048576, 1, 0xFE00, 0x3FFF0003, 0x0, 0x0, 0x3E002200⟩,
   ⟨0x3000, 16, 256, 1048576, 1, 0x0, 0x3FFF0003, 0x0, 0x0, 0x3E000000⟩,
   ⟨0x3001, 16, 256, 1048576, 1, 0x0, 0x0, 0x0, 0x0, 0x4000⟩,
   ⟨0x3002, 16, 256, 1048576, 1, 0x0, 0x0, 0x0, 0x0, 0x4000⟩,
   ⟨0x3003, 16, 256, 1048576, 1, 0x0, 0x0, 0x0, 0x0, 0x8000FFFF⟩,
   ⟨0x3004, 16, 256, 1048576, 1, 0x0, 0x0, 0x0, 0x0, 0x0⟩,
   ⟨0x3005, 16, 256, 1048576, 1, 0x0, 0x0, 0x0, 0x0, 0x0⟩,
   ⟨0x3006, 16, 256, 1048576, 1, 0x0, 0x0, 0x0, 0x0, 0x80007FFF⟩,
   ⟨0x3007, 16, 256, 1048576, 1, 0x0, 0x0, 0x0, 0x0, 0x80007FFF⟩,
   ⟨0x3008, 16, 256, 1048576, 1, 0x0, 0x0, 0x0, 0x0, 0x0⟩,
   ⟨0x3009, 16, 256, 1048576, 1, 0x0, 0x0, 0x0, 0x0, 0x0⟩,
   ⟨0x300A, 16, 256, 1048576, 1, 0x0, 0x0, 0x0, 0x0, 0x0⟩,
   ⟨0x300B, 16, 256, 1048576, 1, 0x0, 0x0, 0x0, 0x0, 0x0⟩,
   ⟨0x300C, 16, 256, 1048576, 1, 0x0, 0x0, 0x0, 0x0, 0x0⟩,
   ⟨0x300D, 16, 256, 1048576, 1, 0x0, 0x0, 0x0, 0x0, 0x0⟩,
   ⟨0x300E, 16, 256, 1048576, 1, 0x0, 0x0, 0x0, 0x0, 0x0⟩,
   ⟨0x300F, 16, 256, 1048576, 1, 0x0, 0x0, 0x0, 0x0, 0x0⟩]

/-- The words of unit TDC. -/
def tdcRows : List WordRow :=
  [⟨0x4000, 8, 256, 1, 3, 0x0, 0x0, 0x0, 0x0, 0x4000200⟩,
   ⟨0x4003, 8, 256, 1048576, 1, 0x0, 0x0, 0x0, 0x0, 0x6⟩,
   ⟨0x4004, 8, 256, 1048576, 1, 0x0, 0x0, 0x0, 0x0, 0xFFFFFF⟩,
   ⟨0x4005, 8, 256, 1048576, 1, 0x0, 0x0, 0x0, 0x0, 0x0⟩,
   ⟨0x4006, 8, 256, 1048576, 1, 0x0, 0x0, 0x0, 0x0, 0x0⟩,
   ⟨0x4007, 8, 256, 1048576, 1, 0x0, 0x0, 0x0, 0x0, 0x0⟩,
   ⟨0x4800, 1048576, 1, 1048576, 1, 0x1, 0x0, 0x0, 0x0, 0x1⟩,
   ⟨0x4801, 1048576, 1, 1048576, 1, 0x0, 0x0, 0x0, 0x0, 0x0⟩,
   ⟨0x4802, 1048576, 1, 1048576, 1, 0x0, 0x0, 0x3, 0x0, 0x0⟩,
   ⟨0x4803, 1, 2, 1048576, 1, 0x0, 0x0, 0x0, 0x0, 0x0⟩,
   ⟨0x4810, 2, 4, 1048576, 1, 0x90000000, 0x0, 0x0, 0x0, 0x0⟩,
   ⟨0x4811, 2, 4, 1048576, 1, 0x0, 0x0, 0x0, 0x0, 0x0⟩]

/-- The words of unit FLT. -/
def fltRows : List WordRow :=
  [⟨0x5000, 64, 256, 1048576, 1, 0x0, 0x71F1FDF, 0x0, 0x0, 0xC⟩,
   ⟨0x5001, 64, 256, 1, 16, 0x0, 0x3FFFF, 0x0, 0x0, 0x0⟩,
   ⟨0x5011, 64, 256, 1048576, 1, 0x0, 0x13, 0x0, 0x0, 0x0⟩,
   ⟨0x5012, 64, 256, 1048576, 1, 0x0, 0xFFFFF, 0x0, 0x0, 0x0⟩,
   ⟨0x5013, 64, 256, 1048576, 1, 0x0, 0x7FFFF, 0x0, 0x0, 0x0⟩,
   ⟨0x5014, 64, 256, 1048576, 1, 0x0, 0x0, 0x0, 0x0, 0x80000000⟩,
   ⟨0x5015, 64, 256, 1048576, 1, 0x0, 0x0, 0x0, 0x0, 0x0⟩,
   ⟨0x5016, 64, 256, 1048576, 1, 0x0, 0x0, 0x0, 0x0, 0x0⟩,
   ⟨0x5030, 1, 8, 1048576, 1, 0x0, 0x0, 0x0, 0xFFFFFFFF, 0x0⟩,
   ⟨0x5038, 1048576, 1, 1048576, 1, 0x0, 0x0, 0x3, 0x0, 0x0⟩,
   ⟨0x5039, 1, 2, 1048576, 1, 0x0, 0x0, 0x0, 0x0, 0x0⟩,
   ⟨0x503B, 1048576, 1, 1048576, 1, 0x0, 0x0, 0x0, 0x0, 0x0⟩]

/-- The words of unit ACQ. -/
def acqRows : List WordRow :=
  [⟨0x9000, 1, 8, 1048576, 1, 0x0, 0xFFFFFFFF, 0x0, 0x0, 0x0⟩,
   ⟨0x9008, 1048576, 1, 1048576, 1, 0x0, 0x1F71, 0x0, 0x0, 0x820⟩,
   ⟨0x9009, 1048576, 1, 1048576, 1, 0x0, 0xFFF, 0x0, 0x0, 0x0⟩,
   ⟨0x9010, 1, 8, 1048576, 1, 0x0, 0xFFFFFFFF, 0x0, 0x0, 0x0⟩,
   ⟨0x9018, 1048576, 1, 1048576, 1, 0x0, 0x1FF007F, 0x0, 0x0, 0x100004⟩,
   ⟨0x9019, 1048576, 1, 1048576, 1, 0x0, 0xFFFFF000, 0x0, 0x0, 0x0⟩,
   ⟨0x901A, 1048576, 1, 1048576, 1, 0xFFFF0000, 0xFFFF, 0x0, 0x0, 0x401000⟩,
   ⟨0x901B, 1048576, 1, 1048576, 1, 0x1FFF, 0x0, 0x0, 0x0, 0x1000⟩,
   ⟨0x901C, 1048576, 1, 1048576, 1, 0x0, 0x0, 0x0, 0x0, 0x0⟩,
   ⟨0x901D, 1048576, 1, 1048576, 1, 0x0, 0x0, 0x0, 0x0, 0x0⟩,
   ⟨0x9020, 1048576, 1, 1048576, 1, 0x0, 0xFF33000F, 0x0, 0x0, 0x8⟩,
   ⟨0x9021, 1048576, 1, 1048576, 1, 0x0, 0xFFFFFFFF, 0x0, 0x0, 0x1000100⟩,
   ⟨0x9022, 1, 8, 1048576, 1, 0x0, 0xFFFFFFFF, 0x0, 0x0, 0x0⟩,
   ⟨0x902A, 1048576, 1, 1048576, 1, 0x0, 0x0, 0x0, 0x0, 0x0⟩,
   ⟨0x902B, 1048576, 1, 1048576, 1, 0x0, 0x0, 0x0, 0x0, 0x0⟩,
   ⟨0x902C, 1048576, 1, 1048576, 1, 0x0, 0x0, 0x0, 0x0, 0x0⟩,
   ⟨0x9030, 1048576, 1, 1048576, 1, 0x0, 0x0, 0x0, 0x0, 0x0⟩,
   ⟨0x9031, 1048576, 1, 1048576, 1, 0x0, 0x0, 0xF, 0x0, 0x0⟩,
   ⟨0x9032, 1, 4, 1048576, 1, 0x0, 0x0, 0x0, 0x0, 0x0⟩]

/-- The words of unit BUF. -/
def bufRows : List WordRow :=
  [⟨0xA000, 1048576, 1, 1048576, 1, 0x3F0000, 0xF, 0x0, 0x0, 0x40000⟩,
   ⟨0xA001, 1048576, 1, 1048576, 1, 0x1F, 0x0, 0x0, 0x0, 0xF⟩,
   ⟨0xA002, 1048576, 1, 1048576, 1, 0x7FFF7FFF, 0x0, 0x0, 0x0, 0x4000100⟩,
   ⟨0xA003, 1048576, 1, 1048576, 1, 0xC000FFFF, 0x0, 0x0, 0x0, 0x1000⟩,
   ⟨0xA004, 1048576, 1, 1048576, 1, 0x0, 0x0, 0x0, 0x0, 0x0⟩,
   ⟨0xA005, 1, 4, 1048576, 1, 0x0, 0x0, 0x0, 0x0, 0x0⟩,
   ⟨0xA009, 1048576, 1, 1048576, 1, 0x0, 0x0, 0x0, 0x0, 0x20006000⟩,
   ⟨0xA00A, 1048576, 1, 1048576, 1, 0x0, 0x0, 0x1F, 0x0, 0x0⟩,
   ⟨0xA00B, 1, 5, 1048576, 1, 0x0, 0x0, 0x0, 0x0, 0x0⟩,
   ⟨0xA010, 1048576, 1, 1048576, 1, 0x0, 0x0, 0x0, 0x0, 0x0⟩,
   ⟨0xA011, 1048576, 1, 1048576, 1, 0x0, 0x0, 0x0, 0x0, 0x0⟩,
   ⟨0xA012, 1048576, 1, 1048576, 1, 0x0, 0x0, 0x0, 0xFFFFFFFF, 0x0⟩,
   ⟨0xA020, 1, 16, 1048576, 1, 0x0, 0x0, 0x0, 0xFFFFFFFF, 0x0⟩]

/-- The words of unit CMP. -/
def cmpRows : List WordRow :=
  [⟨0xA800, 1048576, 1, 1048576, 1, 0xFF, 0x1F030000, 0x0, 0x0, 0x100000FF⟩,
   ⟨0xA801, 1048576, 1, 1048576, 1, 0x0, 0x0, 0xFF000000, 0x0, 0x0⟩,
   ⟨0xA802, 1048576, 1, 1048576, 1, 0x0, 0x0, 0x0, 0xFFFFFFFF, 0x0⟩,
   ⟨0xA803, 1048576, 1, 1048576, 1, 0x0, 0x0, 0x0, 0xFFFFFFFF, 0x0⟩,
   ⟨0xA804, 1048576, 1, 1048576, 1, 0x0, 0x0, 0x0, 0xFFFFFFFF, 0x0⟩,
   ⟨0xA805, 1048576, 1, 1048576, 1, 0x0, 0x0, 0x0, 0xFFFFFFFF, 0x0⟩,
   ⟨0xA806, 1048576, 1, 1048576, 1, 0x0, 0x0, 0x7, 0x0, 0x0⟩,
   ⟨0xA807, 1, 3, 1048576, 1, 0x0, 0x0, 0x0, 0x0, 0x0⟩]

/-- The words of unit LNK. -/
def lnkRows : List WordRow :=
  [⟨0xB000, 64, 24, 1048576, 1, 0x8000007F, 0x0, 0x0, 0x0, 0x80000000⟩,
   ⟨0xB001, 64, 24, 1048576, 1, 0x0, 0x0, 0x0, 0x0, 0x0⟩,
   ⟨0xB002, 64, 24, 1048576, 1, 0x0, 0x0, 0x0, 0x0, 0x0⟩,
   ⟨0xB003, 64, 24, 1048576, 1, 0x0, 0x0, 0x0, 0x0, 0x0⟩,
   ⟨0xB004, 64, 24, 1048576, 1, 0x0, 0x0, 0x0, 0x0, 0x0⟩,
   ⟨0xB005, 64, 24, 1048576, 1, 0x0, 0x0, 0xF, 0x0, 0x0⟩,
   ⟨0xB006, 64, 24, 1, 4, 0x0, 0x0, 0x0, 0x0, 0x0⟩,
   ⟨0xB00A, 64, 24, 1048576, 1, 0x0, 0x0, 0x0, 0xFFFFFFFF, 0x0⟩,
   ⟨0xB00B, 64, 24, 1048576, 1, 0xFFFF, 0x0, 0x0, 0x0, 0x40⟩,
   ⟨0xB010, 1048576, 1, 1048576, 1, 0xFFFFFFFF, 0x0, 0x0, 0x0, 0x0⟩,
   ⟨0xB050, 1048576, 1, 1048576, 1, 0xFFFFFFFF, 0x0, 0x0, 0x0, 0x0⟩,
   ⟨0xB590, 1048576, 1, 1048576, 1, 0xFFFFFFFF, 0x0, 0x0, 0x0, 0x0⟩,
   ⟨0xB5D0, 1048576, 1, 1048576, 1, 0xFFFFFFFF, 0x0, 0x0, 0x0, 0x0⟩,
   ⟨0xB011, 1048576, 1, 1048576, 1, 0x0, 0x0, 0x0, 0x0, 0x0⟩,
   ⟨0xB051, 1048576, 1, 1048576, 1, 0x0, 0x0, 0x0, 0x0, 0x0⟩,
   ⟨0xB591, 1048576, 1, 1048576, 1, 0x0, 0x0, 0x0, 0x0, 0x0⟩,
   ⟨0xB5D1, 1048576, 1, 1048576, 1, 0x0, 0x0, 0x0, 0x0, 0x0⟩,
   ⟨0xB012, 1048576, 1, 1048576, 1, 0x0, 0x0, 0x0, 0x0, 0x0⟩,
   ⟨0xB052, 1048576, 1, 1048576, 1, 0x0, 0x0, 0x0, 0x0, 0x0⟩,
   ⟨0xB592, 1048576, 1, 1048576, 1, 0x0, 0x0, 0x0, 0x0, 0x0⟩,
   ⟨0xB5D2, 1048576, 1, 1048576, 1, 0x0, 0x0, 0x0, 0x0, 0x0⟩,
   ⟨0xB013, 1048576, 1, 1048576, 1, 0x0, 0x0, 0x0, 0x0, 0x0⟩,
   ⟨0xB053, 1048576, 1, 1048576, 1, 0x0, 0x0, 0x0, 0x0, 0x0⟩,
   ⟨0xB593, 1048576, 1, 1048576, 1, 0x0, 0x0, 0x0, 0x0, 0x0⟩,
   ⟨0xB5D3, 1048576, 1, 1048576, 1, 0x0, 0x0, 0x0, 0x0, 0x0⟩,
   ⟨0xB020, 64, 24, 1048576, 1, 0x0, 0x0, 0x0, 0x0, 0x0⟩,
   ⟨0xB021, 64, 24, 1048576, 1, 0x0, 0x0, 0xF, 0x0, 0x0⟩,
   ⟨0xB022, 64, 24, 1, 4, 0x0, 0x0, 0x0, 0x0, 0x0⟩,
   ⟨0xB026, 64, 24, 1048576, 1, 0x0, 0x0, 0x0, 0x0, 0x0⟩,
   ⟨0xB027, 64, 24, 1048576, 1, 0x0, 0x0, 0x0, 0xFFFFFFFF, 0x0⟩,
   ⟨0xB028, 64, 24, 1048576, 1, 0x0, 0x0, 0x0, 0x0, 0x0⟩,
   ⟨0xB029, 64, 24, 1048576, 1, 0x0, 0x0, 0x0, 0xFFFF, 0x0⟩,
   ⟨0xB600, 16, 4, 1048576, 1, 0x1000, 0x0, 0x0, 0x0, 0x0⟩,
   ⟨0xB601, 16, 4, 1048576, 1, 0x0, 0x0, 0x0, 0x0, 0xF⟩,
   ⟨0xB602, 16, 4, 1048576, 1, 0x0, 0x0, 0x7, 0x0, 0x0⟩,
   ⟨0xB603, 16, 4, 1, 3, 0x0, 0x0, 0x0, 0x0, 0x0⟩,
   ⟨0xB640, 1048576, 1, 1048576, 1, 0x0, 0x3FFF0000, 0x0, 0x0, 0x10000000⟩,
   ⟨0xB641, 1048576, 1, 1048576, 1, 0x0, 0x0, 0x0, 0x0, 0x0⟩,
   ⟨0xB642, 1048576, 1, 1048576, 1, 0x0, 0x0, 0x0, 0x0, 0x0⟩,
   ⟨0xB643, 1048576, 1, 1048576, 1, 0x0, 0x0, 0x0, 0x0, 0x0⟩] ++
  [⟨0xB644, 1048576, 1, 1048576, 1, 0xF, 0x0, 0x0, 0x0, 0xF⟩,
   ⟨0xB645, 1048576, 1, 1048576, 1, 0x0, 0x0, 0x1F, 0x0, 0x0⟩,
   ⟨0xB646, 1, 5, 1048576, 1, 0x0, 0x0, 0x0, 0x0, 0x0⟩]

/-- The words of unit MON. -/
def monRows : List WordRow :=
  [⟨0xC000, 1048576, 1, 1048576, 1, 0xBF0F01BF, 0x0, 0x0, 0x0, 0x0⟩,
   ⟨0xC001, 1048576, 1, 1048576, 1, 0x0, 0x0, 0x0, 0x0, 0x0⟩,
   ⟨0xC002, 1048576, 1, 1048576, 1, 0x0, 0x0, 0x3, 0x0, 0x0⟩,
   ⟨0xC003, 1048576, 1, 1048576, 1, 0x0, 0x0, 0x1F, 0x0, 0x0⟩,
   ⟨0xC004, 1, 5, 1048576, 1, 0x0, 0x0, 0x0, 0x0, 0x0⟩,
   ⟨0xC009, 1048576, 1, 1048576, 1, 0x0, 0x0, 0x0, 0x0, 0x0⟩,
   ⟨0xC010, 2, 8, 1048576, 1, 0x0, 0x0, 0x0, 0x0, 0xFF000000⟩,
   ⟨0xC011, 2, 8, 1048576, 1, 0x0, 0x0, 0x0, 0x0, 0x400000⟩,
   ⟨0xC020, 1048576, 1, 1048576, 1, 0x0, 0x0, 0x0, 0x0, 0x0⟩,
   ⟨0xC100, 16, 40, 1048576, 1, 0x1F7DF7DF, 0x0, 0x0, 0x0, 0x1F7DF7DF⟩,
   ⟨0xC101, 16, 40, 1048576, 1, 0xFFFF7773, 0x0, 0x0, 0x0, 0x1000000⟩,
   ⟨0xC102, 16, 40, 1048576, 1, 0xF73F0000, 0x0, 0x0, 0x0, 0x3F0000⟩,
   ⟨0xC103, 16, 40, 1048576, 1, 0xFFFFFFFF, 0x0, 0x0, 0x0, 0x0⟩,
   ⟨0xC104, 16, 40, 1048576, 1, 0xFFFFFFFF, 0x0, 0x0, 0x0, 0x80000000⟩,
   ⟨0xC105, 16, 40, 1048576, 1, 0xFFFFFFFF, 0x0, 0x0, 0x0, 0x7FFFFFFF⟩,
   ⟨0xC106, 16, 40, 1048576, 1, 0xC000FFFF, 0x0, 0x0, 0x0, 0x0⟩,
   ⟨0xC107, 16, 40, 1048576, 1, 0x0, 0x0, 0x0, 0x0, 0x0⟩,
   ⟨0xC108, 16, 40, 1048576, 1, 0x0, 0x0, 0x0, 0x0, 0x0⟩,
   ⟨0xC109, 16, 40, 1048576, 1, 0x0, 0x0, 0x0, 0x0, 0x0⟩,
   ⟨0xC10A, 16, 40, 1048576, 1, 0x0, 0x0, 0x0, 0x0, 0x0⟩,
   ⟨0xC10B, 16, 40, 1048576, 1, 0x0, 0x0, 0x0, 0x0, 0x7FFFFFFF⟩,
   ⟨0xC10C, 16, 40, 1048576, 1, 0x0, 0x0, 0x0, 0x0, 0x80000000⟩,
   ⟨0xC404, 16, 4, 1048576, 1, 0xFFFFFFFF, 0x0, 0x0, 0x0, 0x3F800000⟩,
   ⟨0xC400, 1, 64, 1048576, 1, 0xFFFFFFFF, 0x0, 0x0, 0x0, 0x0⟩]

/-- The words of unit LED. -/
def ledRows : List WordRow :=
  [⟨0xD000, 1048576, 1, 1048576, 1, 0x100, 0x0, 0x0, 0x0, 0x0⟩,
   ⟨0xD001, 1048576, 1, 1048576, 1, 0xFF, 0x0, 0x0, 0x0, 0x2⟩,
   ⟨0xD002, 1048576, 1, 1048576, 1, 0xFFFFFFFF, 0x0, 0x0, 0x0, 0xDC00A0⟩,
   ⟨0xD003, 1048576, 1, 1048576, 1, 0x800000FF, 0x0, 0x0, 0x0, 0x14⟩,
   ⟨0xD004, 1048576, 1, 1048576, 1, 0x0, 0x0, 0x0, 0x0, 0x1000000⟩,
   ⟨0xD005, 1048576, 1, 1048576, 1, 0xFF3FFFFF, 0x0, 0x0, 0x0, 0x1190000⟩,
   ⟨0xD006, 1048576, 1, 1048576, 1, 0x0, 0x0, 0x0, 0x0, 0x0⟩,
   ⟨0xD007, 1048576, 1, 1048576, 1, 0x0, 0x0, 0x0, 0x0, 0x800⟩,
   ⟨0xD008, 1048576, 1, 1048576, 1, 0x0, 0x0, 0x3F, 0x0, 0x0⟩,
   ⟨0xD009, 1, 6, 1048576, 1, 0x0, 0x0, 0x0, 0x0, 0x0⟩,
   ⟨0xD010, 1, 4, 1048576, 1, 0xFFFFFFFF, 0x0, 0x0, 0x0, 0x0⟩,
   ⟨0xD014, 1, 8, 1048576, 1, 0x0, 0x0, 0x0, 0x0, 0x0⟩,
   ⟨0xD01C, 1048576, 1, 1048576, 1, 0x0, 0x0, 0x0, 0x0, 0x0⟩,
   ⟨0xD01D, 1048576, 1, 1048576, 1, 0x0, 0x0, 0x0, 0x0, 0x0⟩,
   ⟨0xD01E, 1048576, 1, 1048576, 1, 0x0, 0x0, 0x0, 0x0, 0x0⟩,
   ⟨0xD01F, 1048576, 1, 1048576, 1, 0x0, 0x0, 0x0, 0x0, 0x0⟩,
   ⟨0xD020, 1, 16, 1048576, 1, 0x0, 0x0, 0x0, 0x0, 0x0⟩]

/-- The words of unit TRG. -/
def trgRows : List WordRow :=
  [⟨0xE000, 1, 256, 1048576, 1, 0x0, 0x3FFFFF, 0x0, 0x0, 0x1FFFFF⟩,
   ⟨0xE100, 1, 16, 1048576, 1, 0x0, 0xFFFF000F, 0x0, 0x0, 0xFFFF0000⟩,
   ⟨0xE800, 8, 4, 1048576, 1, 0xFFFFFFFF, 0x0, 0x0, 0x0, 0xFFFFFFFF⟩,
   ⟨0xE801, 8, 4, 1048576, 1, 0xFFFFFFFF, 0x0, 0x0, 0x0, 0xFFFFFFFF⟩,
   ⟨0xE802, 8, 4, 1048576, 1, 0x100, 0x1F, 0x0, 0x0, 0x0⟩,
   ⟨0xE803, 8, 4, 1048576, 1, 0x0, 0x0, 0x0, 0xFFFFFFFF, 0x0⟩,
   ⟨0xE820, 1, 4, 1048576, 1, 0x0, 0x3F3F, 0x0, 0x0, 0x0⟩,
   ⟨0xE824, 1, 4, 1048576, 1, 0x13F, 0x0, 0x0, 0x0, 0x1⟩,
   ⟨0xE828, 1048576, 1, 1048576, 1, 0x0, 0x0, 0x0, 0x0, 0x0⟩,
   ⟨0xE829, 1048576, 1, 1048576, 1, 0x0, 0x1FFFFFF, 0x0, 0x0, 0x0⟩]

/-- The rows of the unit whose range holds the address (Table 6-4, R536). -/
def unitRows (a : Nat) : List WordRow :=
  if Nat.blt a 0x100 then capRows
  else if Nat.blt a 0x200 then fusRows
  else if Nat.blt a 0x300 then rstRows
  else if Nat.blt a 0x400 then clkRows
  else if Nat.blt a 0x800 then pwrRows
  else if Nat.blt a 0x1000 then seqRows
  else if Nat.blt a 0x1400 then sidRows
  else if Nat.blt a 0x1800 then timRows
  else if Nat.blt a 0x2000 then errRows
  else if Nat.blt a 0x3000 then afeRows
  else if Nat.blt a 0x4000 then adcRows
  else if Nat.blt a 0x5000 then tdcRows
  else if Nat.blt a 0x9000 then fltRows
  else if Nat.blt a 0xA000 then acqRows
  else if Nat.blt a 0xA800 then bufRows
  else if Nat.blt a 0xB000 then cmpRows
  else if Nat.blt a 0xC000 then lnkRows
  else if Nat.blt a 0xD000 then monRows
  else if Nat.blt a 0xE000 then ledRows
  else if Nat.blt a 0x10000 then trgRows
  else []

/-- The row of a word, if the word holds a field. -/
def wordRow (a : Nat) : Option WordRow := (unitRows a).find? (·.holds a)

/-- What a word reads after a reset that returns it to its Reset value (R541). -/
def wordReset (a : Nat) : Word := ((wordRow a).map (·.reset)).getD 0

end Sys2Proof.Machine
end

