-- ==== Sys2Proof/Machine/State.lean ====
section
/-!
DEFINITION. Sys2Proof/Machine/State.lean: the state of the hub as plain data, the reasons a step can stop, and the state
right after the power-on source is asserted. A register of the field map lives in `regs` under its address (its Reset value
when unlisted); what no register shows lives in a field of its own. INVENTORY.md lists every field with its rule.
-/
namespace Sys2Proof.Machine

/-- Sparse data by key, in one canonical form: keys strictly rising, no entry equal to the default of its key. -/
abbrev Sparse (α : Type) := List (Nat × α)

/-- One value for each side. -/
structure Two (α : Type) where
  k : α
  q : α
  deriving DecidableEq, Repr

/-- The modes of Table 4-1. -/
inductive Mode where
  | hold | fuseLoad | search | settle | idle | calibrate | stream | capture | doze | deep | test | safe
  deriving DecidableEq, Repr

/-- The reach of a reset (Table 3-2), narrowest first. -/
inductive Reach where
  | control | core | chip
  deriving DecidableEq, Repr

/-- The power states of a function group (R108). -/
inductive PState where
  | active | idle | deep | off
  deriving DecidableEq, Repr

/-- The states of a square (Table 5-1). -/
inductive SqState where
  | free | ready | running | waitEvent | waitBudget | halted | faulted
  deriving DecidableEq, Repr

/-- The refusal reasons (R105). -/
inductive Reason where
  | absent | state | range | claim | budget
  deriving DecidableEq, Repr

/-- A host command: its side, its ID and its instruction (R410), and the core cycle in which it was complete (R123). -/
structure Cmd where
  side : Side
  id : BitVec 16
  word : Word
  cycle : Nat := 0
  deriving DecidableEq, Repr

/-- An instruction that an issued square is held in (R127, R193). -/
inductive Hold where
  /-- `EMIT` waiting for the class M queue, with the words it has read. -/
  | emit (tag : BitVec 6) (words : List Word)
  /-- `LEDP` waiting for a slot: lamp, mode, count, gs and ga. -/
  | ledp (lamp : BitVec 7) (slow : Bool) (count : BitVec 10) (gs ga : Word)
  /-- Monitor `CONV` waiting to be accepted. -/
  | conv (entry : BitVec 5)
  /-- `FUSE` programming the requested bits of a word. -/
  | fuse (offset : BitVec 8) (bits : Word) (gd : Reg)
  deriving DecidableEq, Repr

/-- A STOP or FREE that waits for the running instruction (R127). -/
inductive Deferred where
  | none | stop | free
  deriving DecidableEq, Repr

/-- One square of the board (R121, Table 5-7). -/
structure Square where
  state : SqState := .free
  g : Sparse Word := []
  pc : BitVec 14 := 0
  z : Bool := false
  n : Bool := false
  c : Bool := false
  v : Bool := false
  f : Bool := false
  depth : BitVec 3 := 0
  stack0 : BitVec 14 := 0
  stack1 : BitVec 14 := 0
  stack2 : BitVec 14 := 0
  stack3 : BitVec 14 := 0
  evmask : BitVec 13 := 0
  evpend : BitVec 13 := 0
  prio : BitVec 3 := 0
  cls : BitVec 2 := 0
  timer : BitVec 24 := 0
  bunchEn : Bool := false
  bunch : BitVec 13 := 0
  tevg : BitVec 16 := 0
  faultPc : BitVec 14 := 0
  faultCause : BitVec 4 := 0
  evovr : BitVec 16 := 0
  issued : Word := 0
  /-- The priority of its last issue, which its place in the wait order keeps (R128, R143). -/
  effPrio : BitVec 3 := 0
  /-- Its BP timer has stepped from 1 to 0 at the last BP boundary, and TIMER is not raised yet (R133). -/
  timerDue : Bool := false
  /-- The BP in which BUNCH was raised for it last (R132). -/
  bunchBp : Option Nat := Option.none
  /-- The mask of the `WAIT` it is in (R134). -/
  waitMask : BitVec 13 := 0
  /-- The cost in EU it waits for (R143). -/
  want : Nat := 0
  /-- It waits for its class allowance until the next orbit start (R145). -/
  barred : Bool := false
  /-- The reservation it holds in EU (R144). -/
  resv : Option Nat := Option.none
  held : Option Hold := Option.none
  deferred : Deferred := .none
  deriving DecidableEq, Repr

/-- Square a1's own state (R122, R123). DESIGN CHOICE (log 65). -/
structure A1 where
  queue : List Cmd := []
  running : Option Cmd := none
  wait : Nat := 0
  deriving DecidableEq, Repr

/-- An event raised and not yet latched (R132): to every square, to one square, or to the squares of a group. -/
inductive Raised where
  | all (e : Event)
  | one (e : Event) (sq : Nat)
  | group (g : Nat)
  deriving DecidableEq, Repr

/-- The clock controller (chapter 2). -/
structure Clk where
  act : Two Bool := ⟨false, false⟩
  locked : Two Bool := ⟨false, false⟩
  ref : Option Side := none
  pllLock : Bool := false
  /-- The reference whose recovered f_M the settle delay counts, while the count runs (R44). -/
  count : Option Side := none
  settled : Bool := false
  holdover : Bool := false
  slew : Bool := false
  /-- The first BP of the holdover interval in progress, and the BP in which the stop was declared (R51, R53). -/
  holdSince : Nat := 0
  holdBp : Nat := 0
  holds : List (Nat × Nat) := []
  switchTo : Option Side := none
  deriving DecidableEq, Repr

/-- Pins the hub reads, and the forcing of its outputs (R43, R76, R556). DESIGN CHOICE (log 13). -/
structure Pins where
  clkset : BitVec 3 := 7
  setcode : BitVec 3 := 0
  testen : Bool := false
  forcing : Bool := true
  deriving DecidableEq, Repr

/-- The reset controller (chapter 3). -/
structure Rst where
  por : Bool := true
  pin : Bool := false
  reach : Option Reach := some .chip
  starting : Bool := false
  fromSafe : Bool := false
  /-- The control ports that have stayed locked through the episode, and whether the PLL has kept its lock (R80). -/
  stayed : Two Bool := ⟨false, false⟩
  pllKept : Bool := false
  /-- The BP in which the memory initialisation of a warm start began (R83). -/
  initBp : Nat := 0
  /-- The unit-reset step of a warm start of reach CORE has ended: IDLE begins at the next BP boundary (Table 4-2). -/
  finish : Bool := false
  adcLost : Bool := false
  monLost : Bool := false
  chipLost : Option (Word × Word) := none
  /-- A chip fault that stops the core clock at the next BP boundary (R526). -/
  chipDue : Bool := false
  deriving DecidableEq, Repr

/-- The BP a sample, an edge or a mark belongs to: the model's count, the BCID and the orbit. -/
structure Tag where
  bp : Nat := 0
  bcid : Nat := 0
  orbit : Word := 0
  deriving DecidableEq, Repr

/-- A block restart in progress (R85): quiescing from the BP `stopBp`, which `stop` names once it has begun, until
acknowledged; then in its 8 BP reset from `resetBp`. -/
structure Restart where
  block : Nat
  stopBp : Nat
  stop : Option Tag := none
  /-- Its wait or its reset is over: its next step begins at the next BP boundary. -/
  waits : Bool := false
  resetting : Bool := false
  resetBp : Nat := 0
  forced : Bool := false
  hDisc : Nat := 0
  wDisc : Nat := 0
  mDisc : Nat := 0
  deriving DecidableEq, Repr

/-- A function group (R108): its state, the state its exit in progress leads to, and since when it has been idle. -/
structure GroupSt where
  st : PState := .off
  exit : Option PState := none
  /-- The BP from which its idleness counts (R111, R112). -/
  since : Nat := 0
  deriving DecidableEq, Repr

/-- A `CONV` of a quadrant (R181): its count until it starts, its first BP, the BP at which it stops, whether its end has come,
and the first BP and the stop of the run before it, whose last results may still be on their way. -/
structure QuadRun where
  count : Nat
  first : Option Nat := none
  stop : Nat := 0
  ended : Bool := false
  prev : Option (Nat × Nat) := none
  deriving DecidableEq, Repr

/-- What a hardware requester asks for (Table 5-4). -/
inductive HwWork where
  | lwake (g : Nat)
  | mon
  | recal (c : Nat)
  | ldiag (lamp : Nat)
  | scrub
  deriving DecidableEq, Repr

/-- A pending hardware request with its cost in EU (R140). -/
structure HwReq where
  work : HwWork
  cost : Nat
  deriving DecidableEq, Repr

/-- An entry of the command-ID window (R412). -/
structure WinEntry where
  id : BitVec 16
  outcome : BitVec 3
  side : Side
  deriving DecidableEq, Repr

/-- A response on a control uplink (Table 14-6). -/
inductive Resp where
  | ack (id : BitVec 16) (gd : Word)
  | refused (id : BitVec 16) (op : BitVec 6) (reason : BitVec 3) (test : BitVec 3) (grp : BitVec 4)
  | dup (id : BitVec 16) (outcome : BitVec 3) (side : Side)
  | qfull (id : BitVec 16)
  deriving DecidableEq, Repr

/-- A snapshot frame that is due (Table 14-8), as its tagged payload. -/
structure SnapFrame where
  payload : BitVec 52
  last : Bool
  ofReturn : Bool
  deriving DecidableEq, Repr

/-- A return in progress (R425). -/
structure Ret where
  snapPend : Bool
  count : Nat
  deriving DecidableEq, Repr

/-- The two sides (chapter 14). -/
structure Sid where
  live : Two (BitVec 4) := ⟨0, 0⟩
  healthy : Two Bool := ⟨false, false⟩
  frames : Two (List Bool) := ⟨[], []⟩
  held : Two Bool := ⟨false, false⟩
  ret : Two (Option Ret) := ⟨none, none⟩
  window : List WinEntry := []
  own : Two (List Resp) := ⟨[], []⟩
  mirror : Two (List Resp) := ⟨[], []⟩
  snap : Two (List SnapFrame) := ⟨[], []⟩
  part : Two (Option (BitVec 16 × BitVec 16)) := ⟨none, none⟩
  fcs : List (Side × BitVec 8 × Nat) := []
  deriving DecidableEq, Repr

/-- A time message in an egress queue (R435, R452): forwarded with its ingress instant in bins, or the hub's own. -/
structure TmMsg where
  bytes : List Byte
  ingress : Option Nat
  deriving DecidableEq, Repr

/-- A message that is being sent at a port, with the bytes already sent (R418, R433). -/
structure TmSend where
  msg : List Byte
  done : Nat
  deriving DecidableEq, Repr

/-- Time messages at the ports 0, 1, 22 and 23 (R414, R435). -/
structure Tm where
  inbox : Sparse (Option (List Byte)) := []
  egress : Sparse (List TmMsg) := []
  sending : Sparse (Option TmSend) := []
  deriving DecidableEq, Repr

/-- A value of the time counter (R439): seconds, nanoseconds, and the fraction in 2^-26 ns. -/
structure Time where
  sec : BitVec 48 := 0
  ns : Nat := 0
  frac : Nat := 0
  deriving DecidableEq, Repr

/-- The time counter, its value at the last BP boundary, what waits for a BP boundary (R439 to R447): an increment, a step in
2^-16 ns with the BP of its GO, and UNSYNC; and the ticks at which compares have reached their targets (R455). -/
structure Tim where
  now : Time := {}
  base : Time := {}
  incNew : Option Word := none
  step : Option (Int × Nat) := none
  unsync : Bool := false
  cmpDue : Sparse (Option Tag) := []
  deriving DecidableEq, Repr

/-- The analog lane of the gaps (R463). -/
inductive Lane where
  | idle
  | waiting
  | adc (c : Nat) (start : Nat)
  | led (lamp : Nat)
  | quiet
  deriving DecidableEq, Repr

/-- A TDC calibration run (R263 to R266): its quadrants, the groups whose results are pending, its first BP, how many of
its two role moves have been made, and whether it has ended. -/
structure TdcRun where
  quads : BitVec 4
  groups : BitVec 16
  start : Nat
  moved : Nat
  ended : Bool
  deriving DecidableEq, Repr

/-- The gaps of the orbit and their services (chapter 16). -/
structure Gap where
  inGap : Bool := false
  start : Nat := 0
  number : Nat := 0
  begun : Nat := 0
  lens : List Nat := []
  prevLens : List Nat := []
  /-- The predicted length of the open gap (R463). -/
  predicted : Nat := 8192
  /-- Orbit starts that the open gap has crossed (R461). -/
  carried : Nat := 0
  /-- A TDC run has started in this orbit (R263). -/
  ran : Bool := false
  long64 : Bool := false
  diagRan : Bool := false
  lane : Lane := .idle
  tdc : Option TdcRun := none
  tdcAccepted : Option TdcRun := none
  scrub : Bool := false
  deriving DecidableEq, Repr

/-- A BP of the history with its edge map, the mode it ran in, and the time counter at its boundary with the increment of its
ticks (R303, R434, R449). -/
structure BpRec where
  tag : Tag
  map : BitVec 16
  mode : Mode
  base : Time := {}
  inc : Word := 0
  /-- The quadrants that convert at its sampling edge: ACTIVE, and in no self-calibration (R227, R246). -/
  quads : BitVec 4 := 0
  /-- The channels that were quarantined while it ran (R212, R297). -/
  quar : List Nat := []
  deriving DecidableEq, Repr

/-- A hit whose trailing edge has not come (R270, R271). -/
structure OpenHit where
  tag : Tag
  fine : Nat
  double : Bool := false
  aged : Bool := false
  /-- The last BP of the interval of its leading edge (R258, R260). -/
  leadTo : Nat := 0
  /-- Its leading edge fell in STREAM, with the channel enabled (R303, R317). -/
  live : Bool := false
  /-- It was completed once and reopened by a merge (R270). -/
  again : Bool := false
  deriving DecidableEq, Repr

/-- A completed hit in its slice's queue (R273). -/
structure Hit where
  tag : Tag
  fine : Nat
  tot : Nat
  double : Bool
  aged : Bool
  live : Bool
  doneBp : Nat
  /-- The last BP of the interval of its leading edge, and the first and the last BP of that of its trailing edge, where it was
timed: they give the holdover state of its edges (R260, R273). -/
  leadTo : Nat := 0
  trail : Option (Nat × Nat) := none
  deriving DecidableEq, Repr

/-- The per-core values of one sampling instant (R231), held by the stitcher until two later ones are tested. -/
structure Conv where
  tag : Tag
  codeA : BitVec 14
  codeB : BitVec 14
  xA : Int
  xB : Int
  xBlow : Int
  hit : Bool
  inter : Bool
  deriving DecidableEq, Repr

/-- One corrected sample (Table 8-2) with the two range values the hit logic holds (R238). -/
structure Samp where
  tag : Tag
  half : Bool
  value : Int
  g : Bool
  high : Int
  low : Int
  under : Bool := false
  deriving DecidableEq, Repr

/-- An FIR output in the decimator's block (R281, R286). -/
structure ChainVal where
  value : Int
  g : Bool
  deriving DecidableEq, Repr

/-- A threshold event waiting for its BP, `due` (R292, R294). -/
structure Tev where
  tag : Tag
  half : Bool
  falling : Bool
  due : Nat := 0
  /-- SEQ of the setting set that raised it (R289, R294). -/
  seq : Bool := false
  deriving DecidableEq, Repr

/-- The S accumulators of a slice for the interval that runs (Table 11-8). -/
structure SAcc where
  count : Nat := 0
  hits : Nat := 0
  demoted : Nat := 0
  sum : Int := 0
  merged : Nat := 0
  sumsq : Nat := 0
  min : Int := 0x7FFFF
  max : Int := -0x80000
  shed : Nat := 0
  thinned : Nat := 0
  bad : Bool := false
  hold : Bool := false
  aged : Bool := false
  part : Bool := false
  sat : Bool := false
  stale : Bool := false
  rst : Bool := false
  under : Bool := false
  deriving DecidableEq, Repr

/-- A pulse of a slice's charge-injection pulser (R208, R209, R211): its firing BP, the instant of its step in bins, the step in
mV, the injected charge in fC, and whether the charge flows into the input. -/
structure Pulse where
  firing : Nat
  step : Nat
  mv : Nat
  charge : Nat
  inward : Bool
  deriving DecidableEq, Repr

/-- One slice (chapters 7 to 11), beside its registers. -/
structure Slice where
  /-- The discriminator's output, and the BP boundaries in a row at which it was high (R204, R214). -/
  high : Bool := false
  highRun : Nat := 0
  openHit : Option OpenHit := none
  /-- The last hit was completed by its time-out, so its trailing edge gives nothing (R271). -/
  timedOut : Bool := false
  /-- The leading edges of the last BP, each with its BP and fine time, newest first (field P of Table 11-3). -/
  leads : List (Nat × Nat) := []
  queue : List Hit := []
  waiting : List Hit := []
  /-- The BP in which a hit left the queue last (R273). -/
  deqBp : Option Nat := none
  /-- The instants in bins at which a leading and a trailing edge were timed last (R261, R262). -/
  ledAt : Option Nat := none
  trailedAt : Option Nat := none
  /-- A role that has moved (true: LEAD) and the interpolator it left, which still times its edges while it is busy (R262). -/
  relieved : Option (Bool × Nat) := none
  /-- The orbit in which a hit was demoted or shed and no full record has followed (field D of Table 11-3). -/
  cut : Option Word := none
  /-- Conversions of the last sampling edges, newest first (R236). -/
  conv : List Conv := []
  /-- Corrected samples, newest first: the last 128 BP, and more while an open window needs them (R315). -/
  ring : List Samp := []
  /-- The first BP whose sampling edge counts after the group's last restart (R85). -/
  from_ : Nat := 0
  /-- The decimator's block in progress, newest first (R286). -/
  blk : List ChainVal := []
  /-- Corrected samples that have entered the chain since its input resumed (R280). -/
  entered : Nat := 0
  /-- The number of the first sample under the setting set in effect (R287, R291). -/
  since : Nat := 0
  /-- A setting set took effect at this BP and no sample taken under it has entered the chain yet (R289). -/
  fltNew : Option Nat := none
  /-- The chain's input stopped: samples of these BP and later ones find it cleared (R280). -/
  stops : List Nat := []
  blank : Bool := true
  above : Bool := false
  tevs : List Tev := []
  acc : SAcc := {}
  /-- S records of ended orbits that their ledgers have not taken yet (R319). -/
  ended : List (Word × SAcc) := []
  minA : Int := 0x7FFF
  maxA : Int := -0x8000
  minB : Int := 0x7FFF
  maxB : Int := -0x8000
  /-- The BP of the orbit start after which a `TAKE` has cleared the min/max block (R253). -/
  mmTaken : Option Nat := none
  /-- The sampling edge whose codes came last (R234). -/
  edgeDone : Option Nat := none
  /-- The last pulse of the pulser (R211). -/
  pulse : Option Pulse := none
  deriving DecidableEq, Repr

/-- The timing cell of a trigger-bus line, of the same design as a slice's TDC (R276): its factors and roles. -/
structure TbCell where
  cal0 : Word := 0x04000200
  cal1 : Word := 0x04000200
  cal2 : Word := 0x04000200
  lead : Nat := 0
  trail : Nat := 1
  spare : Nat := 2
  fresh : Bool := false
  deriving DecidableEq, Repr

/-- An FTO output (R218 to R220): its enable in effect, the start of its last pulse in bins, its delay in effect in 0.5 ns, and
whether a new delay waits for its fall. -/
structure Fto where
  en : Bool := false
  rise : Option Nat := none
  delay : Nat := 0
  delayDue : Bool := false
  deriving DecidableEq, Repr

/-- A trigger-bus line (R329, R330): its received level, the timing-clock cycle at which it was found low last, the BP of its
compensated edges to come, the BP at which its driver asserts it, the BP at which the drive
ends, a reference pulse that waits for its gap, and the BP at which that pulse is due. -/
structure TbLine where
  level : Bool := false
  fell : Option Nat := none
  edges : List Nat := []
  dues : List Nat := []
  driveEnd : Nat := 0
  align : Bool := false
  alignDue : Option Nat := none
  deriving DecidableEq, Repr

/-- A W window (R315): its BP, its opening mark's MARKSEQ, the channels whose records are not all written, where the next record
of a channel begins, and what each channel has been charged for records to come (R322). -/
structure Window where
  first : Nat
  last : Nat
  markSeq : Nat
  chans : List Nat
  starts : Sparse (Option Nat)
  paid : Sparse Nat := []
  deriving DecidableEq, Repr

/-- A mark of this or the previous orbit, for R314. -/
structure MarkId where
  source : Nat
  line : Nat
  orbit : Word
  bcid : Nat
  deriving DecidableEq, Repr

/-- The states of a capture (R325 to R327). -/
inductive CapState where
  | off | waitRel | armed | post | sending
  deriving DecidableEq, Repr

/-- The capture (chapter 11). -/
structure Cap where
  st : CapState := .off
  pre : Nat := 0
  post : Nat := 0
  /-- The pages of the capture area (R341). -/
  chain : List Nat := []
  timeout : Nat := 0
  armBp : Nat := 0
  trig : Tag := {}
  buf : Sparse (List Samp) := []
  deriving DecidableEq, Repr

/-- The ledger of a STREAM orbit, not yet closed (R319). -/
structure Ledger where
  orbit : Word
  /-- The first and the last BP of the orbit. -/
  first : Nat
  final : Nat
  nb : Nat
  age : Nat
  srecs : Nat
  restarts : Nat
  pktH : Nat
  pktW : Nat
  pktS : Nat
  pktM : Nat
  sec : BitVec 48
  ns : Nat
  frac : BitVec 16
  tstale : Bool
  hold : Bool
  last : Bool
  ended : Bool
  deriving DecidableEq, Repr

/-- A record (Tables 11-3 to 11-12). -/
inductive Rec where
  | h (c : Nat) (bcid fine tot : Nat) (amp : Int) (g p d : Bool)
  | hc (c : Nat) (bcid : Nat) (amp : Nat)
  | mark (source line : Nat) (win thin : Bool) (bcid ch : Nat) (tag : BitVec 16) (mseq : Nat)
  | w (c : Nat) (cont half capt part : Bool) (bcid nbp mseq : Nat) (samples : List (BitVec 21))
  | s (c : Nat) (acc : SAcc)
  | restart (block : Nat) (forced : Bool) (bcid bp h w m : Nat)
  | trailer (l : Ledger)
  | m (kind sq mode bcid : Nat) (tag : BitVec 6) (body : List Word)
  deriving DecidableEq, Repr

/-- What is wrong with a stored word of the frame buffer (R333, R348, R349): one bit, which its code corrects, or so much that it
cannot be corrected, with the data bits that read flipped. -/
inductive WordErr where
  | single
  | double (flips : BitVec 64)
  deriving DecidableEq, Repr

/-- How far a packet has come (R342). -/
inductive PktState where
  | opened | queued | job (e : Nat) | complete
  deriving DecidableEq, Repr

/-- The form a packet leaves in (R342, R358, R364). -/
inductive PktForm where
  | plain
  | compressed (bytes : List Byte)
  | stored (reason b engine obytes slot : Nat)
  deriving DecidableEq, Repr

/-- A packet of the frame buffer with its descriptor (R337, Table 11-2). -/
structure Packet where
  pid : Nat
  cls : Cls
  compact : Bool := false
  capt : Bool := false
  orbit : Word
  bcid : Nat
  hubid : BitVec 12
  recs : List Rec := []
  st : PktState := .opened
  form : PktForm := .plain
  seq : Word := 0
  demoted : Bool := false
  stale : Bool := false
  part : Bool := false
  hold : Bool := false
  aged : Bool := false
  /-- The compression settings of its closing (R368): slot factor B and the pre-transform. -/
  b : Nat := 16
  delta : Bool := false
  sent : Two Bool := ⟨false, false⟩
  resent : Two Bool := ⟨false, false⟩
  /-- It goes ahead of every other packet of the side, at the bond or port of the aborted send where that is in service. -/
  first : Two (Option Nat) := ⟨none, none⟩
  poisoned : Bool := false
  lastBp : Nat := 0
  /-- One more than the last BP of which a record in it carries a sample or an edge; 0 for none (R53). -/
  dataBp : Nat := 0
  /-- The chains of its pages (R333, R337): of its input, and of the output slot of its job. -/
  chain : List Nat := []
  slotChain : List Nat := []
  deriving DecidableEq, Repr

/-- Why a record waits (R336, R340): for the write cycles that a capture owns, behind another one, or at the head of its port for
space. -/
inductive WaitWhy where
  | ring | behind | head
  deriving DecidableEq, Repr

/-- A record waiting at its region's write port (R340). -/
structure Waiting where
  region : Nat
  cls : Cls
  tag : Tag
  stale : Bool
  hold : Bool
  aged : Bool
  part : Bool
  r : Rec
  /-- One more than the last BP of which the record carries a sample or an edge; 0 for none (R53). -/
  dataBp : Nat := 0
  why : WaitWhy := .behind
  deriving DecidableEq, Repr

/-- A packet in progress on a bond or a port (R429). -/
structure Send where
  side : Side
  port : Nat
  pid : Nat
  gambit : Bool
  resent : Bool
  deriving DecidableEq, Repr

/-- What a port remembers beside its registers (R384, R388, R390, R391, R394, R400): a lane that is asked back, a lane that was in
service when its group went to sleep. -/
structure LaneSt where
  rejoin : Bool := false
  sleepOk : Bool := false
  /-- The BP at which it locked or lost its lock last. -/
  changeBp : Nat := 0
  /-- The BP of the last release of the core clock, exit from DEEP or rejoining (R391). -/
  freshBp : Nat := 0
  /-- The BP of the last marker of the bond that begins at this port, or of its last ALIGN word (R384, R388). -/
  markBp : Nat := 0
  /-- The shift register of its pattern generator; 0 while it does not run (R400). -/
  prbs : Nat := 0
  deriving DecidableEq, Repr

/-- Which sequence a monitor run belongs to (R490 to R492). -/
inductive MonKind where
  | regular | injected | extra
  deriving DecidableEq, Repr

/-- A monitor entry in progress under the fields it started with (R489, R490), and the decimation ratio of its conversions
(R478). -/
structure MonRun where
  kind : MonKind
  entry : Nat
  left : Nat
  pins : Word
  conv : Word
  lin : Word
  par : Word
  lo : Word
  hi : Word
  cmp : Word
  ratio : Nat
  deriving DecidableEq, Repr

/-- The monitor front end (chapter 17). -/
structure Mon where
  cur : Option MonRun := none
  /-- Runs that were interrupted with results still to deliver, the one to resume first in front (R491, R492, R496). -/
  stopped : List MonRun := []
  next : Nat := 0
  /-- LEN since the last wrap to entry 0 (R490). -/
  len : Nat := 0
  /-- The regular sequence runs: it has started and not been stopped. -/
  seqOn : Bool := false
  /-- The energy of the next regular entry has been granted (R493). -/
  paid : Bool := false
  inj : Option Nat := none
  injPend : Bool := false
  extra : List Nat := []
  cal : Option (BitVec 8) := none
  latest : Sparse (Option Word) := []
  /-- The BP at which the self-calibration began, once the result in progress had ended (R496). -/
  calStart : Option Nat := none
  /-- Interlocks that latch at the next BP boundary, true for excitation, each with its entry; and a result that is handed to the LED
  driver there (R487, R495). -/
  ilkDue : List (Bool × Nat) := []
  handDue : Option Int := none
  deriving DecidableEq, Repr

/-- A pulse train in a slot of the LED queue (R504). -/
structure Train where
  lamp : Nat
  code : Nat
  quarters : Nat
  slow : Bool
  spacing : Nat
  bcid : Nat
  count : Nat
  /-- Pulses that have fallen due so far, and the BP of pulse 0. -/
  due : Nat := 0
  first : Nat := 0
  order : Nat := 0
  deriving DecidableEq, Repr

/-- A pulse that is due and has not fired (R505). -/
structure DuePulse where
  slot : Nat
  order : Nat
  lamp : Nat
  code : Nat
  quarters : Nat
  slow : Bool
  bp : Nat
  deriving DecidableEq, Repr

/-- A column that sinks (R505, R508). -/
structure ColPulse where
  lamp : Nat
  code : Nat
  quarters : Nat
  slow : Bool
  diag : Bool
  deriving DecidableEq, Repr

/-- The LED driver (chapter 18). -/
structure Led where
  slots : Sparse (Option Train) := []
  dues : List DuePulse := []
  row : Nat := 0
  rowOn : Bool := false
  blanking : Bool := false
  cols : Sparse (Option ColPulse) := []
  /-- The charge of each column in this orbit, in 1/34 pC. -/
  charge : Sparse Nat := []
  /-- A granted diagnostic pulse that has not fired, and the BP of its grant (R517). -/
  diag : Option Nat := none
  diagBp : Nat := 0
  lastDiag : Nat := 127
  /-- Orbit starts since the last diagnosis of a lamp that reads GOOD (R516). -/
  goodAge : Sparse Nat := []
  accepted : Nat := 0
  deriving DecidableEq, Repr

/-- The states of the IEEE 1149.1 controller. -/
inductive TapState where
  | reset | idle | selDr | capDr | shDr | ex1Dr | paDr | ex2Dr | upDr
  | selIr | capIr | shIr | ex1Ir | paIr | ex2Ir | upIr
  deriving DecidableEq, Repr

/-- The test access port (R555). -/
structure Tap where
  st : TapState := .reset
  ir : List Bool := []
  /-- The instruction in effect as `Config.tapCode` numbers it; 1 is IDCODE. -/
  inst : Nat := 1
  dr : List Bool := []
  tdo : Option Bool := none
  /-- The boundary register's updated cells. -/
  bsr : List Bool := []
  /-- EXTEST is loaded and drives the pins (TESTEN high). -/
  drives : Bool := false
  deriving DecidableEq, Repr

/-- Bits on a line, the first one highest. -/
structure Line where
  len : Nat
  bits : Nat
  deriving DecidableEq, Repr

/-- The state of the hub, and the queue of the commands that wait. -/
structure State where
  pending : List Instr := []
  /-- Free values drawn so far: the model's own counter. -/
  free : Nat := 0
  cyc : Nat := 0
  bp : Nat := 0
  regs : Sparse Word := []
  rwo : Sparse (Option Word) := []
  /-- Words that changed at the last orbit start, with their values before it: samples taken before it use these. -/
  rwoOld : Sparse (Option Word) := []
  /-- Within a core cycle: the sticky flags of a word that this cycle's BP boundary has set (R16). -/
  setNow : Sparse Word := []
  /-- The first core cycle of this BP, which a command has begun, has not issued yet (R129, R407). -/
  cycle0 : Bool := false
  admDirty : Bool := false
  prog : Sparse Word := []
  progBad : List Nat := []
  scratch : Sparse Word := []
  scratchBad : List Nat := []
  fuses : Sparse Word := []
  shadow : Sparse Word := []
  clk : Clk := {}
  pins : Pins := {}
  rst : Rst := {}
  restarts : List Restart := []
  mode : Mode := .hold
  target : Option Mode := none
  /-- TESTEN has fallen in TEST, which ends at a BP boundary (R96, Table 4-2). -/
  testEnd : Bool := false
  degraded : Bool := false
  groups : Sparse GroupSt := []
  quadRun : Sparse (Option QuadRun) := []
  squares : Sparse Square := []
  a1 : A1 := {}
  rr : Sparse Nat := []
  raised : List Raised := []
  bucket : Nat := 2 ^ 32
  debt : Nat := 0
  hwreqs : List HwReq := []
  refProg : Nat := 0
  refA1 : Nat := 0
  reports : Nat := 0
  sid : Sid := {}
  tm : Tm := {}
  /-- What the transmitter of a port has put on its line last, before the inversion of its pair (R372 to R400). -/
  portOut : Sparse (Option Line) := []
  bcid : Nat := 0
  orbit : Word := 0
  seq : Word := 0
  orbStart : Nat := 0
  orbSeen : Bool := false
  gap : Gap := {}
  bgDone : List (Nat × Nat) := []
  tim : Tim := {}
  slices : Sparse Slice := []
  bpHist : List BpRec := []
  /-- The BP of the last release of the core clock, from which the grid of the region readings counts, and how many points of that grid
  each sensor has given a reading for (R470). -/
  tempBase : Nat := 0
  tempSeen : Sparse Nat := []
  edges : BitVec 16 := 0
  fto : Sparse Fto := []
  tb : Sparse TbLine := []
  tbCells : Sparse TbCell := []
  wins : List Window := []
  marks : List MarkId := []
  cap : Cap := {}
  ledgers : List Ledger := []
  packets : List Packet := []
  nextPid : Nat := 0
  waiting : List Waiting := []
  /-- The block that the write port of a region has served last (R340). -/
  served : Sparse Nat := []
  /-- The stored words of the frame buffer that have an error, by 16 times the bank's word plus the bank (R333, R348). -/
  bufErr : Sparse (Option WordErr) := []
  /-- Corrected words that the scrubber has yet to write back (R336, R351). -/
  scrubBack : List Nat := []
  /-- A side has come back to life and has not started a packet since (R346). -/
  revived : Two Bool := ⟨false, false⟩
  /-- How far the refresh steps of a stale unit have come since its last return (Table 3-8). -/
  refresh : Sparse Nat := []
  jobs : List (Nat × Nat) := []
  sends : List Send := []
  deadCnt : Two Nat := ⟨0, 0⟩
  /-- The next words of program and scratch memory that the scrubber checks (R462). -/
  scrubProg : Nat := 0
  scrubScratch : Nat := 0
  lanes : Sparse LaneSt := []
  mon : Mon := {}
  led : Led := {}
  /-- A self-calibration of the converters runs, one has been accepted and starts at the next BP boundary, and the BP in which the
running one started (R245). -/
  adcCal : Bool := false
  adcAsk : Bool := false
  adcStart : Nat := 0
  /-- The quadrants that convert at the sampling edge of this BP (R227). -/
  edgeQuads : BitVec 4 := 0
  /-- The slices that were due for background recalibration at the last BP boundary (R247). -/
  dueSeen : List Nat := []
  tap : Tap := {}
  deriving DecidableEq, Repr

/-- The reasons a step can stop with a fault. -/
inductive Fault where
  /-- Raised by no command: every row of the table has an effect in the spec, and a command whose occasion has not come
  leaves the state as it is. Safe. -/
  | unstated
  deriving DecidableEq, Repr

/-- The reasons a step can be refused. -/
inductive Refusal where
  /-- The command has no meaning in the model yet, by its mnemonic. Raised by an arm of `exec` only. Safe. -/
  | notModelled (mnemonic : String)
  deriving DecidableEq, Repr

/-- The machine right after reset: the power-on source is asserted with reach CHIP, the hub is in HOLD with its outputs
forced, every word reads its Reset value, the bucket is full, nothing is queued (R65, R68, R69, R76, Table 3-2). -/
def State.reset : State := {}

end Sys2Proof.Machine
end

