-- ==== Sys2Proof/Machine/Ops.lean ====
section
/-!
DEFINITION. Sys2Proof/Machine/Ops.lean: the named operations over the state that every meaning uses: sparse data, words and
fields, sticky flags with their counters, what a part holds, events, free values, memories.
-/
namespace Sys2Proof.Machine

/-! ### Sparse data -/

/-- The value of a key: the first entry of the key, or its default. -/
def sget {α : Type} (d : Nat → α) : Sparse α → Nat → α
  | [], k => d k
  | (k', v) :: r, k => if k' = k then v else sget d r k

/-- The entries without a key. -/
def serase {α : Type} (k : Nat) (m : Sparse α) : Sparse α := m.filter fun e => !(Nat.beq e.1 k)

/-- Insert a key in rising order. -/
def sinsert {α : Type} (k : Nat) (v : α) : Sparse α → Sparse α
  | [] => [(k, v)]
  | e :: r => if k < e.1 then (k, v) :: e :: r else e :: sinsert k v r

/-- Give a key a value; the default of the key leaves no entry. -/
def sput {α : Type} [DecidableEq α] (d : Nat → α) (k : Nat) (v : α) (m : Sparse α) : Sparse α :=
  if v = d k then serase k m else sinsert k v (serase k m)

/-- Change every listed value; of a key listed twice, the one that `sget` reads. -/
def smap {α : Type} [DecidableEq α] (d : Nat → α) (f : α → α) (m : Sparse α) : Sparse α :=
  m.foldr (fun e r => sput d e.1 (f e.2) r) []

/-- The canonical form: keys strictly rising and no entry equal to its default. -/
def swf {α : Type} [DecidableEq α] (d : Nat → α) (m : Sparse α) : Bool :=
  decide (m.Pairwise fun a b => a.1 < b.1) && m.all fun e => !(decide (e.2 = d e.1))

/-- The word memories: program memory and scratch memory, zero where nothing is listed (R78, R167, R546). -/
abbrev Memory := Sparse Word

/-- A word of a memory. DESIGN CHOICE (log 67). -/
def Memory.read (m : Memory) (a : Nat) : Word := sget (fun _ => 0) m a

/-- Write a word of a memory. -/
def Memory.write (m : Memory) (a : Nat) (v : Word) : Memory := sput (fun _ => 0) a v m

/-- A memory is in its canonical form. -/
def Memory.wf (m : Memory) : Bool := swf (fun _ => (0 : Word)) m

/-! ### Sides -/

/-- The value of a side. -/
def Two.get {α : Type} (t : Two α) : Side → α
  | .k => t.k
  | .q => t.q

/-- Give a side a value. -/
def Two.set {α : Type} (t : Two α) : Side → α → Two α
  | .k, v => { t with k := v }
  | .q, v => { t with q := v }

/-- The control port of a side (Table 1-5). -/
def ctlPort : Side → Nat
  | .k => 0
  | .q => 1

/-- The partner port of a side. -/
def partnerPort : Side → Nat
  | .k => 22
  | .q => 23

/-- The side a port belongs to (Table 13-1). -/
def portSide (p : Nat) : Side :=
  if p = 0 ∨ (2 ≤ p ∧ p ≤ 9) ∨ p = 18 ∨ p = 19 ∨ p = 22 then .k else .q

/-! ### Bits -/

/-- One bit of a value. -/
def natBit (n i : Nat) : Bool := n / 2 ^ i % 2 == 1

/-- 1 for true. -/
def b2n (b : Bool) : Nat := if b then 1 else 0

/-- The low w bits of n read as a signed number. -/
def signedOf (w n : Nat) : Int :=
  let m := n % 2 ^ w
  if m < 2 ^ (w - 1) then (m : Int) else (m : Int) - (2 ^ w : Nat)

/-- A number wrapped into w bits. -/
def wrapTo (w : Nat) (i : Int) : Nat := (i % ((2 ^ w : Nat) : Int)).toNat

/-- Round half to even of num / den, den positive. -/
def rne (num : Int) (den : Nat) : Int :=
  let q := num / (den : Int)
  let r := num - q * (den : Int)
  if 2 * r < (den : Int) then q
  else if 2 * r > (den : Int) then q + 1
  else if q % 2 = 0 then q else q + 1

/-- Round up of num / den. -/
def ceilDiv (num den : Nat) : Nat := (num + den - 1) / den

/-- A number as a word. -/
def w32 (n : Nat) : Word := BitVec.ofNat 32 n

/-- Bits of a word from a list of Booleans, the lowest first. -/
def bitsOf : List Bool → Nat
  | [] => 0
  | b :: r => b2n b + 2 * bitsOf r

/-- The numbers below n whose test holds. -/
def below (n : Nat) (p : Nat → Bool) : List Nat := (List.range n).filter p

/-! ### Words and fields -/

/-- The value held for a word of the field map (R536). -/
def State.word (s : State) (a : Nat) : Word := sget wordReset s.regs a

/-- Give a word of the field map a value. -/
def State.setWord (a : Nat) (v : Word) (s : State) : State :=
  { s with regs := sput wordReset a v s.regs }

/-- The number of bits of a field. -/
def Fld.width (f : Fld) : Nat := f.hi + 1 - f.lo

/-- A field's value. -/
def Fld.rd (f : Fld) (s : State) : Nat := (s.word f.addr).toNat / 2 ^ f.lo % 2 ^ f.width

/-- A field of a written word, or of a word that something holds. -/
def Fld.of (f : Fld) (w : Word) : Nat := w.toNat / 2 ^ f.lo % 2 ^ f.width

/-- A one-bit field. -/
def Fld.is (f : Fld) (s : State) : Bool := f.rd s == 1

/-- A field read as a signed number. -/
def Fld.int (f : Fld) (s : State) : Int := signedOf f.width (f.rd s)

/-- A word with one field replaced. -/
def Fld.into (f : Fld) (v : Nat) (w : Word) : Word :=
  let low := w.toNat % 2 ^ f.lo
  let top := w.toNat / 2 ^ (f.hi + 1)
  BitVec.ofNat 32 (top * 2 ^ (f.hi + 1) + v % 2 ^ f.width * 2 ^ f.lo + low)

/-- Give a field a value, the other bits of its word kept. -/
def Fld.wr (f : Fld) (v : Nat) (s : State) : State := s.setWord f.addr (f.into v (s.word f.addr))

/-- Set or clear a one-bit field. -/
def Fld.put (f : Fld) (b : Bool) (s : State) : State := f.wr (b2n b) s

/-- Give a field a signed value. -/
def Fld.wrInt (f : Fld) (v : Int) (s : State) : State := f.wr (wrapTo f.width v) s

/-- Add to a counting field that saturates at its greatest value. -/
def Fld.count (f : Fld) (n : Nat) (s : State) : State := f.wr (Nat.min (f.rd s + n) (2 ^ f.width - 1)) s

/-- Add 1 to a counting field that wraps. -/
def Fld.wrap (f : Fld) (s : State) : State := f.wr (f.rd s + 1) s

/-- A sticky flag is set and its companion counter, which lies at the flag word's address plus 1 plus the bit, counts the
set and saturates (R16, R17). DEDUCED (log 62). -/
def raiseFlag (w bit : Nat) (s : State) : State :=
  (Fld.mk (w + 1 + bit) 15 0).count 1 ((Fld.mk w bit bit).wr 1 s)

/-- A sticky flag that only the first occurrence sets (R323, R348). DEDUCED (log 62). -/
def raiseFirst (w bit : Nat) (s : State) : State :=
  if (Fld.mk w bit bit).is s then s else raiseFlag w bit s

/-- The value a word had at a BP: what a change at the last orbit start replaced holds for samples and edges of before
(R235, R237, R243, R250, R289, R299). DEDUCED (log 43). -/
def State.wordAt (s : State) (bp a : Nat) : Word :=
  if bp < s.orbStart then
    match sget (fun _ => none) s.rwoOld a with
    | some w => w
    | none => s.word a
  else s.word a

/-- A field's value at a BP. -/
def Fld.at (f : Fld) (bp : Nat) (s : State) : Nat := (s.wordAt bp f.addr).toNat / 2 ^ f.lo % 2 ^ f.width

/-- A field's value at a BP, read as a signed number. -/
def Fld.intAt (f : Fld) (bp : Nat) (s : State) : Int := signedOf f.width (f.at bp s)

/-! ### What the part holds -/

/-- A fuse shadow word (R544). -/
def State.shadowWord (s : State) (off : Nat) : Word := sget (fun _ => 0) s.shadow off

/-- A word of the fuse array (R545). DESIGN CHOICE (log 12). -/
def State.fuseWord (s : State) (off : Nat) : Word := sget (fun _ => 0) s.fuses off

/-- The bits of a customer fuse word that hold a fuse (Table 20-4). DEDUCED (log 58). -/
def fuseMask (off : Nat) : Nat :=
  match off with
  | 8 => 0x3 | 9 => 0x7 | 10 => 0x3F | 11 => 0xFF | 12 => 0x3F | 13 => 0xFFFFFFFF | _ => 0

/-- Bits of a fuse word are programmed: of those asked for the ones that the word has (R193, R545). -/
def burnFuses (off : Nat) (bits : Word) (s : State) : State :=
  { s with fuses := sput (fun _ => 0) off (s.fuseWord off ||| (bits &&& BitVec.ofNat 32 (fuseMask off))) s.fuses }

/-- The code of `CAP.VARIANT` (R542). No part has the code 0b11; the model gives it the parts of KN7424A.
DESIGN CHOICE (log 77). -/
def State.variant (s : State) : Nat := (s.shadowWord 0).toNat / 256 % 4

/-- The part is KN7412A. -/
def State.isSmall (s : State) : Bool := s.variant == 2

/-- The part is KN7424B. -/
def State.isB (s : State) : Bool := s.variant == 1

/-- A channel is present (R3). -/
def State.hasChan (s : State) (c : Nat) : Bool := Nat.blt c (if s.isSmall then 128 else 256)

/-- A quadrant is present. -/
def State.hasQuad (s : State) (n : Nat) : Bool := Nat.blt n (if s.isSmall then 2 else 4)

/-- A channel group is present. -/
def State.hasGroup (s : State) (g : Nat) : Bool := Nat.blt g (if s.isSmall then 8 else 16)

/-- A serial port is present. -/
def State.hasPort (s : State) (p : Nat) : Bool :=
  Nat.blt p 24 && natBit (if s.isSmall then 0x143C3F else 0xFFFFFF) p

/-- A lane group is present. -/
def State.hasLg (s : State) (g : Nat) : Bool := Nat.blt g 4 && (!s.isSmall || g == 0 || g == 2)

/-- The LED driver is present. -/
def State.hasLed (s : State) : Bool := !s.isB

/-- The compression engines are present. -/
def State.hasCmp (s : State) : Bool := !s.isB

/-- A block of Table 3-7 is present. -/
def State.hasBlock (s : State) (n : Nat) : Bool :=
  if n < 16 then s.hasGroup n
  else if n < 20 then s.hasLg (n - 16)
  else if n = 22 then s.hasCmp
  else if n = 24 then s.hasLed
  else Nat.blt n 29

/-- The words that Table 20-5 makes absent on this part (R540). -/
def State.absentWord (s : State) (a : Nat) : Bool :=
  let r := fun lo hi => Nat.ble lo a && Nat.ble a hi
  if s.isSmall then
    r 0x2800 0x2FFF || r 0x3800 0x3FFF || r 0x4400 0x47FF || r 0x7000 0x8FFF || r 0x9004 0x9007 || r 0x9014 0x9017 ||
    r 0x9026 0x9029 || r 0xB180 0xB27F || r 0xB380 0xB47F || r 0xB4C0 0xB4FF || r 0xB540 0xB57F || r 0xB580 0xB5FF ||
    r 0xB610 0xB61F || r 0xB630 0xB63F || r 0xE080 0xE0FF || r 0xE108 0xE10F || r 0xE810 0xE81F
  else if s.isB then r 0xA800 0xAFFF || r 0xD000 0xDFFF || r 0x010A 0x010A
  else false

/-- The channels of the part. -/
def State.chans (s : State) : List Nat := List.range (if s.isSmall then 128 else 256)

/-! ### Squares, slices, groups -/

/-- A square. -/
def State.square (s : State) (i : Nat) : Square := sget (fun _ => {}) s.squares i

/-- Give a square a value. -/
def State.setSquare (i : Nat) (q : Square) (s : State) : State := { s with squares := sput (fun _ => {}) i q s.squares }

/-- Change a square. -/
def State.modSquare (i : Nat) (f : Square → Square) (s : State) : State := s.setSquare i (f (s.square i))

/-- The 64 squares with their indexes. -/
def State.squareList (s : State) : List (Nat × Square) := (List.range 64).map fun i => (i, s.square i)

/-- A slice. -/
def State.slice (s : State) (c : Nat) : Slice := sget (fun _ => {}) s.slices c

/-- Give a slice a value. -/
def State.setSlice (c : Nat) (x : Slice) (s : State) : State := { s with slices := sput (fun _ => {}) c x s.slices }

/-- Change a slice. -/
def State.modSlice (c : Nat) (f : Slice → Slice) (s : State) : State := s.setSlice c (f (s.slice c))

/-- A function group of Table 4-4. -/
def State.group (s : State) (n : Nat) : GroupSt := sget (fun _ => {}) s.groups n

/-- Give a function group a value. -/
def State.setGroup (n : Nat) (g : GroupSt) (s : State) : State := { s with groups := sput (fun _ => {}) n g s.groups }

/-- The power state of a quadrant. -/
def State.quadState (s : State) (n : Nat) : PState := (s.group (5 + n)).st

/-- Fold an operation over a list of numbers. -/
def overList (l : List Nat) (f : Nat → State → State) (s : State) : State := l.foldl (fun t c => f c t) s

/-! ### Modes, events, free values -/

/-- The code of a mode (Table 4-1). -/
def Mode.code : Mode → Nat
  | .hold => 0 | .fuseLoad => 1 | .search => 2 | .settle => 3 | .idle => 4 | .calibrate => 5 | .stream => 6
  | .capture => 7 | .doze => 8 | .deep => 9 | .test => 10 | .safe => 11

/-- The mode of a code (Table 4-1). -/
def Mode.ofCode : Nat → Option Mode
  | 0 => some .hold | 1 => some .fuseLoad | 2 => some .search | 3 => some .settle | 4 => some .idle
  | 5 => some .calibrate | 6 => some .stream | 7 => some .capture | 8 => some .doze | 9 => some .deep
  | 10 => some .test | 11 => some .safe | _ => none

/-- Squares run in the mode (Table 4-1). -/
def Mode.runs : Mode → Bool
  | .idle | .calibrate | .stream | .capture | .doze | .deep | .test => true
  | _ => false

/-- Fields can be read and written: squares run, and no episode of reach CONTROL is on (R92, R102, R103). The squares and the
host's square a1 are the only way to a field. DEDUCED (log 9). -/
def State.accessible (s : State) : Bool := s.mode.runs && s.rst.reach.isNone

/-- The code of a power state in `PWR.GSTATE` (Table 4-7). -/
def PState.code : PState → Nat
  | .active => 0 | .idle => 1 | .deep => 2 | .off => 3

/-- The code of a square's state (Table 5-1). -/
def SqState.code : SqState → Nat
  | .free => 0 | .ready => 1 | .running => 2 | .waitEvent => 3 | .waitBudget => 4 | .halted => 5 | .faulted => 6

/-- The code of a refusal reason (Table 11-12). -/
def Reason.code : Reason → Nat
  | .absent => 1 | .state => 2 | .range => 3 | .claim => 4 | .budget => 5

/-- The code of a reach (Table 3-9). -/
def Reach.code : Reach → Nat
  | .control => 1 | .core => 2 | .chip => 3

/-- The wider of two reaches (R72). -/
def Reach.wider (a b : Reach) : Reach := if a.code < b.code then b else a

/-- An event is raised (R132). DESIGN CHOICE (log 8). -/
def raiseEv (r : Raised) (s : State) : State := { s with raised := s.raised ++ [r] }

/-- The next free value. DESIGN CHOICE (log 2). -/
def State.freeNow (s : State) (k : Nat) : Word := Config.freeValue (s.free + k)

/-- Free values have been drawn. DESIGN CHOICE (log 2). -/
def State.drew (n : Nat) (s : State) : State := { s with free := s.free + n }

/-- The tag of the BP that runs. -/
def State.tag (s : State) : Tag := ⟨s.bp, s.bcid, s.orbit⟩

/-- The tag of the BP n before this one; the oldest known one where the history is shorter. -/
def State.tagAgo (s : State) (n : Nat) : Tag :=
  if n = 0 then s.tag
  else match (s.bpHist.take n).getLast? with
    | some r => r.tag
    | none => s.tag

/-- A BP of the recent past. -/
def State.past (s : State) (bp : Nat) : Option BpRec := if bp < s.bp then s.bpHist[s.bp - bp - 1]? else none

/-- The quadrants that convert at the sampling edge of a BP (R227). -/
def State.quadsAt (s : State) (bp : Nat) : BitVec 4 := if bp = s.bp then s.edgeQuads else ((s.past bp).map BpRec.quads).getD 0

/-- The slice was quarantined while a BP ran (R212). -/
def State.quarAt (s : State) (bp c : Nat) : Bool :=
  match s.past bp with
  | some r => r.quar.contains c
  | none => (F.AFE_STAT_QUAR c).is s

/-- N_B in effect (R407). -/
def State.nb (s : State) : Nat := F.LNK_ORBIT_NB.rd s

/-- The core clock runs: it has been released and not been stopped (R44, R52). -/
def State.coreOn (s : State) : Bool := s.clk.settled

/-- The slice is quarantined (R212). -/
def State.quar (s : State) (c : Nat) : Bool := (F.AFE_STAT_QUAR c).is s

/-- The channel's enable in effect (R227). -/
def State.enabled (s : State) (c : Nat) : Bool := (F.ADC_CFG_EN c).is s && s.hasChan c

/-- The channel's mode in effect is interleaved (Table 8-1). -/
def State.inter (s : State) (c : Nat) : Bool := (F.ADC_CFG_MODE c).is s

/-- The time unit is SYNCED (R444). -/
def State.synced (s : State) : Bool := F.TIM_CTL_STATE.rd s == 1

/-- The current-to-voltage stage of a slice is powered (R197). -/
def State.stagePowered (s : State) (c : Nat) : Bool :=
  s.hasChan c && (s.adcCal || ((F.AFE_CFG_ON c).is s && (s.quadState (c / 64) == .active || s.quadState (c / 64) == .idle)))

/-- The discriminator of a slice is active (R204, R245). -/
def State.discActive (s : State) (c : Nat) : Bool :=
  s.stagePowered c && !s.adcCal && !s.quar c && !((F.AFE_DISC_THR c).rd s == 0)

/-! ### Memories -/

/-- A word is written to scratch memory; the write renews its check bits. -/
def State.scratchWrite (a : Nat) (v : Word) (s : State) : State :=
  { s with scratch := Memory.write s.scratch a v, scratchBad := s.scratchBad.filter fun x => !(Nat.beq x a) }

/-- A word is written to program memory. -/
def State.progWrite (a : Nat) (v : Word) (s : State) : State :=
  { s with prog := Memory.write s.prog a v, progBad := s.progBad.filter fun x => !(Nat.beq x a) }

/-- Words are written to scratch memory one after another. -/
def State.scratchFill (a : Nat) : List Word → State → State
  | [], s => s
  | v :: r, s => State.scratchFill (a + 1) r (s.scratchWrite a v)

end Sys2Proof.Machine
end

