-- ==== Sys2Proof/Machine/Records.lean ====
section
/-!
DEFINITION. Sys2Proof/Machine/Records.lean: the formats of what leaves the hub: records (Tables 11-3 to 11-12), packets with
header and trailer (R304 to R306), the stored and the compressed form (R358 to R364), and the check codes of the ports.
-/
namespace Sys2Proof.Machine

/-- Fields given as (width, value) side by side, the first one highest. -/
def packBits (l : List (Nat × Nat)) : Nat := l.foldl (fun a f => a * 2 ^ f.1 + f.2 % 2 ^ f.1) 0

/-- The n bytes of a number, most significant first (R304). -/
def natBytes : Nat → Nat → List Byte
  | 0, _ => []
  | n + 1, v => BitVec.ofNat 8 (v / 2 ^ (8 * n)) :: natBytes n v

/-- The number that bytes spell, most significant first. -/
def bytesNat (l : List Byte) : Nat := l.foldl (fun a b => a * 256 + b.toNat) 0

/-- A 64-bit word as bytes. -/
def word64 (l : List (Nat × Nat)) : List Byte := natBytes 8 (packBits l)

/-- The log11 code (R312, Table 11-5). -/
def log11 (a : Nat) : Nat :=
  if a < 256 then a
  else if 0x7FFFF ≤ a then 2047
  else let k := Nat.log2 a; 128 * (k - 6) + (a / 2 ^ (k - 7) - 128)

/-- The sample words of a W record: three samples of 21 bits to a word (R316). -/
def sampleWords : List (BitVec 21) → List Nat
  | [] => []
  | [a] => [packBits [(1, 0), (21, a.toNat), (21, 0), (21, 0)]]
  | [a, b] => [packBits [(1, 0), (21, a.toNat), (21, b.toNat), (21, 0)]]
  | a :: b :: c :: r => packBits [(1, 0), (21, a.toNat), (21, b.toNat), (21, c.toNat)] :: sampleWords r

/-- The FLAGS of an S record (Table 11-8). -/
def SAcc.flags (a : SAcc) : Nat :=
  packBits [(1, b2n a.bad), (1, b2n a.hold), (1, b2n a.aged), (1, b2n a.part), (1, b2n a.sat), (1, b2n a.stale),
    (1, b2n a.rst), (1, b2n a.under)]

/-- A full H record as a 64-bit word (Table 11-3). -/
def hWord (c bcid fine tot : Nat) (amp : Int) (g p d : Bool) : Nat :=
  packBits [(8, c), (13, bcid), (10, fine), (8, tot), (20, wrapTo 20 amp), (1, b2n g), (1, b2n p), (1, b2n d), (2, 0)]

/-- The head of a W record (Table 11-7). -/
def wHead (c : Nat) (cont half capt part : Bool) (bcid nbp ns mseq : Nat) : Nat :=
  packBits [(4, 2), (8, c), (1, b2n cont), (1, b2n half), (1, b2n capt), (1, b2n part), (13, bcid), (10, nbp), (11, ns),
    (14, mseq)]

/-- The 64-bit words of a record that the pre-transform may rewrite, each with the channel it belongs to (Table 12-3). -/
def Rec.units : Rec → Option (List (Option Nat × Nat))
  | .h c bcid fine tot amp g p d => some [(some c, hWord c bcid fine tot amp g p d)]
  | .w c cont half capt part bcid nbp mseq xs =>
    some ((none, wHead c cont half capt part bcid nbp xs.length mseq) :: (sampleWords xs).map fun w => (some c, w))
  | _ => none

/-- The bytes of a record in sending order. -/
def Rec.bytes : Rec → List Byte
  | .h c bcid fine tot amp g p d => natBytes 8 (hWord c bcid fine tot amp g p d)
  | .hc c bcid amp => natBytes 4 (packBits [(8, c), (13, bcid), (11, amp)])
  | .mark source line win thin bcid ch tag mseq =>
    word64 [(4, 1), (3, source), (2, line), (1, b2n win), (1, b2n thin), (13, bcid), (8, ch), (16, tag.toNat), (16, mseq)]
  | .w c cont half capt part bcid nbp mseq xs =>
    natBytes 8 (wHead c cont half capt part bcid nbp xs.length mseq) ++ (sampleWords xs).flatMap (natBytes 8)
  | .s c a =>
    word64 [(4, 1), (8, c), (8, a.flags), (15, a.count), (14, a.hits), (14, a.demoted), (1, 0)] ++
    word64 [(48, wrapTo 48 a.sum), (16, a.merged)] ++ word64 [(64, a.sumsq)] ++
    word64 [(20, wrapTo 20 a.min), (20, wrapTo 20 a.max), (14, a.shed), (10, 0)] ++ word64 [(16, a.thinned), (48, 0)]
  | .restart block forced bcid bp hn wn mn =>
    word64 [(4, 2), (5, block), (1, b2n forced), (13, bcid), (16, bp), (25, 0)] ++
    word64 [(16, hn), (16, wn), (16, mn), (16, 0)]
  | .trailer l =>
    word64 [(4, 3), (1, b2n l.tstale), (1, b2n l.hold), (1, b2n l.last), (1, 0), (14, l.nb), (16, l.srecs),
      (8, l.restarts), (18, 0)] ++
    word64 [(32, l.orbit.toNat), (32, l.pktH)] ++ word64 [(32, l.pktW), (32, l.pktS)] ++ word64 [(32, l.pktM), (32, 0)] ++
    word64 [(48, l.sec.toNat), (16, l.frac.toNat)] ++ word64 [(32, l.ns), (32, 0)]
  | .m kind sq mode bcid tag body =>
    word64 [(8, kind), (8, sq), (12, body.length), (4, mode), (13, bcid), (6, tag.toNat), (13, 0)] ++
    body.flatMap (fun w => natBytes 4 w.toNat) ++ (if body.length % 2 = 1 then natBytes 4 0 else [])

/-- The length of a record in bytes. -/
def Rec.size : Rec → Nat
  | .h .. => 8
  | .hc .. => 4
  | .mark .. => 8
  | .w _ _ _ _ _ _ _ _ xs => 8 + 8 * ((xs.length + 2) / 3)
  | .s .. => 40
  | .restart .. => 16
  | .trailer _ => 48
  | .m _ _ _ _ _ body => 8 + 8 * ((body.length + 1) / 2)

/-- A compact H record (R311). -/
def Rec.compact : Rec → Bool
  | .hc .. => true
  | _ => false

/-- The class a record travels in (R23, R313, R318, R319). -/
def Rec.cls : Rec → Cls
  | .h .. => .h
  | .hc .. => .h
  | .mark .. => .w
  | .w .. => .w
  | .s .. => .s
  | .restart .. => .s
  | .trailer _ => .s
  | .m .. => .m

/-- The input of a packet in bytes, with the pad word of an odd number of compact records (R311). -/
def Packet.ilen (p : Packet) : Nat :=
  let n := (p.recs.map Rec.size).sum
  if p.compact && p.recs.length % 2 == 1 then n + 4 else n

/-- The payload of a packet as it was closed. -/
def Packet.input (p : Packet) : List Byte :=
  p.recs.flatMap Rec.bytes ++ (if p.compact && p.recs.length % 2 == 1 then natBytes 4 0x7FE else [])

/-! ### Compression -/

/-- One unit of the pre-transform: each 16-bit field less the same field of the previous unit of the channel (R362). -/
def deltaWord (prev w : Nat) : Nat :=
  let f := fun k => (w / 2 ^ k % 65536 + 65536 - prev / 2 ^ k % 65536)
  packBits [(16, w / 2 ^ 48), (16, f 32), (16, f 16), (16, f 0)]

/-- The pre-transform over the units of a packet; `prev` holds the last unit of each channel. -/
def deltaUnits : List (Option Nat × Nat) → Sparse (Option Nat) → List Nat
  | [], _ => []
  | (none, w) :: r, prev => w :: deltaUnits r prev
  | (some c, w) :: r, prev =>
    (match sget (fun _ => none) prev c with
      | some p => deltaWord p w
      | none => w) :: deltaUnits r (sput (fun _ => none) c (some w) prev)

/-- What an engine reads: the input, after the pre-transform where it is requested (R359, R362). -/
def Packet.engineInput (p : Packet) : List Byte :=
  if p.delta && !p.compact then
    (deltaUnits (p.recs.flatMap fun r =>
      match r.units with
      | some u => u
      | none => [(none, bytesNat r.bytes)]) []).flatMap (natBytes 8)
  else p.input

/-- The code of a string and a byte in the dictionary: entries (prefix code, byte) from code 258 upward, newest first. -/
def dictFind (w b : Nat) : List (Nat × Nat) → Option Nat
  | [] => none
  | e :: r => if e.1 = w ∧ e.2 = b then some (258 + r.length) else dictFind w b r

/-- The codes of a job (R359): w is the code of the string held. -/
def lzwCodes : List Byte → Nat → List (Nat × Nat) → List Nat
  | [], w, _ => [w, 257]
  | b :: r, w, d =>
    match dictFind w b.toNat d with
    | some c => lzwCodes r c d
    | none => w :: lzwCodes r b.toNat (if 258 + d.length ≤ 4095 then (w, b.toNat) :: d else d)

/-- The width of the k-th code word (R360). -/
def codeWidth (k : Nat) : Nat := Nat.min 12 (Nat.max 9 (Nat.log2 (256 + k) + 1))

/-- The code words with their widths, from the k-th. -/
def codeFields : Nat → List Nat → List (Nat × Nat)
  | _, [] => []
  | k, x :: r => (codeWidth k, x) :: codeFields (k + 1) r

/-- The code stream of a job, padded to a byte boundary (R361). -/
def codeStream (inp : List Byte) : List Byte :=
  match inp with
  | [] => []
  | b :: r =>
    let f := codeFields 1 (lzwCodes r b.toNat [])
    let n := (f.map Prod.fst).sum
    let bytes := (n + 7) / 8
    natBytes bytes (packBits f * 2 ^ (8 * bytes - n))

/-- The compressed payload of a packet: the compression header and the code stream (R358, Table 12-2). -/
def Packet.compressed (p : Packet) : List Byte :=
  word64 [(4, 1), (1, b2n (p.delta && !p.compact)), (14, p.ilen), (45, 0)] ++ codeStream p.engineInput

/-- The output slot of a packet's job in bytes (R363). -/
def Packet.slot (p : Packet) : Nat := p.ilen * p.b / 16

/-! ### The packet on the wire -/

/-- The stored header, which the framer forms from the descriptor (R364, Table 12-4); none in the other forms. -/
def Packet.lead (p : Packet) : List Byte :=
  match p.form with
  | .stored reason b engine obytes slot =>
    word64 [(4, 0), (3, reason), (14, p.ilen), (5, b), (3, engine), (35, 0)] ++ word64 [(14, obytes), (14, slot), (36, 0)]
  | _ => []

/-- The bytes of a packet that lie in the banks and leave: the output of its job, or its input (R357, R358, R364). -/
def Packet.held (p : Packet) : List Byte :=
  match p.form with
  | .compressed bs => bs
  | _ => p.input

/-- The chain of the pages that hold those bytes (R337, R357). -/
def Packet.heldIn (p : Packet) : List Nat :=
  match p.form with
  | .compressed _ => p.slotChain
  | _ => p.chain

/-- The payload of a packet in the form it leaves in (R304, R358, R364). -/
def Packet.payload (p : Packet) : List Byte := p.lead ++ p.held

/-- The FLAGS of a packet header as a side sends it (R305). -/
def Packet.flags (p : Packet) (side : Side) : Nat :=
  let comp := match p.form with | .compressed _ => true | _ => false
  let stored := match p.form with | .stored .. => true | _ => false
  packBits [(1, b2n comp), (1, b2n stored), (1, b2n p.demoted), (1, b2n p.stale), (1, b2n p.part),
    (1, b2n (p.resent.get side)), (1, b2n p.hold), (1, b2n p.aged)]

/-- The header of a packet (Table 11-2) with the LENGTH that a side sends: 0x3FFF in a gambit (R353). -/
def Packet.header (p : Packet) (side : Side) (gambit : Bool) : List Byte :=
  let flags := if gambit then p.flags side % 128 + 128 else p.flags side
  natBytes 4 (packBits [(4, 1), (4, 1), (12, p.hubid.toNat), (4, p.cls.code), (8, flags)]) ++ natBytes 4 p.seq.toNat ++
  natBytes 4 p.orbit.toNat ++
  natBytes 4 (packBits [(13, p.bcid), (14, if gambit then 0x3FFF else p.payload.length), (5, 0)])

/-- One bit of the CRC-32 of IEEE 802.3, least significant bit first. -/
def crc32Bit (r : Nat) : Nat := if r % 2 = 1 then Nat.xor (r / 2) 0xEDB88320 else r / 2

/-- The CRC-32 register after one byte. -/
def crc32Byte (r : Nat) (b : Byte) : Nat :=
  crc32Bit (crc32Bit (crc32Bit (crc32Bit (crc32Bit (crc32Bit (crc32Bit (crc32Bit (Nat.xor r b.toNat))))))))

/-- The CRC-32 of bytes in sending order, with the final complement (R306). -/
def crc32 (l : List Byte) : Nat := Nat.xor (l.foldl crc32Byte 0xFFFFFFFF) 0xFFFFFFFF

/-- The trailer of the bytes before it: the CRC-32, or its complement for a poisoned packet, least significant byte first (R306,
R349). -/
def trailerOf (poisoned : Bool) (l : List Byte) : List Byte :=
  (natBytes 4 (if poisoned then Nat.xor (crc32 l) 0xFFFFFFFF else crc32 l)).reverse

/-- The whole packet as a side sends it, with the bytes `held` that its reads deliver (R304 to R306, R349).
DESIGN CHOICE (log 33). -/
def Packet.wire (p : Packet) (side : Side) (gambit : Bool) (held : List Byte) : List Byte :=
  let l := p.header side gambit ++ p.lead ++ held
  l ++ trailerOf p.poisoned l

/-! ### Check codes of the ports -/

/-- One bit into a CRC register of w bits with the given polynomial, most significant bit first. -/
def crcStep (w poly r : Nat) (bit : Bool) : Nat :=
  let top := natBit r (w - 1) != bit
  let sh := r * 2 % 2 ^ w
  if top then Nat.xor sh poly else sh

/-- A CRC over the low n bits of v, most significant bit first. -/
def crcBits (w poly : Nat) : Nat → Nat → Nat → Nat
  | 0, _, r => r
  | n + 1, v, r => crcBits w poly n v (crcStep w poly r (natBit v n))

end Sys2Proof.Machine
end

