-- ==== Sys2Proof/Machine/LineCode.lean ====
section
/-!
DEFINITION. Sys2Proof/Machine/LineCode.lean: what the transmitters of the serial ports put on their lines: the scrambled frames with
stuff slots of the fixed-latency ports (R374 to R377), the characters and code groups of a bond (R381 to R384), the words of the
single-lane configuration (R386 to R388), the training burst (R398) and the test pattern (R400).
-/
namespace Sys2Proof.Machine

/-! ### Bits -/

/-- The n low bits of a number, the highest first. -/
def msbBits : Nat → Nat → List Bool
  | 0, _ => []
  | n + 1, v => natBit v n :: msbBits n v

/-- A line of bits, the first one highest. -/
def Line.ofBits (l : List Bool) : Line := ⟨l.length, l.foldl (fun a b => 2 * a + b2n b) 0⟩

/-- A line with every bit inverted. -/
def Line.inverted (l : Line) : Line := ⟨l.len, 2 ^ l.len - 1 - l.bits⟩

/-! ### Fixed-latency frames -/

/-- The additive scrambler x^7 + x^6 + 1 over n bits, loaded with ones (R376): the bits to XOR, first bit highest. -/
def scramble : Nat → Nat → Nat → Nat
  | 0, _, acc => acc
  | n + 1, r, acc =>
    let b := b2n (natBit r 6 != natBit r 5)
    scramble n (r * 2 % 128 + b) (acc * 2 + b)

/-- The filler of a stuff slot: the complement of the bit before when the 8 bits before are identical (R377). -/
def slotBit (last8 slot : Nat) : Nat :=
  if last8 = 0 then 1 else if last8 = 255 then 0 else slot % 2

/-- Lay scrambled content into line bits: a slot, then a quarter of the content, four times (R374). `line` ends with the
last line bits of the frame before. -/
def stuff (per : Nat) : Nat → Nat → Nat → Nat
  | 0, _, line => line
  | k + 1, content, line =>
    let slot := 3 - k
    let line := line * 2 + slotBit (line % 256) slot
    stuff per k content (line * 2 ^ per + content / 2 ^ (per * k) % 2 ^ per)

/-- The line bits of a frame of f bits with the given content, after what the port sent before (R374 to R377). -/
def lineFrame (f content : Nat) (before : Option Line) : Line :=
  let n := f - 4
  let x := Nat.xor (content % 2 ^ n) (scramble n 127 0)
  let last := match before with | some b => b.bits % 256 | none => 1
  ⟨f, stuff (n / 4) 4 x last % 2 ^ f⟩

/-- A control or partner frame's content with its CRC-6 (R375). -/
def withCrc6 (content54 : Nat) : Nat := content54 * 64 + crcBits 6 3 54 content54 63

/-! ### Characters of a bond -/

/-- A character of a bond: a data byte, or a special code group of Table 13-3. -/
inductive Ch where
  | d (b : Byte)
  | k285 | k281 | k277 | k297 | k307
  deriving DecidableEq, Repr

/-- The 6-bit group of the low five bits of a byte at negative running disparity, bit a highest (IEEE 802.3 clause 36, R381).
PRESUMED (log 73). -/
def sixBits (x : Nat) : Nat :=
  ([0b100111, 0b011101, 0b101101, 0b110001, 0b110101, 0b101001, 0b011001, 0b111000,
    0b111001, 0b100101, 0b010101, 0b110100, 0b001101, 0b101100, 0b011100, 0b010111,
    0b011011, 0b100011, 0b010011, 0b110010, 0b001011, 0b101010, 0b011010, 0b111010,
    0b110011, 0b100110, 0b010110, 0b110110, 0b001110, 0b101110, 0b011110, 0b101011][x]?).getD 0

/-- The 4-bit group of the high three bits of a byte at negative running disparity, bit f highest. PRESUMED (log 73). -/
def fourBits (y : Nat) : Nat :=
  ([0b1011, 0b1001, 0b0101, 0b1100, 0b1101, 0b1010, 0b0110, 0b1110][y]?).getD 0

/-- The number of ones in n bits. -/
def onesIn (n v : Nat) : Nat := (msbBits n v).count true

/-- A part of a code group at a running disparity, and the disparity after it; `same` is the balanced part that changes all the
same. PRESUMED (log 73). -/
def subGroup (n : Nat) (plus same : Bool) (v : Nat) : Nat × Bool :=
  let even := 2 * onesIn n v == n
  (if plus && (!even || same) then 2 ^ n - 1 - v else v, plus != !even)

/-- The code group of a data byte at a running disparity, true for positive, and the disparity after it (R381).
PRESUMED (log 73). -/
def dataGroup (plus : Bool) (b : Byte) : Nat × Bool :=
  let x := b.toNat % 32
  let y := b.toNat / 32
  let six := subGroup 6 plus (x == 7) (sixBits x)
  let alt := y == 7 && (if six.2 then x == 11 || x == 13 || x == 14 else x == 17 || x == 18 || x == 20)
  let four := subGroup 4 six.2 (y == 3) (if alt then 0b0111 else fourBits y)
  (six.1 * 16 + four.1, four.2)

/-- A special code group at negative running disparity. PRESUMED (log 73). -/
def Ch.special : Ch → Nat
  | .k285 => 0b0011111010
  | .k281 => 0b0011111001
  | .k277 => 0b1101101000
  | .k297 => 0b1011101000
  | .k307 => 0b0111101000
  | .d _ => 0

/-- The code group of a character at a running disparity, and the disparity after it (R381). PRESUMED (log 73). -/
def Ch.group (plus : Bool) : Ch → Nat × Bool
  | .d b => dataGroup plus b
  | k => subGroup 10 plus true k.special

/-- The line bits of characters in sending order, from a running disparity. PRESUMED (log 73). -/
def codeGroups : Bool → List Ch → List Bool
  | _, [] => []
  | plus, c :: r => let g := c.group plus; msbBits 10 g.1 ++ codeGroups g.2 r

/-- The characters that position i of m carries, when the first one stands at position `pos` and they run across the columns
(R382). -/
def laneChars (m pos i : Nat) (l : List Ch) : List Ch :=
  (l.zipIdx.filter fun e => (pos + e.2) % m == i).map Prod.fst

/-- The characters of a packet: K27.7 in place of the first byte, and K29.7 behind the trailer of a gambit (R383). -/
def packetChars (gambit : Bool) (bytes : List Byte) : List Ch :=
  .k277 :: bytes.tail.map Ch.d ++ if gambit then [.k297] else []

/-- Fill inside a packet: n characters or words of fill behind the first k of it (R354). DESIGN CHOICE (log 33). -/
def withFill {α : Type} (k n : Nat) (fill : α) (l : List α) : List α := l.take k ++ List.replicate n fill ++ l.drop k

/-- The byte D of a marker (R384). -/
def markerByte (m pos epoch : Nat) : Nat := packBits [(2, m - 1), (2, pos), (4, epoch)]

/-- A lane-alignment marker (R384). -/
def markerChars (m pos epoch : Nat) : List Ch := [.k281, .d (BitVec.ofNat 8 (markerByte m pos epoch))]

/-! ### Words of the single-lane configuration -/

/-- A word of the single-lane configuration: its prefix says whether it is a control word (R386). -/
structure LaneWord where
  control : Bool
  bits : Nat
  deriving DecidableEq, Repr

/-- A control word of Table 13-4. -/
def ctlWord (type low : Nat) : LaneWord := ⟨true, packBits [(8, type), (24, low)]⟩

/-- IDLE (Table 13-4). -/
def idleWord : LaneWord := ctlWord 0x1E 0

/-- ABORT (Table 13-4). -/
def abortWord : LaneWord := ctlWord 0x99 0

/-- ALIGN of a port (Table 13-4). -/
def State.alignWord (s : State) (p : Nat) : LaneWord := ctlWord 0xE1 (packBits [(12, F.ACQ_HUBID_ID.rd s), (5, p), (7, 0)])

/-- Bytes in data words, the last one padded with zeros (R388). -/
def dataWords : List Byte → List LaneWord
  | a :: b :: c :: d :: r => ⟨false, bytesNat [a, b, c, d]⟩ :: dataWords r
  | [] => []
  | l => [⟨false, bytesNat ((l ++ [0, 0, 0]).take 4)⟩]

/-- The words of a packet: SOP with bytes 1 to 3, the rest in data words, and EOP behind a gambit (R388, Table 13-4). -/
def packetWords (gambit : Bool) (bytes : List Byte) : List LaneWord :=
  ctlWord 0x78 (bytesNat (bytes.tail.take 3)) :: dataWords (bytes.drop 4) ++
    if gambit then [ctlWord 0x87 ((bytes.length - 5) % 4)] else []

/-- The self-synchronising scrambler x^58 + x^39 + 1 over the n low bits of a number, the highest first; the state holds the last
58 bits it sent (R386). -/
def selfScramble : Nat → Nat → Nat → List Bool × Nat
  | 0, _, r => ([], r)
  | n + 1, v, r =>
    let b := (natBit v n != natBit r 38) != natBit r 57
    let t := selfScramble n v ((2 * r + b2n b) % 2 ^ 58)
    (b :: t.1, t.2)

/-- The bits of words before insertion: each prefix as it is, and 32 scrambled bits (R386). -/
def wordBits : Nat → List LaneWord → List Bool
  | _, [] => []
  | r, w :: l => let t := selfScramble 32 w.bits r; [w.control, !w.control] ++ t.1 ++ wordBits t.2 l

/-- Behind 24 identical line bits one complementary bit is inserted, the first of the next run (R386). `n` bits equal to `last` have
gone before. -/
def insertBits (last : Bool) (n : Nat) : List Bool → List Bool
  | [] => []
  | b :: r =>
    let n := if b == last then n + 1 else 1
    if n = 24 then [b, !b] ++ insertBits (!b) 1 r else b :: insertBits b n r

/-- The line bits of words from a scrambler state, behind a run of n equal bits. -/
def wordsLine (scr : Nat) (last : Bool) (n : Nat) (l : List LaneWord) : List Bool := insertBits last n (wordBits scr l)

/-! ### The training burst and the test pattern -/

/-- The training burst: 64 bits of alternating 1 and 0 (R398). -/
def burst : List Bool := (List.replicate 32 [true, false]).flatten

/-- n bits of the sequence x^31 + x^28 + 1 from the state of its shift register, and the state after them (R400). -/
def pattern : Nat → Nat → List Bool × Nat
  | 0, r => ([], r)
  | n + 1, r =>
    let b := natBit r 30 != natBit r 27
    let t := pattern n ((2 * r + b2n b) % 2 ^ 31)
    (b :: t.1, t.2)

end Sys2Proof.Machine
end

