-- ==== Sys2Proof/Machine/Buffer.lean ====
section
/-!
DEFINITION. Sys2Proof/Machine/Buffer.lean: the frame buffer (chapter 12): pages and descriptors, how a record enters a packet,
how a packet closes, becomes complete and is released; and the class M records of the hub itself (R160, R161, R521, R530,
R531).
-/
namespace Sys2Proof.Machine

/-! ### Sides and marks that records carry -/

/-- The fused rating of a side (Table 20-4). -/
def State.fusedRating (s : State) (side : Side) : Nat :=
  match side with
  | .k => (s.shadowWord 0x0B).toNat % 16
  | .q => (s.shadowWord 0x0B).toNat / 16 % 16

/-- The effective rating of a side (R420). -/
def State.rating (s : State) (side : Side) : Nat :=
  if s.fusedRating .k = 0 ∧ s.fusedRating .q = 0 then 1 else s.fusedRating side

/-- A side is dead for the frame buffer (R346, R420, R526). -/
def State.dead (s : State) (side : Side) : Bool :=
  natBit (F.BUF_SIDE_DEAD.rd s) side.code || s.sid.held.get side || s.rating side == 0

/-- A BP lies in a holdover interval (R53). -/
def State.inHoldover (s : State) (bp : Nat) : Bool :=
  (s.clk.holdover && Nat.ble s.clk.holdSince bp) || s.clk.holds.any fun h => Nat.ble h.1 bp && Nat.ble bp h.2

/-- A block of Table 3-7 is stale (R90). -/
def State.staleBlock (s : State) (n : Nat) : Bool := natBit (F.RST_STALE_BLOCK.rd s) n

/-- Set or clear the stale bit of a block. -/
def State.setStale (n : Nat) (b : Bool) (s : State) : State := (Fld.mk F.RST_STALE_BLOCK.addr n n).put b s

/-! ### Pages and descriptors -/

/-- The pages of a number of bytes (R333). -/
def pagesOf (n : Nat) : Nat := ceilDiv n 256

/-- The words of a number of bytes (R333). -/
def wordsOf (n : Nat) : Nat := ceilDiv n 8

/-- The pages a packet holds of its own: its input, and the output of its job; a capture's input lies in the capture area (R338,
R341, R357). -/
def Packet.own (p : Packet) : List Nat := (if p.capt then [] else p.chain) ++ p.slotChain

/-- The fill of a queue in pages (R338). -/
def State.fill (s : State) (c : Cls) : Nat :=
  ((s.packets.filter fun p => p.cls == c).map fun p => p.own.length).sum + (if c = .w then s.cap.chain.length else 0)

/-- The pages in use. -/
def State.usedPages (s : State) : List Nat := s.packets.flatMap Packet.own ++ s.cap.chain

/-- Free pages. -/
def State.freePages (s : State) : Nat := 24576 - (s.fill .h + s.fill .w + s.fill .s + s.fill .m)

/-- Free descriptors (R337). -/
def State.freeDesc (s : State) : Nat := 8192 - s.packets.length

/-- The unused page reservation of a class (R339). -/
def State.unusedPages (s : State) : Cls → Nat
  | .s => F.BUF_QRES_S.rd s - s.fill .s
  | .m => F.BUF_QRES_M.rd s - s.fill .m
  | _ => 0

/-- The unused descriptor reservation of a class (R339). -/
def State.unusedDesc (s : State) (c : Cls) : Nat :=
  (match c with | .s => 512 | .m => 256 | _ => 0) - (s.packets.filter fun p => p.cls == c).length

/-- Pages may be allocated to a class (R339). -/
def State.pagesFor (s : State) (c : Cls) (n : Nat) : Bool :=
  n == 0 || Nat.ble (n + (([Cls.s, Cls.m].filter fun d => !(d == c)).map s.unusedPages).sum) s.freePages

/-- A descriptor may be allocated to a class (R339). -/
def State.descFor (s : State) (c : Cls) : Bool :=
  Nat.ble (1 + (([Cls.s, Cls.m].filter fun d => !(d == c)).map s.unusedDesc).sum) s.freeDesc

/-- The first page from a number on, around the 24,576, that is not in use; `n` bounds the search. -/
def nextFree (used : List Nat) : Nat → Nat → Nat
  | 0, p => p
  | n + 1, p => if used.contains p then nextFree used n ((p + 1) % 24576) else p

/-- Free pages for n places; which ones the allocation takes is not stated, and free values choose them.
DESIGN CHOICE (log 74). -/
def pickPages (used : List Nat) (free : Nat → Nat) : Nat → List Nat
  | 0 => []
  | n + 1 =>
    let l := pickPages used free n
    l ++ [nextFree (l ++ used) (n + used.length) (free n % 24576)]

/-- Word j of page p is word 2p + j/16 of bank j mod 16; both in one number, 16 times the bank's word plus the bank (R333).
DESIGN CHOICE (log 74). -/
def placeOfWord (chain : List Nat) (i : Nat) : Option Nat := chain[i / 32]?.map fun p => 32 * p + i % 32

/-- The bank of a stored word (R333). -/
def bankOf (k : Nat) : Nat := k % 16

/-- The words of pages are written anew: their errors are gone. DESIGN CHOICE (log 74). -/
def renewPages (l : List Nat) (s : State) : State :=
  { s with bufErr := s.bufErr.filter fun e => !(l.contains (e.1 / 32)), scrubBack := s.scrubBack.filter fun k => !(l.contains (k / 32)) }

/-- n pages are allocated: their numbers, and the state with them renewed. DESIGN CHOICE (log 74). -/
def State.takePages (s : State) (n : Nat) : List Nat × State :=
  let l := pickPages s.usedPages (fun i => (s.freeNow i).toNat) n
  (l, renewPages l (s.drew n))

/-- A packet by its number in the model. -/
def State.packet (s : State) (pid : Nat) : Option Packet := s.packets.find? fun p => p.pid == pid

/-- Change a packet. -/
def State.modPacket (pid : Nat) (f : Packet → Packet) (s : State) : State :=
  { s with packets := s.packets.map fun p => if p.pid = pid then f p else p }

/-- The open packet of a class (R307). -/
def State.openPacket (s : State) (c : Cls) : Option Packet := s.packets.find? fun p => p.cls == c && p.st == .opened

/-! ### Closing and completing -/

/-- A notice: the packet is complete (R343). -/
def notice (c : Cls) (s : State) : State :=
  if F.BUF_NOTICE_SEQEN.is s && natBit (F.BUF_NOTICE_CLASS.rd s) c.bit then raiseEv (.all .pkt) s else s

/-- An engine takes jobs: enabled and not quarantined (R357). -/
def State.engineUp (s : State) (e : Nat) : Bool :=
  s.hasCmp && natBit (F.CMP_CFG_ENGEN.rd s) e && !natBit (F.CMP_STAT_ENGQ.rd s) e

/-- Compression of a class is requested (R356). -/
def State.creq (s : State) (c : Cls) : Bool := natBit (F.BUF_CFG_CREQ.rd s) c.bit

/-- A packet counts in the ledger of its orbit (Table 11-10). -/
def Ledger.count (c : Cls) (l : Ledger) : Ledger :=
  match c with
  | .h => { l with pktH := l.pktH + 1 }
  | .w => { l with pktW := l.pktW + 1 }
  | .s => { l with pktS := l.pktS + 1 }
  | .m => { l with pktM := l.pktM + 1 }

/-- Change the ledger of an orbit. -/
def State.modLedger (k : Word) (f : Ledger → Ledger) (s : State) : State :=
  { s with ledgers := s.ledgers.map fun l => if l.orbit = k then f l else l }

/-- A packet closes: it takes the next sequence number, and it is complete at once unless a job is requested and can run
(R307, R342, R356, R368, R369, R428). -/
def closePacket (pid : Nat) (s : State) : State :=
  match s.packet pid with
  | none => s
  | some p =>
    if p.st = .opened then
      let req := s.creq p.cls
      let engines := (below 8 s.engineUp).length
      let job := req && Nat.blt 0 engines
      let s := s.modPacket pid fun p => { p with
        seq := s.seq
        b := F.CMP_CFG_B.rd s
        delta := (p.cls == .h && F.CMP_CFG_DELTAH.is s) || (p.cls == .w && F.CMP_CFG_DELTAW.is s)
        st := if job then .queued else .complete
        form := if req && !job then .stored 4 0 0 0 0 else .plain }
      let s := { s with seq := s.seq + 1 }
      let s := s.modLedger p.orbit (Ledger.count p.cls)
      if job then s else notice p.cls s
    else s

/-- The open packet of a class closes, if there is one. -/
def closeClass (c : Cls) (s : State) : State :=
  match s.openPacket c with
  | some p => closePacket p.pid s
  | none => s

/-! ### Entering a record -/

/-- A record can join an open packet: of the same orbit and kind, and within 8192 bytes (R307). -/
def Packet.takes (p : Packet) (w : Waiting) (capt : Bool) : Bool :=
  p.orbit == w.tag.orbit && p.compact == w.r.compact && p.capt == capt &&
    Nat.ble ({ p with recs := p.recs ++ [w.r] } : Packet).ilen 8192

/-- A record comes from a capture. -/
def Rec.capt : Rec → Bool
  | .w _ _ _ capt .. => capt
  | _ => false

/-- A mark record with THIN, for the demoted flag of its packet (R305). -/
def Rec.thin : Rec → Bool
  | .mark _ _ _ thin .. => thin
  | _ => false

/-- The record opens a packet of its class as the class stands (R322). -/
def State.opens (s : State) (w : Waiting) : Bool :=
  match s.openPacket w.cls with
  | some p => !p.takes w w.r.capt
  | none => true

/-- A packet with a record added. -/
def Packet.add (p : Packet) (w : Waiting) (bp : Nat) : Packet :=
  { p with recs := p.recs ++ [w.r], demoted := p.demoted || w.r.compact || w.r.thin, stale := p.stale || w.stale,
           part := p.part || w.part, hold := p.hold || w.hold, aged := p.aged || w.aged, lastBp := bp,
           dataBp := Nat.max p.dataBp w.dataBp }

/-- The pages that a packet needs beside its chain. -/
def Packet.lacks (p : Packet) : Nat := pagesOf p.ilen - p.chain.length

/-- The next n pages of the capture area, around its end: the capture packets lie in it one behind another (R341).
DESIGN CHOICE (log 74). -/
def State.areaPages (s : State) (n : Nat) : List Nat :=
  let used := ((s.packets.filter Packet.capt).map fun p => p.chain.length).sum
  (List.range n).filterMap fun i => s.cap.chain[(used + i) % Nat.max 1 s.cap.chain.length]?

/-- The pages that a packet lacks are linked to its chain: of the capture area for a capture packet, else newly allocated ones; none
where they cannot be had (R333, R337, R339, R341). -/
def State.linkPages (s : State) (p : Packet) : Option (Packet × State) :=
  if p.capt then some ({ p with chain := p.chain ++ s.areaPages p.lacks }, s)
  else if s.pagesFor p.cls p.lacks then
    let t := s.takePages p.lacks
    some ({ p with chain := p.chain ++ t.1 }, t.2)
  else none

/-- A record tries to enter the open packet of its class, which closes where R307 says so; false where no page or
descriptor can be had (R339, R340). -/
def tryEnter (w : Waiting) (s : State) : State × Bool :=
  let s := if s.opens w then closeClass w.cls s else s
  match s.openPacket w.cls with
  | some p =>
    match s.linkPages (p.add w s.bp) with
    | some t => (t.2.modPacket p.pid fun _ => t.1, true)
    | none => (s, false)
  | none =>
    let p : Packet := { pid := s.nextPid, cls := w.cls, compact := w.r.compact, capt := w.r.capt, orbit := w.tag.orbit,
                        bcid := w.tag.bcid, hubid := BitVec.ofNat 12 (F.ACQ_HUBID_ID.rd s) }
    if s.descFor w.cls then
      match s.linkPages (p.add w s.bp) with
      | some t => ({ t.2 with packets := t.2.packets ++ [t.1], nextPid := t.2.nextPid + 1 }, true)
      | none => (s, false)
    else (s, false)

/-- The write port of a region is held by a waiting record of the class's kind: S records travel in their own queue
(R340). -/
def State.portBlocked (s : State) (region : Nat) (c : Cls) : Bool :=
  s.waiting.any fun w => w.region == region && ((w.cls == .s) == (c == .s))

/-- A record waits at its region's write port: at its head, or behind another one (R340). -/
def waitSpace (why : WaitWhy) (w : Waiting) (s : State) : State :=
  raiseFlag 0xA00A 4 { s with waiting := s.waiting ++ [{ w with why := why }] }

/-- The block of a region that a record comes from: a channel group, or the one place of everything else (R340, Table 1-1).
DEDUCED (log 75). -/
def Rec.block : Rec → Nat
  | .h c .. => c / 16
  | .hc c .. => c / 16
  | .w c .. => c / 16
  | .s c _ => c / 16
  | .mark _ _ _ _ _ ch _ _ => ch / 16
  | .restart b .. => b
  | .trailer _ => 31
  | .m .. => 31

/-- The write port of a region has served a block; S records, restart entries and trailers keep no turn (R340).
DEDUCED (log 75). -/
def servedBlock (w : Waiting) (s : State) : State :=
  if w.cls = .s then s else { s with served := sput (fun _ => 31) w.region w.r.block s.served }

/-- A capture ring is being filled: the capture owns every write cycle, and regions and compression outputs wait (R336). -/
def State.ringFills (s : State) : Bool := s.cap.st == .armed || s.cap.st == .post

/-- A record reaches its region's write port. -/
def enterRecord (w : Waiting) (s : State) : State :=
  if s.ringFills then { s with waiting := s.waiting ++ [{ w with why := .ring }] }
  else if s.portBlocked w.region w.cls then waitSpace .behind w s
  else
    let r := tryEnter w s
    if r.2 then servedBlock w r.1 else waitSpace .head w r.1

/-! ### Release -/

/-- A packet is done with: closed, and sent by both sides, or by one while the other is dead (R345). -/
def State.packetDone (s : State) (p : Packet) : Bool :=
  p.st == .complete &&
    ((p.sent.k && p.sent.q) || (p.sent.k && s.dead .q) || (p.sent.q && s.dead .k))

/-- A capture packet, or a capture record that waits for space, is in the buffer. -/
def State.capPackets (s : State) : Bool := (s.packets.any fun p => p.capt) || s.waiting.any fun w => w.r.capt

/-- The capture area is freed when every capture packet has been released (R341). -/
def freeArea (s : State) : State :=
  if s.capPackets then s
  else match s.cap.st with
    | .sending => { s with cap := { s.cap with st := .off, chain := [] } }
    | .waitRel => { s with cap := { s.cap with chain := [] } }
    | _ => s

/-- Every packet that is done with is released. -/
def releasePackets (s : State) : State :=
  freeArea { s with packets := s.packets.filter fun p => !(s.packetDone p) }

/-! ### Class M records of the hub -/

/-- The region that produces class M records of the hub and of squares (Table 1-1: the control region). -/
def regionC : Nat := 5

/-- A class M record of this moment (R321, Table 11-11). -/
def mRecord (kind sq : Nat) (tag : BitVec 6) (body : List Word) (s : State) : State :=
  enterRecord { region := regionC, cls := .m, tag := s.tag, stale := false, hold := false, aged := false, part := false,
                r := .m kind sq s.mode.code s.bcid tag body } s

/-- A class M record of the hub's own about a square, or about none with 0xFF: an orbit carries at most 64 (R531). -/
def hubRecordOf (kind sq : Nat) (body : List Word) (s : State) : State :=
  if s.reports < 64 then mRecord kind sq 0 body { s with reports := s.reports + 1 }
  else F.ERR_REPSUP_COUNT.count 1 s

/-- A class M record of the hub's own. -/
def hubRecord (kind : Nat) (body : List Word) (s : State) : State := hubRecordOf kind 0xFF body s

/-- A fault report (R521): its words also go to `ERR.LAST` and `ERR.LASTDET`. -/
def faultReport (level cls block index : Nat) (detail : Word) (s : State) : State :=
  let w0 := BitVec.ofNat 32 (packBits [(4, level), (6, cls), (5, block), (9, index), (8, 0)])
  hubRecord 7 [w0, detail] (F.ERR_LASTDET_DETAIL.wr detail.toNat (F.ERR_LAST_WORD0.wr w0.toNat s))

/-- An uncorrectable word is found in program memory (class 2) or scratch memory (class 3): CELLUE and a report of the cell
level with the word address (R520, R521, Table 19-1). DESIGN CHOICE (log 57). -/
def foundBad (cls a : Nat) (s : State) : State :=
  faultReport 1 cls 31 5 (BitVec.ofNat 32 a) (raiseFlag F.ERR_STICKY_CELLUE.addr 0 s)

/-- An event report (R530). -/
def eventReport (ev index detail : Nat) (s : State) : State :=
  hubRecord 0x0C [BitVec.ofNat 32 (packBits [(8, ev), (8, index), (16, detail)])] s

/-- A refusal record: 16 an orbit from a1 and 16 from the other squares (R160, R161). -/
def refusalRecord (sq op : Nat) (r : Reason) (test grp : Nat) (id : BitVec 16) (s : State) : State :=
  let body := [BitVec.ofNat 32 (packBits [(6, op), (3, r.code), (3, test), (4, grp), (16, id.toNat)])]
  if sq = 0 then
    if s.refA1 < 16 then mRecord 1 0 0 body { s with refA1 := s.refA1 + 1 } else F.ERR_REFSUP_COUNT.count 1 s
  else
    if s.refProg < 16 then mRecord 1 sq 0 body { s with refProg := s.refProg + 1 } else F.ERR_REFSUP_COUNT.count 1 s

end Sys2Proof.Machine
end

