-- ==== Sys2Proof/Machine/Budget.lean ====
section
/-!
DEFINITION. Sys2Proof/Machine/Budget.lean: the energy bucket, the heat scale, charges, reservations, the wait order
(R136 to R146), and the tests of admission (R148, R320).
-/
namespace Sys2Proof.Machine

/-! ### Heat and energy -/

/-- The greatest of a list of numbers. -/
def maxInt : List Int → Option Int
  | [] => none
  | a :: r =>
    match maxInt r with
    | none => some a
    | some b => some (if a < b then b else a)

/-- The hottest valid region reading, in 0.25 °C (R21, R136). -/
def State.hottest (s : State) : Option Int :=
  maxInt ((below 6 fun r => (F.ERR_TEMP_VALID r).is s).map fun r => (F.ERR_TEMP_T r).int s)

/-- The scale k of the refill (R136). -/
def State.heatScale (s : State) : Nat :=
  match s.hottest with
  | none => 256
  | some t =>
    let warn := F.PWR_HEAT_TWARN.int s
    let limit := F.PWR_HEAT_TLIMIT.int s
    if limit ≤ t then 0
    else if limit ≤ warn then 256
    else if t ≤ warn then 256
    else (256 * (limit - t) / (limit - warn)).toNat

/-- The effective refill of one BP, in 1/256 EU (R136). -/
def State.refill (s : State) : Nat := F.PWR_REFILL_AMOUNT.rd s * s.heatScale / 256

/-- 2^24 EU in units of 1/256 EU. -/
def fullBucket : Nat := 2 ^ 32

/-- One refill: the debt first, then the bucket, which caps at 2^24 EU (R136, R137). -/
def refillBucket (s : State) : State :=
  let r := s.refill
  let pay := Nat.min r s.debt
  { s with debt := s.debt - pay, bucket := Nat.min (s.bucket + (r - pay)) fullBucket }

/-- The reservations held, in EU (R144). -/
def State.reserved (s : State) : Nat :=
  (s.squareList.map fun e => match e.2.resv with | some n => n | none => 0).sum

/-- The available energy in 1/256 EU: the bucket less the reservations (R138). DEDUCED (log 63). -/
def State.available (s : State) : Nat := s.bucket - 256 * s.reserved

/-- Deduct EU from the bucket. -/
def deduct (eu : Nat) (s : State) : State := { s with bucket := s.bucket - 256 * eu }

/-- A charge that never waits: it takes what is available, and the rest becomes debt (R138). -/
def chargeExempt (eu : Nat) (s : State) : State :=
  let want := 256 * eu
  let pay := Nat.min want s.available
  let s' := { s with bucket := s.bucket - pay }
  if want = pay then s' else raiseFlag 0x430 0 { s' with debt := Nat.min (s.debt + (want - pay)) fullBucket }

/-! ### The wait order -/

/-- The index of a hardware requester (R140). -/
def HwWork.idx : HwWork → Nat
  | .lwake _ => 64
  | .mon => 65
  | .recal _ => 66
  | .ldiag _ => 67
  | .scrub => 68

/-- The priority of a hardware requester (Table 5-9). -/
def HwWork.prio (s : State) : HwWork → Nat
  | .lwake _ => F.PWR_HWPRI_LWAKE.rd s
  | .mon => F.PWR_HWPRI_MON.rd s
  | .recal _ => F.PWR_HWPRI_RECAL.rd s
  | .ldiag _ => F.PWR_HWPRI_LDIAG.rd s
  | .scrub => F.PWR_HWPRI_SCRUB.rd s

/-- One place of the wait order. -/
structure Waiter where
  prio : Nat
  idx : Nat
  cost : Nat
  deriving DecidableEq, Repr

/-- The first of two places: higher priority, then lower index (R143). -/
def Waiter.before (a b : Waiter) : Bool := Nat.blt b.prio a.prio || (a.prio == b.prio && Nat.ble a.idx b.idx)

/-- Something waits in the wait order: a square in WAIT_BUDGET or a hardware request (R143). -/
def State.anyWaits (s : State) : Bool :=
  (s.squareList.any fun e => e.2.state == .waitBudget) || !s.hwreqs.isEmpty

/-- The allowance of a square's class (R145). -/
def State.allowance (s : State) (i : Nat) : Nat := (F.PWR_CLASSCAP_EU (s.square i).cls.toNat).rd s

/-- A cost would take a square's class over its allowance in this orbit (R145). -/
def State.overClass (s : State) (i cost : Nat) : Bool :=
  s.allowance i != 0 && Nat.blt (s.allowance i) ((F.PWR_CLASSSPENT_EU (s.square i).cls.toNat).rd s + cost)

/-- Who can be the head: squares that do not wait for their class allowance, each at the priority of its last issue, and
hardware requests (R128, R143, R145). -/
def State.waiters (s : State) : List Waiter :=
  (s.squareList.filterMap fun e =>
    if e.2.state = .waitBudget ∧ e.2.barred = false ∧ s.overClass e.1 e.2.want = false then
      some ⟨e.2.effPrio.toNat, e.1, e.2.want⟩ else none) ++
  s.hwreqs.map fun r => ⟨r.work.prio s, r.work.idx, r.cost⟩

/-- The head of the wait order. -/
def headOf : List Waiter → Option Waiter
  | [] => none
  | a :: r =>
    match headOf r with
    | none => some a
    | some b => some (if a.before b then a else b)

/-- The head of the wait order that can be granted now: no debt, and its cost is available (R137, R144). -/
def State.grantable (s : State) : Option Waiter :=
  match headOf s.waiters with
  | some w => if s.debt = 0 ∧ 256 * w.cost ≤ s.available then some w else none
  | none => none

/-- A hardware request is raised. -/
def raiseHw (w : HwWork) (cost : Nat) (s : State) : State := { s with hwreqs := s.hwreqs ++ [⟨w, cost⟩] }

/-! ### Paying -/

/-- What becomes of a discretionary instruction when it asks to be paid (R143 to R146). -/
inductive Pay where
  | refused (s : State)
  | waits (s : State)
  | paid (s : State)

/-- The class of a square is charged (R144, R145). -/
def spendClass (i cost : Nat) (s : State) : State := (F.PWR_CLASSSPENT_EU (s.square i).cls.toNat).count cost s

/-- A program square waits for budget (R143). -/
def enterWait (i cost : Nat) (barred : Bool) (s : State) : State :=
  raiseFlag 0x430 1 (s.modSquare i fun q => { q with state := .waitBudget, want := cost, barred := barred, resv := none })

/-- A program square pays, waits or is refused (R143, R144, R145). DEDUCED (logs 41, 63). -/
def paySquare (i cost : Nat) (s : State) : Pay :=
  let cap := s.allowance i
  if cap ≠ 0 ∧ cap < cost then .refused (s.modSquare i fun q => { q with resv := none })
  else
    let fresh := s.modSquare i fun q => { q with resv := none }
    let exceeds := s.overClass i cost
    let anew : Pay :=
      if fresh.anyWaits || Nat.blt fresh.available (256 * cost) || exceeds then .waits (enterWait i cost exceeds fresh)
      else .paid (spendClass i cost (deduct cost fresh))
    match (s.square i).resv with
    | some r => if cost ≤ r ∧ exceeds = false then .paid (spendClass i cost (deduct cost fresh)) else anew
    | none => anew

/-- Square a1 pays at once or is refused (R146). DEDUCED (log 63). -/
def payHost (cost : Nat) (s : State) : Pay :=
  if s.anyWaits || s.debt != 0 || Nat.blt s.available (256 * cost) then .refused (raiseFlag 0x430 2 s)
  else .paid (deduct cost s)

/-- The payment of a discretionary instruction. -/
def pay (i cost : Nat) (s : State) : Pay := if i = 0 then payHost cost s else paySquare i cost s

/-! ### Admission -/

/-- A field as it will be in effect: its pending value where a write is pending (R148). -/
def Fld.coming (f : Fld) (s : State) : Nat :=
  match sget (fun _ => none) s.rwo f.addr with
  | some w => w.toNat / 2 ^ f.lo % 2 ^ f.width
  | none => f.rd s

/-- The streams of a group fit under a reader of fields: dual-gain channels plus twice the interleaved ones number at most 24
(R229). -/
def streamsFit (rd : Fld → Nat) (g : Nat) : Bool :=
  Nat.ble (((List.range 16).map fun i =>
    let c := 16 * g + i
    if rd (F.ADC_CFG_EN c) = 1 then 1 + rd (F.ADC_CFG_MODE c) else 0).sum) 24

/-- Test 1 of a group, with the values that are coming (R148). -/
def State.groupFits (s : State) (g : Nat) : Bool := streamsFit (fun f => f.coming s) g

/-- The minimum S rate for n enabled channels (R320). -/
def sMin (n nb : Nat) : Nat := ceilDiv (10 * (320 * n + 384 + 160 * ceilDiv (40 * n + 48) 8192)) nb

/-- The sum of the declared rates as they will be in effect. -/
def State.declComing (s : State) : Nat := ((List.range 4).map fun i => (F.PWR_DECL_RATE i).coming s).sum

/-- The capacity of a standard (Table 5-5). -/
def State.admCap (s : State) (std : Nat) : Nat :=
  if s.isSmall then (if std = 0 then 8192 else 6144) else (if std = 0 then 16384 else 14336)

/-- The first admission test that fails, with the failing group of test 1 (R148). -/
def State.admitFails (s : State) (std : Nat) : Option (Nat × Nat) :=
  match below 16 (fun g => s.hasGroup g && !s.groupFits g) with
  | g :: _ => some (1, g)
  | [] =>
    let n := (s.chans.filter fun c => (F.ADC_CFG_EN c).coming s == 1).length
    if (F.PWR_DECL_RATE 2).coming s < sMin n (F.LNK_ORBIT_NB.coming s) then some (2, 0)
    else if s.admCap std < s.declComing then some (3, 0)
    else none

end Sys2Proof.Machine
end

