-- ==== Sys2Proof/Machine/Tdc.lean ====
section
/-!
DEFINITION. Sys2Proof/Machine/Tdc.lean: the discriminator and the edge timing of a slice (R204 to R221, R257 to R275): edge
times, hits, merges and the hit queue, quarantine, the fast OR, the pulser.
-/
namespace Sys2Proof.Machine

/-! ### S accumulators of an interval -/

/-- Change the last record of an orbit in a list of S records. -/
def updLast (orb : Word) (f : SAcc → SAcc) : List (Word × SAcc) → List (Word × SAcc)
  | [] => []
  | e :: r =>
    if (r.any fun x => x.1 == orb) || !(e.1 == orb) then e :: updLast orb f r else (e.1, f e.2) :: r

/-- A restarting group has acknowledged its quiesce: its S records of before are closed (R85). -/
def State.drained (s : State) (g : Nat) : Bool := s.restarts.any fun r => r.block == g && r.resetting

/-- Change the S accumulators of a slice for an orbit: the interval that runs, or the last one that has ended, whose ledger is
not closed yet (R85, R317, R319). DEDUCED (log 44). -/
def modAcc (c : Nat) (orb : Word) (f : SAcc → SAcc) (s : State) : State :=
  s.modSlice c fun x =>
    if orb = s.orbit ∧ s.drained (c / 16) = false then { x with acc := f x.acc }
    else { x with ended := updLast orb f x.ended }

/-! ### Edge times -/

/-- The fine time of an edge from its raw code c and cycle index e, with the factors C1 and C2 (R259). -/
def fineTime (c1 c2 c e : Nat) : Nat :=
  let d := Nat.max (c2 - c1) 16
  let num : Int := 16 * ((e : Int) - 1) * (d : Int) - 16 * (16 * (c : Int) - (c1 : Int))
  (min (max (rne num d) 0) 1023).toNat

/-- The fine time that interpolator k of a slice gives (R259). -/
def State.interpFine (s : State) (c k : Nat) (raw e : BitVec 7) : Nat :=
  fineTime ((F.TDC_CAL_C1 c k).rd s) ((F.TDC_CAL_C2 c k).rd s) raw.toNat e.toNat

/-- The interpolator that has a role in a slice (R261). -/
def State.roleOf (s : State) (c : Nat) (lead : Bool) : Nat :=
  if lead then (F.TDC_ROLE_LEAD c).rd s else (F.TDC_ROLE_TRAIL c).rd s

/-- The fine time that the interpolator of a role gives in a slice (R259, R262). -/
def State.edgeFine (s : State) (c : Nat) (lead : Bool) (raw e : BitVec 7) : Nat := s.interpFine c (s.roleOf c lead) raw e

/-- An instant `at_` falls less than 2.0 ns after the instant `since`, both in bins. 2.0 ns are between 61 and 95 bins over the
range of R10; in between the outcome is open. DESIGN CHOICE (log 19). -/
def State.within2ns (s : State) (since at_ : Nat) : Bool :=
  Nat.blt at_ (since + 61) || (Nat.blt at_ (since + 95) && Config.freeBit s.free)

/-- The instant at which a role of a slice timed an edge last, in bins. -/
def Slice.timedAt (x : Slice) (lead : Bool) : Option Nat := if lead then x.ledAt else x.trailedAt

/-- The fine time of an edge of this BP: an interpolator whose role has moved still times the edges that find it busy (R261,
R262). DESIGN CHOICE (log 19). -/
def timeEdge (c : Nat) (lead : Bool) (raw e : BitVec 7) (s : State) : Nat × State :=
  let x := s.slice c
  match x.relieved with
  | some (l, k) =>
    let old := s.interpFine c k raw e
    let busy := match x.timedAt lead with | some t => s.within2ns t (s.bp * 1024 + old) | none => false
    if l == lead then
      (if busy then (old, s.drew 1) else (s.edgeFine c lead raw e, (s.drew 1).setSlice c { x with relieved := none }))
    else (s.edgeFine c lead raw e, s)
  | none => (s.edgeFine c lead raw e, s)

/-- The last BP of the interval of an edge of this BP that the timing-clock cycle e ends (R258, R260). -/
def State.intervalTo (s : State) (e : Nat) : Nat := s.bp + (16 * e - 1) / 1024

/-- The index of the timing-clock cycle that ends the interval of an edge at a fine time (R258). -/
def cycleOf (fine : Nat) : Nat := fine / 16 + 2

/-- An edge of the slice timed now is AGED (R267). DESIGN CHOICE (log 19). -/
def State.aged (s : State) (c : Nat) : Bool := !(F.TDC_STAT_FRESH c).is s

/-- The time over threshold for a number of bins (R271). -/
def totOf (bins : Nat) : Nat := Nat.min (rne bins 4).toNat 255

/-! ### The fast OR -/

/-- A slice takes part in its quadrant's fast OR (R216). -/
def State.inOr (s : State) (c : Nat) : Bool :=
  let m := if c % 64 < 32 then F.TRG_FOMASK0_MASK (c / 64) else F.TRG_FOMASK1_MASK (c / 64)
  natBit (m.rd s) (c % 32) && !s.quar c && s.stagePowered c

/-- The OR of a quadrant (R216). -/
def State.orHigh (s : State) (q : Nat) : Bool := s.slices.any fun e => e.1 / 64 == q && e.2.high && s.inOr e.1

/-- An FTO output beside its registers. -/
def State.ftoOf (s : State) (q : Nat) : Fto := sget (fun _ => {}) s.fto q

/-- Give an FTO output a value. -/
def State.setFto (q : Nat) (x : Fto) (s : State) : State := { s with fto := sput (fun _ => {}) q x s.fto }

/-- A stretch of the FTO output of a quadrant still runs at an instant in bins (R218). DESIGN CHOICE (log 19). -/
def State.stretched (s : State) (q at_ : Nat) : Bool := match (s.ftoOf q).rise with | some t => s.within2ns t at_ | none => false

/-- The FTO output of a quadrant is low at an instant in bins, for its OR and its stretcher (R218, R220). -/
def State.ftoLow (s : State) (q at_ : Nat) : Bool := !s.orHigh q && !s.stretched q at_

/-- An FTO output that has fallen takes a delay that waited for its fall (R219). -/
def Fto.fallen (x : Fto) (delay : Nat) : Fto := if x.delayDue then { x with delay := delay, delayDue := false } else x

/-- The FTO output of a quadrant has fallen. -/
def ftoFell (q : Nat) (s : State) : State := s.setFto q ((s.ftoOf q).fallen ((F.TRG_FTOCFG_DELAY q).rd s))

/-- The OR of a quadrant rises, in absolute bins: FTO rises unless a stretch of 2.0 ns still runs (R218, R221).
DESIGN CHOICE (log 19). -/
def ftoRise (q at_ : Nat) (s : State) : State :=
  let near := s.stretched q at_
  let s := (if near then s else ftoFell q s).drew 1
  let x := s.ftoOf q
  let s := s.setFto q { x with rise := some at_ }
  if !near && x.en then (F.TRG_FTOCNT_COUNT q).count 1 s else s

/-- An operation that may change the OR of a quadrant, at a time in bins. -/
def withOr (q at_ : Nat) (f : State → State) (s : State) : State :=
  let t := f s
  if !s.orHigh q && t.orHigh q then ftoRise q at_ t
  else if s.orHigh q && t.ftoLow q at_ then ftoFell q (t.drew 1) else t

/-- This moment in bins. -/
def State.nowBins (s : State) : Nat := s.bp * 1024 + s.cyc * 128

/-! ### Hits -/

/-- A merge into a hit of the slice (R270, R274, R275, Table 11-8). -/
def countMerge (c : Nat) (n : Hit) (live : Bool) (s : State) : State :=
  let s := (F.TDC_HSTAT1_MERGED c).count 1 s
  if live then modAcc c n.tag.orbit (fun a => { a with merged := Nat.min (a.merged + 1) 65535 }) s else s

/-- How a hit ends: the instant in bins, the interval of its trailing edge, where one ends it, and whether that edge is AGED. -/
structure HitEnd where
  at_ : Nat
  trail : Option (Nat × Nat)
  aged : Bool

/-- The BP in which a hit ends. -/
def HitEnd.bp (e : HitEnd) : Nat := e.at_ / 1024

/-- The time over threshold of a hit with a leading instant in bins (R271). -/
def HitEnd.tot (e : HitEnd) (start : Nat) : Nat := totOf (e.at_ - start)

/-- The instant of a tag and a fine time in bins. -/
def Tag.bins (t : Tag) (fine : Nat) : Nat := t.bp * 1024 + fine

/-- A hit is completed: it enters the queue, or merges into the newest hit when the queue holds 8 (R273, R274, R275, R317).
DEDUCED (log 70). -/
def completeHit (c : Nat) (e : HitEnd) (h : OpenHit) (s : State) : State :=
  let x := { s.slice c with openHit := none }
  let s := if h.again then s else (F.TDC_HSTAT0_HITS c).count 1 s
  match x.queue.getLast?, decide (x.queue.length < 8) with
  | some n, false =>
    let n' := { n with tot := e.tot (n.tag.bins n.fine), double := true, aged := n.aged || h.aged || e.aged, trail := e.trail,
                       doneBp := e.bp }
    countMerge c { n with tag := h.tag } h.live (s.setSlice c { x with queue := x.queue.dropLast ++ [n'] })
  | _, _ =>
    let n : Hit := { tag := h.tag, fine := h.fine, tot := e.tot (h.tag.bins h.fine), double := h.double, aged := h.aged || e.aged,
                     live := h.live, doneBp := e.bp, leadTo := h.leadTo, trail := e.trail }
    let s := s.setSlice c { x with queue := x.queue ++ [n] }
    if h.live && !h.again then modAcc c h.tag.orbit (fun a => { a with hits := a.hits + 1 }) s else s

/-- An edge marks the S record of its orbit AGED (R267). -/
def markAged (c : Nat) (s : State) : State :=
  if s.aged c && s.mode == .stream then modAcc c s.orbit (fun a => { a with aged := true }) s else s

/-- A group's block is quiescing or in reset, and stopped sampling at a BP. -/
def State.stoppedAt (s : State) (g bp : Nat) : Bool := s.restarts.any fun r => r.block == g && Nat.ble r.stopBp bp

/-- The time-out of a hit: the instant 1020 bins after its leading edge (R271). -/
def OpenHit.limit (h : OpenHit) : Nat := h.tag.bins h.fine + 1020

/-- A hit is completed by its time-out: its later trailing edge produces nothing (R271). -/
def timeOutHit (c : Nat) (h : OpenHit) (s : State) : State :=
  completeHit c ⟨h.limit, none, false⟩ h (s.modSlice c fun x => { x with timedOut := true })

/-- A leading edge that the TDC times (R267 to R271): it merges into the newest hit when it follows that hit's trailing edge by
less than 2.0 ns, or opens a hit. -/
def openHitAt (c fine end_ : Nat) (near : Bool) (s : State) : State :=
  let s := markAged c s
  let x := s.slice c
  let x := { x with leads := (s.bp, fine) :: x.leads.filter (fun l => Nat.ble s.bp (l.1 + 64)), ledAt := some (s.tag.bins fine) }
  match x.queue.getLast?, near, x.timedOut with
  | some n, true, false =>
    let h : OpenHit := { tag := n.tag, fine := n.fine, double := true, aged := n.aged || s.aged c, leadTo := n.leadTo,
                         live := n.live, again := true }
    countMerge c n n.live (s.setSlice c { x with openHit := some h, queue := x.queue.dropLast })
  | _, _, timed =>
    let h : OpenHit := { tag := s.tag, fine := fine, double := near && timed, aged := s.aged c, leadTo := end_,
                         live := s.mode == .stream && s.enabled c }
    s.setSlice c { x with openHit := some h, timedOut := false }

/-- A leading edge at a fine time of this BP, its interval ending in the BP `end_` (R204, R207, R268 to R271, R434); a group in
restart times none (R85). DESIGN CHOICE (log 19). -/
def leadingEdge (c fine end_ : Nat) (near : Bool) (s : State) : State :=
  let s := withOr (c / 64) (s.tag.bins fine) (fun s => s.modSlice c fun x => { x with high := true }) s
  let s := (F.AFE_DSTAT0_EDGES c).count 1 s
  if s.stoppedAt (c / 16) s.bp then s
  else openHitAt c fine end_ near { s with edges := s.edges ||| BitVec.ofNat 16 (2 ^ (c / 16)) }

/-- A trailing edge that the TDC times (R271, R272). -/
def closeHitAt (c fine end_ : Nat) (s : State) : State :=
  let s := (markAged c s).modSlice c fun x => { x with trailedAt := some (s.tag.bins fine) }
  let x := s.slice c
  match x.timedOut, x.openHit with
  | true, _ => s
  | false, none => (F.TDC_HSTAT1_ORPHAN c).count 1 s
  | false, some h =>
    if h.limit < s.tag.bins fine then timeOutHit c h s
    else completeHit c ⟨s.tag.bins fine, some (s.bp, end_), s.aged c⟩ h s

/-- A trailing edge at a fine time of this BP, its interval ending in the BP `end_` (R204, R271, R272). -/
def trailingEdge (c fine end_ : Nat) (s : State) : State :=
  let s := withOr (c / 64) (s.tag.bins fine) (fun s => s.modSlice c fun x => { x with high := false }) s
  if s.stoppedAt (c / 16) s.bp then s else closeHitAt c fine end_ s

/-- The discriminator goes inactive: an output that is high falls, at the start of this BP where `start` says so, and else at an
open instant of this core cycle (R204, R245). DESIGN CHOICE (log 19). -/
def goInactive (start : Bool) (c : Nat) (s : State) : State :=
  if (s.slice c).high then
    let fine := if start then 0 else s.cyc * 128 + (s.freeNow 0).toNat % 128
    trailingEdge c fine (s.intervalTo (cycleOf fine)) (if start then s else s.drew 1)
  else s

/-- The discriminators of every slice that is no longer active fall. -/
def settleDiscs (start : Bool) (s : State) : State :=
  overList ((s.slices.filter fun e => e.2.high && !s.discActive e.1).map Prod.fst) (goInactive start) s

/-! ### Quarantine -/

/-- A slice is quarantined with a cause; a quarantine that holds keeps its first cause (R212 to R214, R523, Table 19-3).
DEDUCED (log 42). -/
def quarantine (c cause : Nat) (s : State) : State :=
  if s.quar c then s
  else
    let s := (F.AFE_STAT_QUAR c).wr 1 ((F.AFE_STAT_QCAUSE c).wr cause s)
    let s := (F.AFE_QCNT_COUNT c).count 1 s
    let s := s.modSlice c fun x => { x with acc := { x.acc with bad := true } }
    let s := goInactive false c s
    let s := if cause = 1 then s else raiseFlag F.ERR_STICKY_QUAR.addr 2 s
    eventReport 8 c cause s

/-- A unit returns: its bit in `RST.STALE` is set, and its refresh steps begin anew (R90). -/
def returned (n : Nat) (s : State) : State := { s.setStale n true with refresh := sput (fun _ => 0) n 0 s.refresh }

/-- A unit whose refresh steps are many has had one of them since its return: an entry has converted, a lamp has been diagnosed
(Table 3-8). -/
def refreshed (n k : Nat) (s : State) : State :=
  if s.staleBlock n then { s with refresh := sput (fun _ => 0) n (Nat.lor (sget (fun _ => 0) s.refresh n) (2 ^ k)) s.refresh } else s

/-- A quarantine ends: QCAUSE clears, and the slice's group is stale (R215, R90). -/
def endQuarantine (c : Nat) (s : State) : State :=
  if s.quar c then
    eventReport 9 c 0 (returned (c / 16) ((F.AFE_STAT_QUAR c).wr 0 ((F.AFE_STAT_QCAUSE c).wr 0 s)))
  else s

end Sys2Proof.Machine
end

