-- ==== Sys2Proof/Machine/Power.lean ====
section
/-!
DEFINITION. Sys2Proof/Machine/Power.lean: the function groups and their power states (R108 to R115), the service of the data
lanes (R390), the filter chains' input (R280), and the mode transitions (R93 to R101).
-/
namespace Sys2Proof.Machine

/-! ### Lanes -/

/-- The lane group of a data port. -/
def lgOf (p : Nat) : Nat := (p - 2) / 4

/-- The place of a data port in the masks of its lane group (R403). -/
def laneBit (p : Nat) : Nat := (p - 2) % 4

/-- A data port. -/
def isData (p : Nat) : Bool := Nat.ble 2 p && Nat.ble p 17

/-- The side of a lane group (Table 1-5). -/
def lgSide (g : Nat) : Side := if g < 2 then .k else .q

/-- The ports of a lane group, or the trigger ports for group 4 of Table 4-4. -/
def groupPorts (n : Nat) : List Nat := if n < 4 then (List.range 4).map fun i => 2 + 4 * n + i else [18, 19, 20, 21]

/-- A test loop of the port acts: in TEST only, and on a control port the far-end loop only (R399). -/
def State.loopOn (s : State) (p : Nat) : Bool :=
  s.mode == .test && (let l := F.LNK_PCFG_LOOP p |>.rd s; if p < 2 then l == 3 else l == 1 || l == 2 || l == 3)

/-- A data lane is a member of its bond, or has not failed in the single-lane configuration. -/
def State.laneMember (s : State) (p : Nat) : Bool :=
  if (F.LNK_LGSTAT_SINGLE (lgOf p)).is s then !(F.LNK_PSTAT_FAILED p).is s
  else natBit ((F.LNK_LGSTAT_MEMBERS (lgOf p)).rd s) (laneBit p)

/-- What a data lane remembers beside its registers. -/
def State.lane (s : State) (p : Nat) : LaneSt := sget (fun _ => {}) s.lanes p

/-- Give a data lane a value. -/
def State.setLane (p : Nat) (l : LaneSt) (s : State) : State := { s with lanes := sput (fun _ => {}) p l s.lanes }

/-- A data lane is in service (R390). -/
def State.inService (s : State) (p : Nat) : Bool :=
  isData p && s.hasPort p && (F.LNK_PCFG_EN p).is s && s.laneMember p && !s.loopOn p &&
    ((F.LNK_PSTAT_LOCKED p).is s || (s.lane p).sleepOk)

/-- The stored equaliser set of a port takes the coefficients in use (R396). -/
def saveEq (p : Nat) (s : State) : State :=
  if (F.LNK_EYE_VALID p).is s then
    s.setWord (F.LNK_EQSAVE_SVALID p).addr (BitVec.ofNat 32 (2 ^ 31 + (s.word (F.LNK_EQ_CTLE p).addr).toNat % 2 ^ 28))
  else s

/-- Adaptation restarts: the eye figures are invalid, and the coefficients start from the stored set or from defaults
(R395, R396). -/
def restartEq (p : Nat) (s : State) : State :=
  let s := (F.LNK_EYE_VALID p).wr 0 s
  s.setWord (F.LNK_EQ_CTLE p).addr
    (if (F.LNK_EQSAVE_SVALID p).is s then BitVec.ofNat 32 ((F.LNK_EQSAVE_COEF p).rd s)
     else wordReset (F.LNK_EQ_CTLE p).addr)

/-! ### Function groups -/

/-- A function group of Table 4-4 exists on the part, and its side is not disabled (R420). -/
def State.hasFn (s : State) (n : Nat) : Bool :=
  if n < 4 then s.hasLg n && !(s.rating (lgSide n) == 0) else if n = 4 then true else if n < 9 then s.hasQuad (n - 5)
  else if n = 9 then true else if n = 10 then s.hasLed else false

/-- The exit latency from IDLE, in ns (Table 4-4). -/
def exitIdle (n : Nat) : Nat :=
  if n < 5 then 40 else if n < 9 then 2000 else if n = 9 then 50000 else 1000

/-- The exit latency from DEEP, in ns (Table 4-4). -/
def exitDeep (n : Nat) : Nat :=
  if n < 5 then 60000 else if n < 9 then 400000 else if n = 9 then 5000000 else 20000

/-- The cost of a wake in EU (Table 5-4). DEDUCED (log 40). -/
def wakeCost (n : Nat) (deep : Bool) : Nat :=
  if n < 4 then (if deep then 1700 else 2) else if n = 4 then (if deep then 850 else 2)
  else if n < 9 then (if deep then 43000 else 215) else 0

/-- The deepest state that the latency tolerance of a group allows (R111). -/
def State.byTolerance (s : State) (n : Nat) : PState :=
  let t := (F.PWR_LTOL_NS n).rd s
  if exitDeep n ≤ t then .deep else if exitIdle n ≤ t then .idle else .active

/-- A quadrant holds an enabled channel. -/
def State.holdsEnabled (s : State) (q : Nat) : Bool := (List.range 64).any fun i => s.enabled (64 * q + i)

/-- The mode, or the entry it is in, acquires. -/
def State.acquires (s : State) : Bool :=
  s.mode == .stream || s.mode == .capture ||
    (s.mode == .idle && (s.target == some .stream || s.target == some .capture))

/-- The `CONV` of a quadrant (R181). -/
def State.quadConv (s : State) (q : Nat) : Option QuadRun := sget (fun _ => none) s.quadRun q

/-- Give a quadrant a `CONV`, or none. -/
def setQuadConv (q : Nat) (r : Option QuadRun) (s : State) : State := { s with quadRun := sput (fun _ => none) q r s.quadRun }

/-- A `CONV` waits or runs. -/
def State.convRuns (s : State) (q : Nat) : Bool := match s.quadConv q with | some r => !r.ended | none => false

/-- A quadrant works: a `CONV`, a calibration, or acquisition of an enabled channel. -/
def State.quadWorks (s : State) (q : Nat) : Bool :=
  s.convRuns q || s.adcCal ||
    (match s.gap.lane with | .adc c _ => c / 64 == q | _ => false) || (s.acquires && s.holdsEnabled q)

/-- A packet that a side's framer may send: complete, or running in a job, and not yet sent by the side (R342, R344). -/
def State.workFor (s : State) (side : Side) : Bool := s.packets.any fun p => p.st == .complete && !(p.sent.get side)

/-- An exit from DOZE or DEEP waits for the groups that the mode holds: they have work (Table 4-2). -/
def State.leavesHold (s : State) : Bool := (s.mode == .doze || s.mode == .deep) && s.target == some .idle

/-- A function group is idle (Table 4-4); the trigger ports have work from the acceptance of an entry into STREAM on (R99). -/
def State.fnIdle (s : State) (n : Nat) : Bool :=
  if n < 9 ∧ s.leavesHold = true then false
  else if n < 4 then
    !(s.workFor (lgSide n)) && !(s.sends.any fun x => isData x.port && lgOf x.port == n)
  else if n = 4 then !(s.mode == .stream || (s.mode == .idle && s.target == some .stream))
  else if n < 9 then !(s.quadWorks (n - 5))
  else if n = 9 then
    !s.mon.seqOn && s.mon.cur.isNone && s.mon.inj.isNone && !s.mon.injPend && s.mon.extra.isEmpty && s.mon.cal.isNone
  else s.led.slots.isEmpty && s.led.dues.isEmpty && s.led.cols.isEmpty && s.led.diag.isNone && !F.LED_DSTAT_DUE.is s

/-- What a mode asks of a group (Table 4-5). -/
inductive FnRule where
  | active | floorIdle | tolerance | heldIdle | heldDeep
  deriving DecidableEq, Repr

/-- Table 4-5. -/
def State.fnRule (s : State) (n : Nat) : FnRule :=
  if 9 ≤ n then .tolerance
  else match s.mode with
    | .doze => .heldIdle
    | .deep => .heldDeep
    | .stream =>
      if n = 4 then .active else if n < 4 then .tolerance
      else if s.holdsEnabled (n - 5) then .active else .tolerance
    | .capture => if n < 5 then .tolerance else if s.holdsEnabled (n - 5) then .active else .tolerance
    | .test => if n < 5 ∧ (groupPorts n).any s.loopOn = true then .active else .tolerance
    | _ => if n < 5 then .tolerance else .floorIdle

/-- The state a group takes when it is idle (R110, R111). -/
def State.restState (s : State) (n : Nat) : PState :=
  match s.fnRule n with
  | .active => .active
  | .heldIdle => .idle
  | .heldDeep => .deep
  | .tolerance => s.byTolerance n
  | .floorIdle => if s.byTolerance n = .deep then .deep else .idle

/-! ### The filter chain's input and the TDC after a return -/

/-- The input of a channel's chain stops with the samples of a BP: those of before, which are still on their way, find the chain as
it was (R280). -/
def chainStop (bp c : Nat) (s : State) : State :=
  s.modSlice c fun x =>
    if x.entered = 0 ∧ x.conv = [] ∨ x.stops.contains bp = true then x
    else { x with stops := (x.stops ++ [bp]).drop (x.stops.length - 7) }

/-- The chain of a channel is clear: delay lines, decimation block and detector state (R280). -/
def Slice.chainClear (x : Slice) : Slice :=
  { x with blk := [], entered := 0, since := 0, stops := [], blank := true, above := false }

/-- The channels of a quadrant. -/
def quadChans (q : Nat) : List Nat := (List.range 64).map fun i => 64 * q + i

/-- The channels of a group. -/
def groupChans (g : Nat) : List Nat := (List.range 16).map fun i => 16 * g + i

/-- A group's slices lose FRESH, and the pending results of a TDC run accepted before are dropped for them (R268). -/
def tdcReturn (g : Nat) (s : State) : State :=
  let s := overList (groupChans g) (fun c => (F.TDC_STAT_FRESH c).wr 0) s
  let drop := fun (r : TdcRun) => { r with groups := r.groups &&& ~~~(BitVec.ofNat 16 (2 ^ g)) }
  { s with gap := { s.gap with tdcAccepted := s.gap.tdcAccepted.map drop } }

/-- A quadrant leaves a TDC run that is in progress: its results are dropped and its roles move no further (R263). -/
def tdcLeave (q : Nat) (s : State) : State :=
  let leave := fun (r : TdcRun) =>
    if r.ended ∨ r.start + 48 ≤ s.bp then r
    else { r with quads := r.quads &&& ~~~(BitVec.ofNat 4 (2 ^ q))
                  groups := r.groups &&& ~~~(BitVec.ofNat 16 (15 * 2 ^ (4 * q))) }
  { s with gap := { s.gap with tdc := s.gap.tdc.map leave } }

/-- Every comparator of the monitor restarts IN, and every block is partial until its next `TAKE` (R500). -/
def monReturn (s : State) : State :=
  overList (List.range 40) (fun e s => (F.MON_ACC0_PART e).wr 1 ((F.MON_CMP_OUT e).wr 0 s)) s

/-- Every lamp's status is UNKNOWN (R516). -/
def lampsUnknown (s : State) : State :=
  { overList (List.range 8) (fun j => (F.LED_STATUS_STATUS j).wr 0) s with led := { s.led with goodAge := [] } }

/-- A group leaves DEEP: it is a returning unit (R90, R115, Table 3-8). -/
def fnReturned (n : Nat) (s : State) : State :=
  if n < 4 then overList (groupPorts n) restartEq (returned (16 + n) s)
  else if n = 4 then overList (groupPorts n) restartEq s
  else if n < 9 then
    overList ((List.range 4).map fun i => 4 * (n - 5) + i) (fun g s => tdcReturn g (returned g s)) s
  else if n = 9 then monReturn (returned 23 s)
  else lampsUnknown (returned 24 s)

/-- The transmitter of a port puts nothing on its line: it is off or in electrical idle (R398). -/
def darken (p : Nat) (s : State) : State := { s with portOut := sput (fun _ => none) p none s.portOut }

/-- A group takes a state at once; leaving ACTIVE stops a quadrant's chains, and lanes keep their service while their transmitters
go into electrical idle (R280, R390, R396, R398). -/
def takeState (n : Nat) (t : PState) (s : State) : State :=
  let g := s.group n
  let s :=
    if n < 5 then
      let s := if t = .active then
          overList (groupPorts n) (fun p s => s.setLane p { s.lane p with sleepOk := false }) s
        else if g.st = .active then
          overList (groupPorts n) (fun p s => darken p (s.setLane p { s.lane p with sleepOk := s.inService p })) s
        else s
      if t = .deep ∧ g.st ≠ .deep then
        overList (groupPorts n) (fun p s => (F.LNK_PSTAT_LOCKED p).wr 0 ((F.LNK_PSTAT_CDR p).wr 0 (saveEq p s))) s
      else s
    else if n < 9 ∧ g.st = .active ∧ t ≠ .active then overList ((quadChans (n - 5)).filter s.enabled) (chainStop (s.bp + 1)) s
    else s
  let s := s.setGroup n { s.group n with st := t, exit := none }
  if 5 ≤ n ∧ n < 9 then settleDiscs false (if t = .deep then tdcLeave (n - 5) s else s) else s

/-- A lane group begins its exit from DEEP: its lanes count no failures for 250 µs (R391, Table 13-7). -/
def restLanes (n : Nat) (s : State) : State :=
  if n < 4 ∧ (s.group n).st = .deep then
    overList (groupPorts n) (fun p s => s.setLane p { s.lane p with freshBp := s.bp }) s
  else s

/-- A group starts its exit to a state, unless it is there or on its way (R111). -/
def startExit (n : Nat) (t : PState) (s : State) : State :=
  let g := s.group n
  if s.hasFn n && !(g.st == t) then (restLanes n s).setGroup n { g with exit := some t } else s

/-- Work arrives for a group: it starts its exit; the wake of a lane group, a trigger port or a quadrant is charged as debt, and
a lane group asks no more for a wake of class M alone (R111, R138, R139, Table 5-4). DEDUCED (log 40). -/
def wakeFn (n : Nat) (s : State) : State :=
  let g := s.group n
  if !(s.hasFn n) || g.st == .active || g.exit == some .active then s
  else
    let s := if n < 4 then { s with hwreqs := s.hwreqs.filter fun r => !(r.work == .lwake n) } else s
    let s := if g.st = .idle then chargeExempt (wakeCost n false) s
      else if g.st = .deep then chargeExempt (wakeCost n true) s else s
    (restLanes n s).setGroup n { g with exit := some .active }

/-- A group moves to a deeper or a shallower state as its rule asks: deeper at once, shallower by an exit. -/
def moveTo (n : Nat) (t : PState) (s : State) : State :=
  let g := s.group n
  if g.st.code < t.code && !(g.st == .off) then takeState n t s
  else if g.st = t then s.setGroup n { g with exit := none }
  else if g.st = .off ∧ t = .deep then takeState n t s
  else startExit n t s

/-- Every group leaves OFF (R109); with `ports` the lane groups and trigger ports were powered up in SETTLE and read their
state at once. DEDUCED (log 40). -/
def leaveOff (ports : Bool) (s : State) : State :=
  overList (List.range 11) (fun n s =>
    if !(s.hasFn n) || !((s.group n).st == .off) then s
    else
      let t := s.restState n
      if t = .deep ∨ (ports = true ∧ n < 5) then s.setGroup n ⟨t, none, s.bp⟩
      else s.setGroup n ⟨.off, some t, s.bp⟩) s

/-- Every group is OFF, and with the stages every discriminator is low (R109, R204). -/
def allOff (s : State) : State :=
  { overList (List.range 4) tdcLeave s with
    groups := [], quadRun := [], slices := smap (fun _ => {}) (fun x => { x with high := false, openHit := none }) s.slices }

/-! ### Mode transitions -/

/-- Quadrants that hold an enabled channel, as function groups. -/
def State.neededQuads (s : State) : List Nat := (below 4 fun q => s.hasQuad q && s.holdsEnabled q).map (· + 5)

/-- Groups all read ACTIVE. -/
def State.allActive (s : State) (l : List Nat) : Bool := l.all fun n => (s.group n).st == .active

/-- A cancellation is flagged and reported: the target, and the mode that it was asked in (R96). -/
def cancelReport (target mode : Mode) (s : State) : State :=
  hubRecord 4 [BitVec.ofNat 32 (target.code * 16 + mode.code)] (raiseFlag 0x40D 2 s)

/-- A requested transition is cancelled (R96). -/
def cancelPending (s : State) : State :=
  match s.target with
  | none => s
  | some t => cancelReport t s.mode { s with target := none }

/-- The chains of a part stop on a mode change (R280). -/
def chainsStop (s : State) : State := overList (s.chans.filter s.enabled) (chainStop s.bp) s

/-- The lane groups and the trigger ports that stand in a test loop become ACTIVE (Table 4-5). The wake is in no row of Table
5-4, and costs nothing. DEDUCED (log 40). -/
def wakeLoops (s : State) : State :=
  overList ((List.range 5).filter fun n => (groupPorts n).any s.loopOn) (fun n => startExit n .active) s

/-- The hub enters a mode in which squares run: the pending transition is done, and the groups follow Table 4-5.
DEDUCED (log 39). -/
def enterMode (m : Mode) (s : State) : State :=
  let s := chainsStop { s with mode := m, target := none, testEnd := false }
  match m with
  | .doze => overList ((List.range 9).filter s.hasFn) (fun n => moveTo n .idle) s
  | .deep => overList ((List.range 9).filter s.hasFn) (fun n => moveTo n .deep) s
  | .test => wakeLoops s
  | _ => s

/-- The groups that are not idle at a BP boundary: their 64 BP of idleness count from here (R111). -/
def noteIdle (s : State) : State :=
  overList ((List.range 11).filter fun n => s.hasFn n && !(s.fnIdle n) && !((s.group n).since == s.bp))
    (fun n s => s.setGroup n { s.group n with since := s.bp }) s

end Sys2Proof.Machine
end

