-- ==== Sys2Proof/Machine/Lines.lean ====
section
/-!
DEFINITION. Sys2Proof/Machine/Lines.lean: what the transmitters send, and when (R372 to R374, R382 to R388, R397 to R400): frames,
the characters of a bond, the words of a single lane, markers, idle, the exits from the low-power states, loops and patterns.
-/
namespace Sys2Proof.Machine

/-! ### Transmitters -/

/-- A transmitter puts bits on its line. DESIGN CHOICE (log 15). -/
def putLine (p : Nat) (l : Line) (s : State) : State := { s with portOut := sput (fun _ => none) p (some l) s.portOut }

/-- What the transmitter of a port has put on its line last. -/
def State.lineOf (s : State) (p : Nat) : Option Line := sget (fun _ => none) s.portOut p

/-- The same at the pins: TXINV inverts the pair (Table 13-9). DESIGN CHOICE (log 15). -/
def State.pairOf (s : State) (p : Nat) : Option Line :=
  if (F.LNK_PCFG_TXINV p).is s then (s.lineOf p).map Line.inverted else s.lineOf p

/-- A port sends a frame (R374). -/
def sendFrame (p f content : Nat) (s : State) : State := putLine p (lineFrame f content (s.lineOf p)) s

/-- The far-end loop of a port acts: its transmitter sends what its receiver takes in (R399). -/
def State.farLoop (s : State) (p : Nat) : Bool := s.loopOn p && (F.LNK_PCFG_LOOP p).rd s == 3

/-- A near-end loop of a port acts: its receiver takes in what its transmitter sends (R399). -/
def State.nearLoop (s : State) (p : Nat) : Bool := s.loopOn p && !((F.LNK_PCFG_LOOP p).rd s == 3)

/-- The pattern generator of a port drives its line: in TEST, and no loop acts (R400). -/
def State.patternOn (s : State) (p : Nat) : Bool := s.mode == .test && (F.LNK_PCFG_PRBSGEN p).is s && !s.loopOn p

/-- The transmitter of a port runs: the core clock does, the port is present and enabled, its side is not disabled, and its group is
ACTIVE (R373, R397, R398, R402, R420). -/
def State.transmits (s : State) (p : Nat) : Bool :=
  s.coreOn && s.hasPort p && (Nat.blt p 2 || ((F.LNK_PCFG_EN p).is s && !(s.rating (portSide p) == 0))) &&
    (if isData p then (s.group (lgOf p)).st == .active
     else if Nat.ble 18 p && Nat.ble p 21 then (s.group 4).st == .active else true)

/-- The transmitter of a port sends its own stream: it runs, and neither a far-end loop nor a pattern takes its place (R399,
R400). -/
def State.sendsOwn (s : State) (p : Nat) : Bool := s.transmits p && !s.farLoop p && !s.patternOn p

/-! ### Bonds and single lanes -/

/-- The members of a bond in ascending port order (R382). -/
def State.members (s : State) (g : Nat) : List Nat :=
  (groupPorts g).filter fun p => natBit ((F.LNK_LGSTAT_MEMBERS g).rd s) (laneBit p)

/-- The configuration of a lane group in effect is single-lane. -/
def State.single (s : State) (g : Nat) : Bool := (F.LNK_LGSTAT_SINGLE g).is s

/-- The members of a bond put characters on their lines, position i of m those of `f m i`, behind `lead`. How many idle characters
went before is open, and with it the running disparity at the first one. PRESUMED (log 73). -/
def sendLanes (g : Nat) (lead : List Bool) (f : Nat → Nat → List Ch) (s : State) : State :=
  let l := s.members g
  let v := (s.freeNow 0).toNat
  (overList (List.range l.length) (fun i s =>
    match l[i]? with
    | some p =>
      let c := f l.length i
      if s.sendsOwn p && !c.isEmpty then putLine p (Line.ofBits (lead ++ codeGroups (natBit v (8 + i)) c)) s else s
    | none => s) s).drew 1

/-- A bond sends characters one behind another across its columns, the first one at an open position (R382).
PRESUMED (log 73). -/
def sendBond (g : Nat) (l : List Ch) (s : State) : State :=
  sendLanes g [] (fun m i => laneChars m ((s.freeNow 0).toNat % m) i l) s

/-- A single-lane port sends words. How many words went before is open, and with it the state of the scrambler and the run of equal
bits. PRESUMED (log 73). -/
def sendWords (p : Nat) (lead : List Bool) (l : List LaneWord) (s : State) : State :=
  let scr := ((s.freeNow 0).toNat * 2 ^ 32 + (s.freeNow 1).toNat) % 2 ^ 58
  let v := (s.freeNow 2).toNat
  if s.sendsOwn p then (putLine p (Line.ofBits (lead ++ wordsLine scr (natBit v 0) (1 + v / 2 % 23) l)) s).drew 3 else s

/-- The ports of a lane group that send on their own. -/
def State.loners (s : State) (g : Nat) : List Nat := (groupPorts g).filter s.sendsOwn

/-- A marker is sent at a place in this BP. -/
def noteMarker (p : Nat) (s : State) : State := s.setLane p { s.lane p with markBp := s.bp }

/-- A lane-alignment marker on every member of a bond, behind K30.7 where it ends a packet (R384, R392). -/
def sendMarkers (g : Nat) (ends : Bool) (s : State) : State :=
  let epoch := (F.LNK_LGSTAT_EPOCH g).rd s
  noteMarker (2 + 4 * g) (sendLanes g [] (fun m i => (if ends then [Ch.k307] else []) ++ markerChars m i epoch) s)

/-- The ABORT marker of a packet in progress at a place, in place of its next byte or word (R383, R430). -/
def sendAbort (p : Nat) (s : State) : State :=
  if s.single (lgOf p) then sendWords p [] [abortWord] s else sendBond (lgOf p) [.k307] s

/-- The transmitters of a lane group send idle behind `lead`: n characters on each member of a bond, or m words on each port (R397,
R398). -/
def sendIdle (g : Nat) (lead : List Bool) (n m : Nat) (s : State) : State :=
  if s.single g then overList (s.loners g) (fun p => sendWords p lead (List.replicate m idleWord)) s
  else sendLanes g lead (fun _ _ => List.replicate n .k285) s

/-- The transmitters of a lane group or of the trigger ports start: out of IDLE with the training burst and 16 idle characters or 2
idle words, else with idle (R397, R398, Tables 13-6 and 13-7). -/
def startLines (n : Nat) (sleeping : Bool) (s : State) : State :=
  if n < 4 then (if sleeping then sendIdle n burst 16 2 s else sendIdle n [] 1 1 s)
  else if sleeping then overList ((groupPorts 4).filter s.sendsOwn) (fun p => putLine p (Line.ofBits burst)) s
  else s

/-- Every transmitter of the data ports starts when the core clock is released (R397); the failure counts of the lanes begin 250 µs
later (R391). DESIGN CHOICE (log 76). -/
def startPorts (s : State) : State :=
  let s := overList ((List.range 16).map fun i => i + 2) (fun p s => noteMarker p (s.setLane p { s.lane p with freshBp := s.bp })) s
  overList (below 4 s.hasLg) (fun g => startLines g false) s

/-! ### Test patterns -/

/-- The line bits of a port in one BP (Table 13-1). -/
def portBits (p : Nat) : Nat := if isData p then 256 else if Nat.ble 18 p && Nat.ble p 21 then 128 else 64

/-- A pattern generator puts a BP of its sequence on its line; where it starts is open (R400). DESIGN CHOICE (log 76). -/
def sendPattern (p : Nat) (s : State) : State :=
  let r := (s.lane p).prbs
  let seed := if r = 0 then 1 + (s.freeNow 0).toNat % (2 ^ 31 - 1) else r
  let t := pattern (portBits p) seed
  putLine p (Line.ofBits t.1) ((s.drew 1).setLane p { s.lane p with prbs := t.2 })

/-- The pattern checker of a port compares a BP of what it receives: how many bits are in error is the far end's, and a free value
stands for it (R400). DESIGN CHOICE (log 76). -/
def checkPattern (p : Nat) (s : State) : State :=
  let n := (s.freeNow 0).toNat % (portBits p + 1)
  let s := s.drew 1
  if n = 0 then s else raiseFirst (F.LNK_STICKY_PRBSERR p).addr 3 ((F.LNK_PRBSCNT_BITS p).count n s)

/-- The part of a BP boundary: generators and checkers in TEST (R400). -/
def testPatterns (s : State) : State :=
  if s.mode = .test then
    let s := overList (below 24 fun p => s.transmits p && s.patternOn p) sendPattern s
    overList (below 24 fun p => s.transmits p && (F.LNK_PCFG_PRBSCHK p).is s) checkPattern s
  else s

end Sys2Proof.Machine
end

