-- ==== Sys2Proof/Machine/Sides.lean ====
section
/-!
DEFINITION. Sys2Proof/Machine/Sides.lean: the two sides (chapter 14): responses and their mirrors, the command-ID window,
health, live claims, returns and snapshots, how the PLL reference follows the claims (R38, R42, R47), and the frames of the
control and partner ports.
-/
namespace Sys2Proof.Machine

/-! ### Responses and the window -/

/-- A side's control transmitter takes responses: a disabled side sends status and snapshots only (R420). -/
def State.answers (s : State) (side : Side) : Bool := !(s.rating side == 0)

/-- A response to the side that sent the command; own responses are never dropped (R417, R418). -/
def respond (side : Side) (r : Resp) (s : State) : State :=
  if s.answers side then { s with sid := { s.sid with own := s.sid.own.set side (s.sid.own.get side ++ [r]) } } else s

/-- A mirror response: a full queue of 64 displaces its oldest (R418, R419). -/
def mirror (side : Side) (r : Resp) (s : State) : State :=
  if s.answers side then
    let q := s.sid.mirror.get side
    let put := fun l (s : State) => { s with sid := { s.sid with mirror := s.sid.mirror.set side l } }
    if q.length < 64 then put (q ++ [r]) s else raiseFlag 0x1004 4 (put (q.tail ++ [r]) s)
  else s

/-- A command's outcome enters the window of the last 256 commands executed; ID 0 never does (R412, R413). -/
def windowPut (e : WinEntry) (s : State) : State :=
  let s := F.SID_WIN_LASTID.wr e.id.toNat s
  if e.id = 0 then s
  else if s.sid.window.any fun x => x.id == e.id then
    { s with sid := { s.sid with window := s.sid.window.map fun x => if x.id = e.id then e else x } }
  else
    let l := s.sid.window ++ [e]
    { s with sid := { s.sid with window := l.drop (l.length - 256) } }

/-- Square a1 completes a command that was accepted: ACK, its mirror, and the window (R412, R417, R419). -/
def ackHost (side : Side) (id : BitVec 16) (gd : Word) (s : State) : State :=
  windowPut ⟨id, 0, side⟩ (mirror side.other (.ack id gd) (respond side (.ack id gd) s))

/-- Square a1 refuses a command: REFUSED, its mirror, and the window (R160, R417). -/
def refuseHost (side : Side) (id : BitVec 16) (op : Nat) (r : Reason) (test grp : Nat) (s : State) : State :=
  let resp := Resp.refused id (BitVec.ofNat 6 op) (BitVec.ofNat 3 r.code) (BitVec.ofNat 3 test) (BitVec.ofNat 4 grp)
  windowPut ⟨id, BitVec.ofNat 3 r.code, side⟩ (mirror side.other resp (respond side resp s))

/-! ### Claims -/

/-- The greatest live claim. -/
def State.topClaim (s : State) : Nat := Nat.max s.sid.live.k.toNat s.sid.live.q.toNat

/-- The controlling side: the higher live claim, K on a tie (R422). -/
def State.controlling (s : State) : Side := if s.sid.live.k.toNat < s.sid.live.q.toNat then .q else .k

/-- A side's live claim is not 0. -/
def State.claims (s : State) (side : Side) : Bool := !(s.sid.live.get side == 0)

/-- Exactly one side has a non-zero live claim (R107). -/
def State.oneLive (s : State) : Bool := s.claims .k != s.claims .q

/-- A side is healthy: locked, not held, and few enough of its last 1024 frames failed (R421, R526). -/
def State.healthyNow (s : State) (side : Side) : Bool :=
  s.clk.locked.get side && !(s.sid.held.get side) &&
    Nat.ble (((s.sid.frames.get side).filter fun b => b).length) (F.SID_CFG_BADMAX.rd s)

/-- Give a side a live claim. -/
def setLive (side : Side) (n : Nat) (s : State) : State :=
  { s with sid := { s.sid with live := s.sid.live.set side (BitVec.ofNat 4 n) } }

/-- Give a side a return. -/
def setRet (side : Side) (r : Option Ret) (s : State) : State :=
  { s with sid := { s.sid with ret := s.sid.ret.set side r } }

/-- The first BP of a holdover interval declared in this BP (R53). -/
def State.holdFirst (s : State) : Nat := s.bp - 5

/-- Packets and waiting records that already carry a sample or an edge of the 5 BP before the declaration of a stop take the
holdover flag (R53). -/
def flagHeld (s : State) : State :=
  { s with packets := s.packets.map fun p => if s.holdFirst < p.dataBp then { p with hold := true } else p
           waiting := s.waiting.map fun w => if s.holdFirst < w.dataBp then { w with hold := true } else w }

/-- The PLL enters holdover: its reference is gone, and a slew in progress freezes with it, which `SLEW` shows as 0 until the
next reference's slew (R42, R50, R53, R54). DEDUCED (log 51), DESIGN CHOICE (log 72). -/
def enterHoldover (s : State) : State :=
  if s.clk.holdover then s
  else
    let c := { s.clk with holdover := true, holdSince := s.holdFirst, holdBp := s.bp, ref := none, slew := false,
                          switchTo := none, count := none }
    let s := if s.coreOn then flagHeld s else s
    raiseFlag 0x302 0 { s with clk := c }

/-- The start step the reset controller shows (Table 3-10). -/
def setStep (n : Nat) (s : State) : State := F.RST_STATUS_STEP.wr n s

/-- The PLL is stopped: an episode of reach CHIP, up to the end of memory initialisation (Table 3-2, R78). -/
def State.pllOff (s : State) : Bool := s.mode == .fuseLoad || (s.mode == .hold && s.rst.reach == some .chip)

/-- SETTLE falls back to SEARCH: the PLL has lost its lock, or no side is live (Table 4-2). -/
def backToSearch (s : State) : State :=
  setStep 3 { s with mode := .search, clk := { s.clk with pllLock := false, count := none } }

/-- The PLL reference follows the claims (R38, R42, R44, R47, R51, Table 4-2). A reference whose claim is 0 gives way by a
switch where the other side is live and its own clock still runs, else by holdover. A PLL that has not locked yet takes the
side with the highest claim without a switch. DESIGN CHOICE (log 72). -/
def steer (s : State) : State :=
  if s.pllOff then s
  else
    let s := match s.clk.ref with
      | some r =>
        let other := !(s.controlling == r) || !(s.claims r)
        if !(s.claims r) && !(s.claims r.other) then enterHoldover s
        else if !other then { s with clk := { s.clk with switchTo := none } }
        else if !(s.clk.act.get r) then enterHoldover s
        else if s.clk.pllLock || s.coreOn then { s with clk := { s.clk with switchTo := some r.other } }
        else { s with clk := { s.clk with ref := some r.other, switchTo := none } }
      | none =>
        if s.coreOn || s.clk.holdover || s.topClaim == 0 then s
        else { s with clk := { s.clk with ref := some s.controlling } }
    if s.mode = .settle ∧ s.topClaim = 0 then backToSearch s else s

/-- A side returns while the other side is not live (R426). -/
def State.loneSide (s : State) (side : Side) : Bool :=
  s.coreOn && (s.sid.ret.get side).isSome && !(s.claims side) && !(s.claims side.other) && !(s.rating side == 0)

/-- A returning side takes its claim where the other side is not live (R426). -/
def loneReturn (side : Side) (s : State) : State :=
  match s.sid.ret.get side with
  | some r => if s.loneSide side then setRet side (if r.snapPend then some r else none) (setLive side (s.rating side) s) else s
  | none => s

/-- What a change of claims, of the reference or of the degraded condition brings: the change-of-claim record, the flags
and LINK (R107, R422, Table 5-3). -/
def afterClaims (before s : State) : State :=
  let degr := s.coreOn && s.oneLive
  let changed := !(s.sid.live == before.sid.live)
  let s := if changed && s.coreOn then
      hubRecord 5 [BitVec.ofNat 32 (s.sid.live.q.toNat * 16 + s.sid.live.k.toNat)] (raiseFlag 0x1004 1 s)
    else s
  let s := if degr && !before.degraded then raiseFlag 0x40D 1 s else s
  let s := { s with degraded := degr }
  if (s.coreOn || before.coreOn) && ((changed && s.coreOn) || !(s.clk.ref == before.clk.ref) || !(degr == before.degraded)) then
    raiseEv (.all .link) s
  else s

/-- An operation on sides or clocks with everything that follows from it. DESIGN CHOICE (log 71). -/
def settled (f : State → State) (s : State) : State :=
  afterClaims s (steer (f s))

/-- The part of a BP boundary: a lone returning side takes its claim (R426). -/
def loneTurn (s : State) : State :=
  if s.loneSide .k || s.loneSide .q then settled (fun s => loneReturn .q (loneReturn .k s)) s else s

/-! ### Snapshots -/

/-- A window entry as a snapshot frame carries it (Table 14-8). -/
def WinEntry.bits (e : WinEntry) : Nat := packBits [(16, e.id.toNat), (3, e.outcome.toNat), (1, e.side.code), (4, 0)]

/-- The entry frames of a snapshot, two entries to a frame. -/
def entryFrames (ret : Bool) : List WinEntry → List SnapFrame
  | [] => []
  | [a] => [⟨BitVec.ofNat 52 (packBits [(4, 9), (24, a.bits), (24, 0)]), false, ret⟩]
  | a :: b :: r => ⟨BitVec.ofNat 52 (packBits [(4, 9), (24, a.bits), (24, b.bits)]), false, ret⟩ :: entryFrames ret r

/-- The frames of a catch-up snapshot (R427, Table 14-8). -/
def State.snapshot (s : State) (ret : Bool) : List SnapFrame :=
  ⟨BitVec.ofNat 52 (packBits [(4, 8), (4, s.mode.code), (4, s.sid.live.k.toNat), (4, s.sid.live.q.toNat), (4, s.rating .k),
    (4, s.rating .q), (8, F.SID_CFG_HOLDOFF.rd s), (9, s.sid.window.length), (11, 0)]), false, ret⟩ ::
  (entryFrames ret s.sid.window ++ [⟨BitVec.ofNat 52 (packBits [(4, 10), (32, s.orbit.toNat), (16, 0)]), true, ret⟩])

/-- A snapshot is due on a side. -/
def queueSnapshot (side : Side) (ret : Bool) (s : State) : State :=
  { s with sid := { s.sid with snap := s.sid.snap.set side (s.sid.snap.get side ++ s.snapshot ret) } }

/-- The health of a side is judged anew: before the release a healthy side has its claim; while the core clock runs a side
that becomes healthy returns and one that stops being healthy loses its claim and its return (R421, R422, R425, R426).
DEDUCED (log 66). -/
def judgeHealth (side : Side) (s : State) : State :=
  let h := s.healthyNow side
  let was := s.sid.healthy.get side
  let s := { s with sid := { s.sid with healthy := s.sid.healthy.set side h } }
  if s.coreOn then
    if h && !was then setRet side (some ⟨true, 0⟩) (queueSnapshot side true s)
    else if was && !h then
      let s := setRet side none (setLive side 0 s)
      { s with sid := { s.sid with snap := s.sid.snap.set side ((s.sid.snap.get side).filter fun f => !f.ofReturn) } }
    else s
  else setLive side (if h then s.rating side else 0) s

/-- Claims are recomputed from health, without a return (R437). -/
def recomputeClaims (s : State) : State :=
  let s := setRet .k none (setRet .q none s)
  let f := fun side s => setLive side (if (State.sid s).healthy.get side then s.rating side else 0) s
  f .k (f .q s)

/-! ### Frames -/

/-- The 52-bit payload of a response (Table 14-6); `mir` marks a mirror response. -/
def Resp.payload (mir : Bool) : Resp → Nat
  | .ack id gd => packBits [(4, if mir then 5 else 1), (16, id.toNat), (32, gd.toNat)]
  | .refused id op reason test grp =>
    packBits [(4, if mir then 6 else 2), (16, id.toNat), (6, op.toNat), (3, reason.toNat), (3, test.toNat), (4, grp.toNat),
      (16, 0)]
  | .dup id outcome side => packBits [(4, 3), (16, id.toNat), (3, outcome.toNat), (1, side.code), (28, 0)]
  | .qfull id => packBits [(4, 4), (16, id.toNat), (32, 0)]

/-- A side is returning (R425): its return runs and its claim is still 0. -/
def State.returning (s : State) (side : Side) : Bool := (s.sid.ret.get side).isSome && !(s.claims side)

/-- The status payload (Table 14-5). -/
def State.statusPayload (s : State) : Nat :=
  packBits [(4, s.mode.code), (4, s.sid.live.k.toNat), (4, s.sid.live.q.toNat), (1, s.controlling.code), (1, b2n s.degraded),
    (2, F.TIM_CTL_STATE.rd s), (1, b2n (s.returning .k)), (1, b2n (s.returning .q)), (13, s.bcid), (16, s.orbit.toNat), (5, 0)]

/-- Up to n bytes of a message from a place, padded with zeros, as a number. -/
def chunkBytes (n : Nat) (l : List Byte) : Nat := bytesNat ((l ++ List.replicate n 0).take n)

end Sys2Proof.Machine
end

