-- ==== Sys2Proof/Machine/Clock.lean ====
section
/-!
DEFINITION. Sys2Proof/Machine/Clock.lean: the clock controller and the health of the sides: what locks, losses, activity,
holdover, reference switches, SAFE and the release of the core clock do (chapter 2, R378, R421 to R426, R579, R580).
-/
namespace Sys2Proof.Machine

/-- A signed count of bins whose magnitude exceeds 256 (R48). -/
def wide (bins : Int) : Bool := decide (256 < bins) || decide (bins < -256)

/-- The measured phase of P1 relative to P0 becomes a free value of -512 to 511 when both ports are locked (R48).
DESIGN CHOICE (log 18). -/
def measurePhase (s : State) : State :=
  if s.clk.locked.k && s.clk.locked.q then
    State.drew 1 (F.CLK_PHDIFF_PHASE.wrInt (signedOf 10 (s.freeNow 0).toNat) s)
  else s

/-- A fixed-latency receiver declares lock: on a control port the side's health is judged (R378, R421, R425). -/
def execControlPortLock (side : Side) (s : State) : Host.Outcome State Fault Refusal :=
  .next (if s.clk.locked.get side || !(s.clk.act.get side) || s.rst.reach == some .chip && s.mode == .hold then s
    else settled (fun s =>
      let s := { s with clk := { s.clk with locked := s.clk.locked.set side true }
                        sid := { s.sid with frames := s.sid.frames.set side [] } }
      judgeHealth side (measurePhase s)) s)

/-- A control port is no longer locked (R37, R378). -/
def loseLock (side : Side) (s : State) : State :=
  let s := if s.clk.locked.get side then raiseFlag (F.LNK_STICKY_UNLOCK (ctlPort side)).addr 0 s else s
  judgeHealth side { s with clk := { s.clk with locked := s.clk.locked.set side false }
                            rst := { s.rst with stayed := s.rst.stayed.set side false } }

/-- A fixed-latency receiver declares loss of lock (R378). -/
def execControlPortLoss (side : Side) (s : State) : Host.Outcome State Fault Refusal :=
  .next (if s.clk.locked.get side then settled (loseLock side) s else s)

/-- The detector declares the port's clock stopped: the port is not locked, and a stopped reference puts the PLL in
holdover (R36, R37, R50). -/
def execActivityStop (side : Side) (s : State) : Host.Outcome State Fault Refusal :=
  .next (if s.clk.act.get side then
      settled (fun s =>
        let wasRef := s.clk.ref == some side
        let s := loseLock side { s with clk := { s.clk with act := s.clk.act.set side false } }
        if wasRef then enterHoldover s else s) s
    else s)

/-- The detector sees a transition again (R36). -/
def execActivityResume (side : Side) (s : State) : Host.Outcome State Fault Refusal :=
  .next { s with clk := { s.clk with act := s.clk.act.set side true } }

/-- The reference becomes a side: a settle count that runs or has stopped starts anew on its clock (R44, R47, R51). -/
def takeRef (side : Side) (slew : Bool) (s : State) : State :=
  { s with clk := { s.clk with ref := some side, switchTo := none, slew := slew,
                               count := if s.mode = .settle ∧ s.clk.pllLock = true then some side else none } }

/-- The length of the holdover interval that ends before this BP, in core cycles. Before the core clock is released the model
counts no BP, and the length is a free value (R53). DESIGN CHOICE (log 72). -/
def State.holdCycles (s : State) : Nat :=
  if s.coreOn then Nat.min (8 * (s.bp + 5 - s.clk.holdBp)) 0xFFFF else (s.freeNow 1).toNat % 65536

/-- After the hold-off of 2 BP a live side is connected, holdover ends, and its interval is recorded; the phase step is not
measured by the command and is a free value. The reference changes also where it is the side of before (R48, R51, R53).
DEDUCED (log 51), DESIGN CHOICE (log 72). -/
def execHoldoverHandover (s : State) : Host.Outcome State Fault Refusal :=
  .next (if s.clk.holdover && !(s.topClaim == 0) && (!s.coreOn || Nat.ble (s.clk.holdBp + 2) s.bp) then
      settled (fun s =>
        let step := signedOf 11 (s.freeNow 0).toNat
        let from_ := s.clk.holdSince
        let cycles := s.holdCycles
        let s := State.drew 2 (takeRef s.controlling true s)
        let c := { s.clk with holdover := false,
                              holds := if s.coreOn then s.clk.holds ++ [(from_, s.bp - 1)] else s.clk.holds }
        let s := F.CLK_LASTHOLD_CYCLES.wr cycles { s with clk := c }
        let s := raiseFlag 0x302 1 s
        if wide step then raiseFlag 0x302 2 s else s) s
    else s)

/-- A calibration that runs is abandoned by SAFE or HOLD, and a monitor's is as well; which ones is kept for the report
after a warm start (R97). -/
def abandonCals (s : State) : State :=
  let r := { s.rst with adcLost := s.rst.adcLost || s.adcCal || s.adcAsk, monLost := s.rst.monLost || s.mon.cal.isSome }
  { s with rst := r, adcCal := false, adcAsk := false, mon := { s.mon with cal := none, calStart := none } }

/-- The LED queue and the monitor's run are emptied by HOLD or SAFE (R513). -/
def dropPulses (s : State) : State :=
  { s with led := { s.led with slots := [], dues := [], cols := [], rowOn := false, blanking := false, diag := none } }

/-- The reach of the episode that goes on in SAFE: CORE at least (R74). -/
def State.safeReach (s : State) : Reach := match s.rst.reach with | some r => r.wider .core | none => .core

/-- `RST.CAUSE` on entry into SAFE: an episode that is on keeps its sources and has reach CORE at least; outside an episode the
wait begins one, which has no source yet (R73, R74, Table 3-9). DEDUCED (log 60). -/
def safeEpisode (s : State) : State :=
  let s := if s.rst.reach.isSome then s else s.setWord F.RST_CAUSE_REACH.addr 0
  F.RST_CAUSE_REACH.wr s.safeReach.code s

/-- The core clock stops and the hub enters SAFE (R52, R56, R58, R74, R96, R97, R109, R422, R528). The orbit has no ledger
trailer (R31, R59); `CLK.LASTHOLD` keeps its value where no reference ends the holdover (R53); the wait counts as a start
sequence that runs (R73, Table 3-10). DESIGN CHOICE (logs 15, 72), DEDUCED (log 60). -/
def enterSafe (s : State) : State :=
  let s := cancelPending s
  let s := safeEpisode (abandonCals (dropPulses (chainsStop s)))
  let s := { s with mode := .safe, restarts := [], portOut := [], ledgers := [], testEnd := false }
  let c := { s.clk with settled := false, holdover := false, slew := false, ref := none, pllLock := false, switchTo := none
                        count := none }
  let r := { s.rst with fromSafe := true, starting := true, pllKept := false, finish := false, chipDue := false, reach := some s.safeReach }
  let s := raiseFlag 0x302 4 (setStep 6 { s with clk := c, rst := r })
  let s := recomputeClaims (allOff s)
  { s with gap := { s.gap with inGap := false }, sid := { s.sid with snap := ⟨[], []⟩ } }

/-- No side was live within 2 µs of the declaration: the core clock stops and the hub enters SAFE (R52, R56). -/
def execHoldoverTimeout (s : State) : Host.Outcome State Fault Refusal :=
  .next (if s.clk.holdover && s.coreOn && s.topClaim == 0 then settled enterSafe s else s)

/-- The safe-state logic forces the outputs of Table 2-3 (R57). -/
def execSafeForcing (s : State) : Host.Outcome State Fault Refusal :=
  .next (if s.mode = .safe then
      { s with pins := { s.pins with forcing := true }, fto := []
               tb := smap (fun _ => {}) (fun x => { x with dues := [], driveEnd := 0 }) s.tb }
    else s)

/-- The time unit is UNSYNCED (R444). -/
def goUnsynced (s : State) : State := F.TIM_CTL_STATE.wr 0 s

/-- The wait in SAFE ends: a locked side is live and the PLL has locked, so SETTLE begins (R59, Table 4-2). -/
def execSafeExit (s : State) : Host.Outcome State Fault Refusal :=
  .next (if s.mode = .safe ∧ s.clk.pllLock = true ∧ s.clk.ref.isSome = true ∧ s.topClaim ≠ 0 ∧ s.rst.por = false ∧
        s.rst.pin = false then
      setStep 4 (goUnsynced { s with mode := .settle, clk := { s.clk with count := s.clk.ref } })
    else s)

/-- The PLL reports lock to its reference; in SEARCH, SETTLE begins (R40, R44, Table 4-2). -/
def execPllLock (s : State) : Host.Outcome State Fault Refusal :=
  .next (if s.clk.ref.isSome && !s.clk.pllLock then
      let s := { s with clk := { s.clk with pllLock := true } }
      if s.mode = .search then setStep 4 { s with mode := .settle, clk := { s.clk with count := s.clk.ref } } else s
    else s)

/-- The PLL reports loss of lock: the reference is treated as stopped, so the PLL enters holdover, and SETTLE falls back to
SEARCH (R42, R44, R50, Table 4-2). -/
def execPllLossOfLock (s : State) : Host.Outcome State Fault Refusal :=
  .next (if s.clk.pllLock && s.clk.ref.isSome then
      settled (fun s =>
        let s := { s with clk := { s.clk with pllLock := false }, rst := { s.rst with pllKept := false } }
        let s := enterHoldover (raiseFlag 0x302 3 s)
        if s.mode = .settle then backToSearch s else s) s
    else s)

/-- BCID 0 of the orbit that begins at the release: numbered 0 after a reset of reach CHIP, else one more (R579). -/
def releaseOrbit (chip : Bool) (s : State) : State :=
  let o := if chip then 0 else s.orbit + 1
  { s with cyc := 0, bcid := 0, orbit := o, orbStart := s.bp, orbSeen := true
           gap := { s.gap with inGap := false, carried := 0, lens := [], number := 0 } }

/-- The readings of the region sensors go with the core clock (R470, R474). -/
def dropTemps (s : State) : State := overList (List.range 6) (fun r s => s.setWord (F.ERR_TEMP_VALID r).addr 0) s

/-- The settle count of the reference ends: the core clock is released. A cold start enters IDLE and lifts the forcing; a warm start goes on
in HOLD with its memory initialisation and unit reset; every transmitter starts (R44, R76, R80, R109, R397, R579, Table 4-2). -/
def execCoreClockRelease (s : State) : Host.Outcome State Fault Refusal :=
  .next (if s.mode = .settle ∧ s.clk.pllLock = true ∧ s.clk.ref.isSome = true ∧ s.clk.count = s.clk.ref ∧ s.topClaim ≠ 0 then
      settled (fun s =>
        let chip := s.rst.reach == some .chip
        let s := releaseOrbit chip { s with clk := { s.clk with settled := true, count := none } }
        let s := { dropTemps s with tempBase := s.bp, tempSeen := [] }
        if chip then
          let s := startPorts (leaveOff true { s with mode := .idle })
          setStep 0 { s with pins := { s.pins with forcing := false }, rst := { s.rst with reach := none, starting := false } }
        else setStep 2 (startPorts (leaveOff true { s with mode := .hold, rst := { s.rst with initBp := s.bp } }))) s
    else s)

/-- The reference moves to the other live side, glitch-free, and the PLL slews to its phase (R47, R48, R54). -/
def execReferenceSwitch (bins : BitVec 11) (s : State) : Host.Outcome State Fault Refusal :=
  .next (match s.clk.switchTo with
    | some side =>
      settled (fun s =>
        let s := raiseFlag 0x302 1 (takeRef side (!(bins == 0)) s)
        if wide bins.toInt then raiseFlag 0x302 2 s else s) s
    | none => s)

/-- A change of the reference's phase by a number of bins exceeds 50 ps: a bin lasts 21 to 33 ps over the range of f_M, so one
bin never does, three always do, and two may (R11, R580). DESIGN CHOICE (log 19). -/
def State.isStep (s : State) (bins : Int) : Bool :=
  decide (2 < bins.natAbs) || (bins.natAbs == 2 && Config.freeBit s.free)

/-- The reference's own phase changes: from a step above 50 ps on the PLL slews to it without loss of lock; the measured
phase of P1 against P0 moves with it (R48, R580). -/
def execPhaseStep (bins : BitVec 11) (s : State) : Host.Outcome State Fault Refusal :=
  .next (match s.clk.ref with
    | some side =>
      if s.clk.pllLock && !s.clk.holdover then
        let s := State.drew 1 { s with clk := { s.clk with slew := s.clk.slew || s.isStep bins.toInt } }
        let d := match side with | .k => -bins.toInt | .q => bins.toInt
        let s := F.CLK_PHDIFF_PHASE.wrInt (signedOf 10 (wrapTo 10 (F.CLK_PHDIFF_PHASE.int s + d))) s
        if wide bins.toInt then raiseFlag 0x302 2 s else s
      else s
    | none => s)

/-- The PLL reaches its target phase (R47). -/
def execSlewComplete (s : State) : Host.Outcome State Fault Refusal :=
  .next { s with clk := { s.clk with slew := false } }

/-- The hold-off count of a return ends: the side takes its effective rating; when that makes it the controlling side in
place of a live one, it has castled (R425, R426). -/
def takeReturn (side : Side) (s : State) : State :=
  let was := s.controlling
  let live := !(s.topClaim == 0)
  let s := setRet side none (setLive side (s.rating side) s)
  if live && was != side && s.controlling == side then raiseFlag 0x1004 2 s else s

/-- A return completes once its snapshot has been sent and its orbit starts have been counted (R425). -/
def State.returnDone (s : State) (side : Side) : Bool :=
  match s.sid.ret.get side with
  | some r => !r.snapPend && Nat.ble (Nat.max 1 (F.SID_CFG_HOLDOFF.rd s)) r.count
  | none => false

/-- The returning side takes its effective rating as live claim (R425). -/
def execReturnComplete (side : Side) (s : State) : Host.Outcome State Fault Refusal :=
  .next (if s.coreOn && s.returnDone side then settled (takeReturn side) s else s)

end Sys2Proof.Machine
end

