-- ==== Sys2Proof/Machine/Reset.lean ====
section
/-!
DEFINITION. Sys2Proof/Machine/Reset.lean: episodes and start sequences (chapter 3): what each reach clears and keeps (Table
3-2), the sources, the steps of the cold and the warm start, and the TESTEN pin.
-/
namespace Sys2Proof.Machine

/-- The words that a reset of reach CORE keeps (Table 3-2, R91, R151, R396, R438, R458, R470, R535, R539, R544). -/
def keptByCore (a : Nat) : Bool :=
  Nat.ble a 0x00F || Nat.ble 0x200 a && Nat.ble a 0x3FF ||
  Nat.ble 0x1400 a && Nat.ble a 0x140B || Nat.ble 0x1414 a && Nat.ble a 0x1438 || Nat.ble 0x1440 a && Nat.ble a 0x14FF ||
  a == 0x180C || Nat.ble 0x1F00 a && Nat.ble a 0x1F05 ||
  (Nat.ble 0x3000 a && Nat.ble a 0x3FFF && Nat.ble 1 (a % 16) && Nat.ble (a % 16) 5) ||
  (Nat.ble 0xB000 a && Nat.ble a 0xB5FF && a % 64 == 4) || a == 0xB640 ||
  a == 0xC001 || a == 0xC009 || Nat.ble 0xC010 a && Nat.ble a 0xC020

/-- A `FUSE` that a reset cuts short has programmed some of its bits; which of them is not stated (R106, R193).
DEDUCED (log 58). -/
def cutFuses (s : State) : State :=
  s.squareList.foldl (fun s e =>
    match e.2.held with
    | some (.fuse offset bits _) => State.drew 1 (burnFuses offset.toNat (bits &&& s.freeNow 0) s)
    | _ => s) s

/-- The squares, the command queue and what waits for them are cleared by every reach (Table 3-2, R71). -/
def clearBoard (s : State) : State :=
  { cutFuses s with squares := [], a1 := {}, rr := [], raised := [] }

/-- The frame buffer is initialised (Table 3-2). -/
def clearBuffer (s : State) : State :=
  { s with packets := [], waiting := [], served := [], bufErr := [], scrubBack := [], revived := ⟨false, false⟩, jobs := []
           sends := [], ledgers := [], cap := {}, wins := [], marks := [] }

/-- The units whose fields a reach of CHIP or CORE returns to their Reset values start anew. -/
def clearUnits (s : State) : State :=
  { clearBuffer s with
    rwo := [], rwoOld := [], admDirty := false, restarts := [], testEnd := false, bucket := fullBucket, debt := 0, hwreqs := []
    scratch := [], scratchBad := [], refProg := 0, refA1 := 0, reports := 0, quadRun := [], bgDone := []
    slices := [], bpHist := [], edges := 0, edgeQuads := 0, dueSeen := [], fto := [], tb := [], tbCells := [], refresh := [], deadCnt := ⟨0, 0⟩, lanes := [], mon := {}, led := {}
    gap := { s.gap with lane := .idle, tdc := none, tdcAccepted := none, scrub := false }
    tm := {} }

/-- The equalisers of every port start anew from what is stored (R396). -/
def restartEqs (s : State) : State := overList (List.range 24) restartEq s

/-- The effect of a reset of reach CORE on what it clears (Table 3-2, R90, R437, R539). DEDUCED (log 60). -/
def coreReset (s : State) : State :=
  let nb := (s.word F.LNK_ORBIT_NB.addr)
  let s := clearBoard (clearUnits (abandonCals s))
  let s := { s with regs := s.regs.filter fun e => keptByCore e.1 }
  let s := if s.coreOn then
      { s.setWord F.LNK_ORBIT_NB.addr nb with
        rwo := sput (fun _ => none) F.LNK_ORBIT_NB.addr (some (wordReset F.LNK_ORBIT_NB.addr)) s.rwo }
    else s.setWord F.LNK_ORBIT_NB.addr (wordReset F.LNK_ORBIT_NB.addr)
  let s := F.RST_STALE_BLOCK.wr (Nat.lor (F.RST_STALE_BLOCK.rd s) 0x0400FFFF) s
  let sid := { s.sid with window := [], snap := ⟨[], []⟩, held := ⟨false, false⟩, own := ⟨[], []⟩, mirror := ⟨[], []⟩
                          part := ⟨none, none⟩, fcs := [] }
  let s := { s with sid := sid }
  let s := { s with sid := { s.sid with healthy := ⟨s.healthyNow .k, s.healthyNow .q⟩ } }
  restartEqs (recomputeClaims (F.TIM_TXCTL_BUSY.wr 0 s))

/-- The effect of a reset of reach CHIP (Table 3-2, R68, R78, R109, R261). DEDUCED (log 60). -/
def chipReset (s : State) : State :=
  let s := clearBoard (clearUnits s)
  { s with
    regs := [], prog := [], progBad := [], seq := 0, orbit := 0, bcid := 0, cyc := 0, cycle0 := false, adcCal := false, adcAsk := false
    clk := { act := s.clk.act }, sid := {}, tim := {}, gap := {}, groups := [], portOut := [], mode := .hold, target := none
    testEnd := false, degraded := false, rst := { por := s.rst.por, pin := s.rst.pin } }

/-- Every trigger-bus driver lets go of its line (R330). -/
def releaseLines (s : State) : State :=
  { s with tb := smap (fun _ => {}) (fun x => { x with dues := [], driveEnd := 0 }) s.tb }

/-- The effect of a reset of reach CONTROL: the squares and the queue of a1, a pending transition, and the drivers of the
trigger bus (Table 3-2, R96, R330, R396). DEDUCED (log 60). -/
def controlReset (s : State) : State := restartEqs (releaseLines (cancelPending (clearBoard s)))

/-- The source bits of `RST.CAUSE` (Table 3-9). -/
structure Causes where
  pin : Bool
  vddio : Bool
  vdda : Bool
  vdd : Bool

/-- An episode is on: a source is asserted or a start sequence runs. -/
def State.episode (s : State) : Bool := s.rst.por || s.rst.pin || s.rst.starting

/-- `RST.CAUSE` of the episode: its sources so far, and its reach (Table 3-9). -/
def writeCause (fresh : Bool) (c : Causes) (r : Reach) (s : State) : State :=
  let was := fun (f : Fld) => !fresh && f.is s
  s.setWord F.RST_CAUSE_REACH.addr (BitVec.ofNat 32 (packBits [(24, 0), (1, 0), (2, r.code),
    (1, b2n (c.pin || was F.RST_CAUSE_PIN)), (1, b2n (c.vddio || was F.RST_CAUSE_POR_VDDIO)),
    (1, b2n (c.vdda || was F.RST_CAUSE_POR_VDDA)), (1, b2n (c.vdd || was F.RST_CAUSE_POR_VDD)), (1, 0)]))

/-- The reach of an episode that a source joins or begins (R72). -/
def State.reachWith (s : State) (r : Reach) : Reach :=
  match s.rst.reach with | some x => if s.episode then x.wider r else r | none => r

/-- An episode begins: the locks that must hold through it are those of now (R80, Table 3-5). -/
def beginEpisode (s : State) : State :=
  if s.episode then s else { s with rst := { s.rst with stayed := s.clk.locked, pllKept := s.clk.pllLock } }

/-- What the reach of an episode resets (Table 3-2, R69, R93). -/
def resetBy : Reach → State → State
  | .chip, s => chipReset s
  | .core, s => allOff { coreReset (dropPulses (chainsStop s)) with mode := .hold, target := none }
  | .control, s => controlReset s

/-- HOLD cancels the transition that was pending before it (R96). -/
def cancelOf (before s : State) : State :=
  match before.target with
  | some t => if s.mode = .hold then cancelReport t before.mode s else s
  | none => s

/-- A source is asserted with a reach (R66 to R73, R76, R93, R96, R97): the outputs are forced whatever the reach.
DEDUCED (log 60). -/
def assertSource (r : Reach) (c : Causes) (por : Bool) (s : State) : State :=
  let reach := s.reachWith r
  let t := resetBy reach (beginEpisode s)
  let t := { t with
    rst := { t.rst with por := s.rst.por || por, pin := s.rst.pin || c.pin, reach := some reach, starting := false, finish := false }
    pins := { t.pins with forcing := true } }
  let t := writeCause (!s.episode) c reach (t.setWord F.RST_CAUSE_REACH.addr (s.word F.RST_CAUSE_REACH.addr))
  let t := cancelOf s t
  if s.rst.starting && !s.rst.por && !s.rst.pin then raiseFlag 0x205 2 t else t

/-- A watched supply falls below its threshold: the power-on source, of reach CHIP (R65, R67); it also
resets the test access port (R555). -/
def execPorAssert (vdd vdda vddio : Bool) (s : State) : Host.Outcome State Fault Refusal :=
  .next (if vdd || vdda || vddio then settled (assertSource .chip ⟨false, vddio, vdda, vdd⟩ true) { s with tap := {} } else s)

/-- The reach of the pin (Table 3-1). -/
def State.pinReach (s : State) : Reach :=
  match (s.shadowWord 0x08).toNat % 4 with
  | 1 => .core
  | 2 => .control
  | _ => .chip

/-- RSTN is taken as an assertion with the fused reach (R66, R67). -/
def execRstnAssert (s : State) : Host.Outcome State Fault Refusal :=
  .next (if s.rst.pin then s else settled (assertSource s.pinReach ⟨true, false, false, false⟩ false) s)

/-- SEARCH begins as in a cold start: the core clock is stopped, and the PLL has neither reference nor lock. -/
def beginSearch (s : State) : State :=
  let c := { s.clk with settled := false, pllLock := false, ref := none, holdover := false, slew := false, switchTo := none, count := none }
  recomputeClaims (setStep 3 (dropTemps { s with mode := .search, clk := c }))

/-- A warm start of reach CORE skips SEARCH and SETTLE: a control port has stayed locked through the episode and the PLL lock
has held (Table 3-5). -/
def State.clockKept (s : State) : Bool :=
  s.coreOn && s.clk.ref.isSome && s.rst.pllKept && (s.rst.stayed.k || s.rst.stayed.q)

/-- All sources are released: the start sequence of the episode's reach begins, and the straps are latched (R43, R72, R78,
R80, Table 4-2). -/
def startSequence (s : State) : State :=
  let s := { s with pins := { s.pins with setcode := s.pins.clkset }, rst := { s.rst with starting := true } }
  match s.rst.reach with
  | some .chip => setStep 1 { s with mode := .fuseLoad }
  | some .core =>
    if s.mode = .safe then s
    else if s.clockKept then setStep 2 { s with mode := .hold, rst := { s.rst with initBp := s.bp } }
    else beginSearch s
  | some .control => setStep 5 s
  | none => s

/-- The power-on source is released (R65, R72). -/
def execPorRelease (s : State) : Host.Outcome State Fault Refusal :=
  .next (if s.rst.por then
      let s := { s with rst := { s.rst with por := false } }
      if s.rst.pin then s else settled startSequence s
    else s)

/-- RSTN is released (R66, R72). -/
def execRstnRelease (s : State) : Host.Outcome State Fault Refusal :=
  .next (if s.rst.pin then
      let s := { s with rst := { s.rst with pin := false } }
      if s.rst.por then s else settled startSequence s
    else s)

/-- The fuse shadows take the fuse array, and memory initialisation begins; ratings take effect (R78, R420, R542, R544). -/
def execFuseLoadDone (s : State) : Host.Outcome State Fault Refusal :=
  .next (if s.mode = .fuseLoad ∧ F.RST_STATUS_STEP.rd s = 1 then
      settled (fun s => recomputeClaims (setStep 2 { s with shadow := s.fuses })) s
    else s)

/-- Memory initialisation ends. In a cold start every memory is zero with valid check bits, and the hub enters SEARCH; in a
warm start, after its 6144 BP, scratch memory and the frame buffer are, and the unit reset follows (R78, R80, R83). -/
def execMemoryInitDone (s : State) : Host.Outcome State Fault Refusal :=
  .next (if F.RST_STATUS_STEP.rd s = 2 then
      let cleared := { clearBuffer s with scratch := [], scratchBad := [] }
      if s.mode = .fuseLoad then
        settled (fun _ => setStep 3 { cleared with prog := [], progBad := [], mode := .search }) s
      else if s.mode = .hold ∧ s.coreOn = true ∧ s.rst.initBp + 6144 ≤ s.bp then setStep 5 cleared
      else s
    else s)

/-- The report of a calibration (kind 0x08, Table 11-12). -/
def calReport (abandoned monitor : Bool) (s : State) : State :=
  hubRecord 8 [BitVec.ofNat 32 (2 * b2n abandoned + b2n monitor)] s

/-- The reports that a warm start of reach CORE sends first: the chip fault, then the calibrations it abandoned (R97,
R527). -/
def warmReports (s : State) : State :=
  let s := match s.rst.chipLost with
    | some w => hubRecord 7 [w.1, w.2] (F.ERR_LASTDET_DETAIL.wr w.2.toNat (F.ERR_LAST_WORD0.wr w.1.toNat s))
    | none => s
  let s := if s.rst.adcLost then calReport true false s else s
  let s := if s.rst.monLost then calReport true true s else s
  { s with rst := { s.rst with chipLost := none, adcLost := false, monLost := false } }

/-- A warm start of reach CORE enters IDLE and lifts the forcing; after an exit from SAFE it resets the units first, and
`RST.CAUSE` shows SAFEREC beside the sources of the episode (R59, R80, R109, Tables 3-9 and 4-2). DEDUCED (log 60). -/
def finishWarm (s : State) : State :=
  let s := if s.rst.fromSafe then F.RST_CAUSE_SAFEREC.wr 1 (coreReset s) else s
  let s := leaveOff false { s with mode := .idle }
  let s := { s with pins := { s.pins with forcing := false }
                    rst := { s.rst with reach := none, starting := false, fromSafe := false, finish := false } }
  warmReports (setStep 0 s)

/-- At a BP boundary after its unit-reset step, a warm start of reach CORE ends (Table 4-2). -/
def warmTurn (s : State) : State := if s.rst.finish then settled finishWarm s else s

/-- The unit-reset step of a warm start ends: reach CORE enters IDLE at the next BP boundary; reach CONTROL lifts the forcing and
lets squares run again (R76, R80, R83, Table 4-2). DEDUCED (log 60). -/
def execWarmStartDone (s : State) : Host.Outcome State Fault Refusal :=
  .next (if s.rst.starting && !s.rst.por && !s.rst.pin && F.RST_STATUS_STEP.rd s == 5 then
      match s.rst.reach with
      | some .control =>
        setStep 0 { s with rst := { s.rst with reach := none, starting := false }, pins := { s.pins with forcing := false } }
      | some .core => if s.coreOn && s.mode == .hold then { s with rst := { s.rst with finish := true } } else s
      | _ => s
    else s)

/-- A `FUSE` is programming. -/
def State.fusing (s : State) : Bool :=
  s.squareList.any fun e => match e.2.held with | some (.fuse ..) => true | _ => false

/-- TESTEN falls: TEST ends at the next BP boundary after any `FUSE`, which cancels a request that is pending; elsewhere a
pending entry into TEST is cancelled (R96, R555, Table 4-2). -/
def execTestenFall (s : State) : Host.Outcome State Fault Refusal :=
  .next (
    let s := { s with pins := { s.pins with testen := false }, tap := { s.tap with drives := false } }
    if s.mode = .test then { s with testEnd := true }
    else if s.target = some .test then cancelPending s
    else s)

end Sys2Proof.Machine
end

