-- ==== Sys2Proof/Machine/Link.lean ====
section
/-!
DEFINITION. Sys2Proof/Machine/Link.lean: the Remond link: downlink frames with their commands and time-message chunks,
uplink and partner frames, snapshots (R404 to R419, R427, R433, R434).
-/
namespace Sys2Proof.Machine

/-! ### The downlink -/

/-- An open time message of a port is discarded (R414). -/
def dropMessage (p : Nat) (s : State) : State :=
  match sget (fun _ => none) s.tm.inbox p with
  | some _ =>
    raiseFlag (F.LNK_LSTICKY_TMDROP p).addr 2 { s with tm := { s.tm with inbox := sput (fun _ => none) p none s.tm.inbox } }
  | none => s

/-- An incomplete command of a side is discarded (R411). -/
def dropPart (side : Side) (s : State) : State :=
  match s.sid.part.get side with
  | some _ =>
    raiseFlag (F.LNK_LSTICKY_CMDERR (ctlPort side)).addr 1 { s with sid := { s.sid with part := s.sid.part.set side none } }
  | none => s

/-- The command, queued or executing, that holds an ID (R412). -/
def State.pendingCmd (s : State) (id : BitVec 16) : Option Cmd :=
  (s.a1.queue ++ (match s.a1.running with | some c => [c] | none => [])).find? fun c => c.id == id

/-- What a complete command finds (R412, R413): none where it is no duplicate, else the outcome and side its DUP carries. -/
def State.duplicate (s : State) (side : Side) (id : BitVec 16) : Option (BitVec 3 × Side) :=
  if id = 0 then none
  else match s.pendingCmd id with
    | some c => some (7, c.side)
    | none =>
      match s.sid.window.find? fun e => e.id == id with
      | some e => if e.outcome = 4 ∧ s.rating e.side < s.rating side then none else some (e.outcome, e.side)
      | none => none

/-- The place of a command in a1's queue: behind every other one, but of commands that are complete in one core cycle K's comes
first (R123). -/
def enqueueCmd (c : Cmd) (q : List Cmd) : List Cmd :=
  match q.getLast? with
  | some l => if c.side = .k ∧ l.side = .q ∧ l.cycle = c.cycle then q.dropLast ++ [c, l] else q ++ [c]
  | none => [c]

/-- A command is complete: discarded in silence where no square runs or the side is disabled, answered DUP or QFULL, or
queued for a1 (R103, R123, R412, R417, R420). One that comes while an episode of reach CONTROL is on, in a mode in which squares
run, is queued and executed after the episode. DEDUCED (log 60). -/
def completeCommand (side : Side) (id : BitVec 16) (w : Word) (s : State) : State :=
  if !s.mode.runs || s.rating side == 0 then s
  else match s.duplicate side id with
    | some d => raiseFlag 0x1004 3 (respond side (.dup id d.1 d.2) s)
    | none =>
      if s.a1.queue.length < 64 then
        { s with a1 := { s.a1 with queue := enqueueCmd ⟨side, id, w, 8 * s.bp + s.cyc⟩ s.a1.queue } }
      else raiseFlag 0x814 0 (respond side (.qfull id) s)

/-- A command part (Table 14-3, R411). -/
def commandPart (side : Side) (payload : BitVec 44) (s : State) : State :=
  let n := payload.toNat
  if natBit n 43 then
    let s := dropPart side s
    { s with sid := { s.sid with part := s.sid.part.set side (some (BitVec.ofNat 16 (n / 2 ^ 27), BitVec.ofNat 16 (n / 2 ^ 11))) } }
  else match s.sid.part.get side with
    | some p =>
      completeCommand side p.1 (BitVec.ofNat 32 (p.2.toNat * 65536 + n / 2 ^ 27 % 65536))
        { s with sid := { s.sid with part := s.sid.part.set side none } }
    | none => raiseFlag (F.LNK_LSTICKY_CMDERR (ctlPort side)).addr 1 s

/-- A time-message chunk of k bytes at most with its FIRST, LAST and valid bytes joins the open message of a port (R414). -/
def chunkIn (p : Nat) (first last : Bool) (bytes : List Byte) (s : State) : State :=
  let s := if first then dropMessage p s else s
  let opened := if first then some [] else sget (fun _ => none) s.tm.inbox p
  match opened with
  | none => s
  | some l =>
    let put := fun (m : Option (List Byte)) (s : State) => { s with tm := { s.tm with inbox := sput (fun _ => none) p m s.tm.inbox } }
    if 64 < l.length + bytes.length then
      raiseFlag (F.LNK_LSTICKY_TMDROP p).addr 2 (put none s)
    else put (if last then none else some (l ++ bytes)) s

/-- A fast command is noted for the comparison of the sides (R406): SNAPSHOT is left out. DEDUCED (log 29). -/
def noteFc (side : Side) (fc : BitVec 8) (s : State) : State :=
  if fc = 0 then s
  else if 7 < fc.toNat then raiseFlag 0xB645 0 s
  else if fc = 7 ∨ s.coreOn = false then s
  else { s with sid := { s.sid with fcs := s.sid.fcs ++ [(side, fc, s.bp)] } }

/-- The outcome of a frame's check, for the health of the side: the last 1024 count (R421). -/
def noteFrame (side : Side) (bad : Bool) (s : State) : State :=
  { s with sid := { s.sid with frames := s.sid.frames.set side (bad :: (s.sid.frames.get side).take 1023) } }

/-- The far-end loop of a control port sends the received frame on: its content where the check passed, else open bits (R399, R404).
DESIGN CHOICE (log 76). -/
def loopFrame (side : Side) (ok : Bool) (hdr : BitVec 2) (fc : BitVec 8) (payload : BitVec 44) (s : State) : State :=
  let p := ctlPort side
  if s.transmits p && s.farLoop p then
    let bits := packBits [(2, hdr.toNat), (8, fc.toNat), (44, payload.toNat)]
    if ok then sendFrame p 64 (withCrc6 bits) s
    else (sendFrame p 64 ((s.freeNow 0).toNat * 2 ^ 28 + (s.freeNow 1).toNat % 2 ^ 28) s).drew 2
  else s

/-- A downlink frame is received: its check, its fast command noted, its payload taken (R404, R405, R410 to R414, R421). The
fast command's own effect is the command of its name. -/
def execDownlinkFrame (side : Side) (ok : Bool) (hdr : BitVec 2) (fc : BitVec 8) (payload : BitVec 44) (s : State) :
    Host.Outcome State Fault Refusal :=
  let p := ctlPort side
  .next (if s.clk.locked.get side then
      let s := loopFrame side ok hdr fc payload s
      if ok then
        let s := noteFc side fc (noteFrame side false (F.LNK_FRAMES_COUNT p |>.wrap s))
        let s := if hdr = 2 then s else dropPart side s
        let s := if hdr = 3 then s else dropMessage p s
        let s := if hdr = 0 then raiseFlag (F.LNK_LSTICKY_HDRBAD p).addr 0 s
          else if hdr = 2 then (if s.stoppedAt (27 + side.code) s.bp then s else commandPart side payload s)
          else if hdr = 3 then
            let n := payload.toNat
            chunkIn p (natBit n 43) (natBit n 42) ((natBytes 4 n).take (n / 2 ^ 40 % 4 + 1)) s
          else s
        settled (judgeHealth side) s
      else
        let s := raiseFlag (F.LNK_STICKY_CODEERR p).addr 1 (noteFrame side true s)
        settled (judgeHealth side) (dropMessage p (dropPart side s))
    else s)

/-- SNAPSHOT sends a catch-up snapshot to the side that sent it, while the core clock runs (R406, R427, R579).
DEDUCED (log 59). -/
def execSnapshot (side : Side) (s : State) : Host.Outcome State Fault Refusal :=
  .next (if s.coreOn then queueSnapshot side false s else s)

/-! ### The uplink -/

/-- The message that a port is sending. -/
def State.sendingAt (s : State) (p : Nat) : Option TmSend := sget (fun _ => none) s.tm.sending p

/-- A port has sent k more bytes of its message. -/
def sentBytes (p k : Nat) (m : TmSend) (s : State) : State :=
  let m' := if m.msg.length ≤ m.done + k then none else some { m with done := m.done + k }
  { s with tm := { s.tm with sending := sput (fun _ => none) p m' s.tm.sending } }

/-- The tag bits and bytes of the next chunk of a message: FIRST, LAST, the number of valid bytes less 1, and the bytes. -/
def TmSend.chunk (m : TmSend) (k : Nat) : List (Nat × Nat) × Nat :=
  let rest := m.msg.drop m.done
  let n := Nat.min k rest.length
  ([(1, b2n (m.done == 0)), (1, b2n (Nat.ble rest.length k)), (2, n - 1)], chunkBytes k rest)

/-- A snapshot frame has been sent; the last one completes the snapshot (R425, R427). -/
def snapSent (side : Side) (f : SnapFrame) (s : State) : State :=
  let s := { s with sid := { s.sid with snap := s.sid.snap.set side (s.sid.snap.get side).tail } }
  let s := if f.last then raiseFlag 0x1004 0 s else s
  if f.last && f.ofReturn then
    match s.sid.ret.get side with
    | some r => setRet side (if s.claims side then none else some { r with snapPend := false }) s
    | none => s
  else s

/-- What an uplink frame of this BP carries: HDR and payload, and the state after it was taken (R416, R418, R420). -/
def uplinkContent (side : Side) (s : State) : Nat × State :=
  let p := ctlPort side
  let status := (packBits [(2, 1), (52, s.statusPayload)], s)
  let tagged := fun (payload : Nat) (s : State) => (packBits [(2, 2), (52, payload)], s)
  let timeChunk := fun (m : TmSend) =>
    let c := m.chunk 4
    tagged (packBits ([(4, 7)] ++ c.1 ++ [(12, 0), (32, c.2)])) (sentBytes p 4 m s)
  let snap := match s.sid.snap.get side with
    | f :: _ => some (tagged f.payload.toNat (snapSent side f s))
    | [] => none
  if s.bcid = 0 then status
  else if s.rating side = 0 then (match snap with | some x => x | none => status)
  else
    let sending := s.sendingAt p
    match sending, s.sid.own.get side with
    | some m, own =>
      if m.done = 0 then
        match own with
        | r :: t => tagged (r.payload false) { s with sid := { s.sid with own := s.sid.own.set side t } }
        | [] => timeChunk m
      else timeChunk m
    | none, r :: t => tagged (r.payload false) { s with sid := { s.sid with own := s.sid.own.set side t } }
    | none, [] =>
      match snap with
      | some x => x
      | none =>
        match s.sid.mirror.get side with
        | r :: t => tagged (r.payload true) { s with sid := { s.sid with mirror := s.sid.mirror.set side t } }
        | [] => status

/-- A control transmitter sends its frame of this BP; in its far-end loop and in place of a pattern it sends none of its own (R397,
R399, R400, R416, R418). -/
def execUplinkFrame (side : Side) (s : State) : Host.Outcome State Fault Refusal :=
  .next (if s.sendsOwn (ctlPort side) then
      let c := uplinkContent side s
      sendFrame (ctlPort side) 64 (withCrc6 c.1) c.2
    else s)

/-! ### Partner ports -/

/-- A received frame of a partner port is delivered: its map is latched and compared with the hub's own of that BP (R434). -/
def deliverMap (p : Nat) (map : BitVec 16) (bcid : BitVec 8) (s : State) : State :=
  let s := (F.LNK_PEDGE_MAP p).wr map.toNat ((F.LNK_PEDGE_BCID p).wr bcid.toNat ((F.LNK_FRAMES_COUNT p).wrap s))
  match (s.bpHist.take 64).find? fun r => r.tag.bcid % 256 == bcid.toNat with
  | some r => if r.map &&& map = 0 then s else (F.LNK_PCOINC_COUNT p).count 1 s
  | none => raiseFlag (F.LNK_LSTICKY_NOMATCH p).addr 3 s

/-- The BP whose edge map a partner frame carries whose first line bit is at the pins now: 6 BP ago (R433).
DEDUCED (log 50). -/
def State.edgeRec (s : State) : BpRec := (s.bpHist[5]?).getD { tag := s.tag, map := 0, mode := s.mode }

/-- The content of the next frame of a partner port, with a chunk of its time message where it has one, and the state after it was
taken (R433). -/
def partnerContent (p : Nat) (s : State) : Nat × State :=
  let r := s.edgeRec
  let head := [(16, r.map.toNat), (8, r.tag.bcid % 256)]
  match s.sendingAt p with
  | some m => let c := m.chunk 3; (packBits ([(2, 2)] ++ head ++ c.1 ++ [(24, c.2)]), sentBytes p 3 m s)
  | none => (packBits ([(2, 1)] ++ head ++ [(4, 0), (24, 0)]), s)

/-- A partner port sends its frame of this BP, which a near-end loop takes in again (R399, R433, R434). -/
def execPartnerFrameSend (side : Side) (s : State) : Host.Outcome State Fault Refusal :=
  let p := partnerPort side
  .next (if s.sendsOwn p then
      let c := partnerContent p s
      let t := sendFrame p 64 (withCrc6 c.1) c.2
      if s.nearLoop p && (F.LNK_PSTAT_LOCKED p).is s then
        deliverMap p s.edgeRec.map (BitVec.ofNat 8 (s.edgeRec.tag.bcid % 256)) t
      else t
    else s)

/-- A partner frame reaches the core: one whose check passes is delivered, one whose check fails counts as a code error. A near-end loop
cuts the pins off, and a far-end loop sends the frame on, with the bits of it that the command does not name free (R378, R399,
R434). DEDUCED (log 35), DESIGN CHOICE (log 76). -/
def execPartnerFrameReceived (side : Side) (map : BitVec 16) (bcid : BitVec 8) (s : State) (ok : Bool := true) :
    Host.Outcome State Fault Refusal :=
  let p := partnerPort side
  .next (if s.coreOn && s.hasPort p && (F.LNK_PSTAT_LOCKED p).is s && !s.nearLoop p then
      let v := (s.freeNow 0).toNat
      let bits := packBits [(2, 1 + v % 2), (16, map.toNat), (8, bcid.toNat), (28, v / 2 % 2 ^ 28)]
      let s := if s.transmits p && s.farLoop p then
          (sendFrame p 64 (if ok then withCrc6 bits else bits * 64 + (s.freeNow 1).toNat % 64) s).drew 2 else s
      if ok then deliverMap p map bcid s else raiseFlag (F.LNK_STICKY_CODEERR p).addr 1 s
    else s)

end Sys2Proof.Machine
end

