-- ==== Sys2Proof/Machine/Operands.lean ====
section
/-!
DEFINITION. Sys2Proof/Machine/Operands.lean: the operand forms of an instruction (R153 to R155, R166 to R168, R173, R176):
registers, immediates, shift amounts, branch targets, scratch addresses, and the index arithmetic of Table 6-4.
-/
namespace Sys2Proof.Machine

/-- A register of a square; g0 reads as zero (R121, R154). -/
def State.reg (s : State) (i : Nat) (r : Reg) : Word :=
  if r = 0 then 0 else sget (fun _ => 0) (s.square i).g r.toNat

/-- Give a register of a square a value; a write to g0 is discarded (R121, R154). -/
def setReg (i : Nat) (r : Reg) (v : Word) (s : State) : State :=
  if r = 0 then s else s.modSquare i fun q => { q with g := sput (fun _ => 0) r.toNat v q.g }

/-- The value an ACK carries for a register that was written: zero for g0 (R154, Table 14-6). -/
def ackValue (r : Reg) (v : Word) : Word := if r = 0 then 0 else v

/-- An immediate sign-extended from 18 bits (R155). -/
def sext18 (imm : BitVec 18) : Word := imm.signExtend 32

/-- An immediate zero-extended from 18 bits (R155). -/
def zext18 (imm : BitVec 18) : Word := imm.zeroExtend 32

/-- The shift amount: g[gb][4:0], or sub[4:0] when gb is g0 (R166). -/
def State.shiftBy (s : State) (i : Nat) (gb : Reg) (sub : BitVec 14) : Nat :=
  if gb = 0 then sub.toNat % 32 else (s.reg i gb).toNat % 32

/-- The word address of `LD` and `ST`: g[ga] + sext(imm18), on 32-bit values (R167). -/
def State.scratchAddr (s : State) (i : Nat) (ga : Reg) (imm : BitVec 18) : Nat := (s.reg i ga + sext18 imm).toNat

/-- The target of a branch: (target + g[ga]) mod 2^14 (R173). -/
def State.branchTarget (s : State) (i : Nat) (ga : Reg) (target : BitVec 14) : BitVec 14 :=
  target + (s.reg i ga).truncate 14

/-- The mask of a `WAIT`: operand[12:0] or g[ga][12:0] (R176). -/
def State.waitMask (s : State) (i : Nat) (ga : Reg) (operand : BitVec 18) : BitVec 13 :=
  operand.truncate 13 ||| (s.reg i ga).truncate 13

/-! ### Field addresses -/

/-- A row of Table 6-4: the first word of a unit's range, the first word after it, the stride and the bound of the index. -/
structure UnitRange where
  lo : Nat
  hi : Nat
  stride : Nat
  bound : Nat
  deriving DecidableEq, Repr

/-- A unit with stride 1, whose index is a word (Table 6-4). -/
def plainUnit (lo hi : Nat) : UnitRange := ⟨lo, hi, 1, hi - lo⟩

/-- The unit ranges of the field space, from base to next base (Tables 6-4 and 20-1). -/
def unitRanges : List UnitRange :=
  [plainUnit 0 0x100, plainUnit 0x100 0x200, plainUnit 0x200 0x300, plainUnit 0x300 0x400, plainUnit 0x400 0x800,
   ⟨0x800, 0x1000, 32, 64⟩, plainUnit 0x1000 0x1400, plainUnit 0x1400 0x1800, plainUnit 0x1800 0x2000,
   ⟨0x2000, 0x3000, 16, 256⟩, ⟨0x3000, 0x4000, 16, 256⟩, ⟨0x4000, 0x5000, 8, 256⟩, ⟨0x5000, 0x9000, 64, 256⟩,
   plainUnit 0x9000 0xA000, plainUnit 0xA000 0xA800, plainUnit 0xA800 0xB000, ⟨0xB000, 0xC000, 64, 24⟩,
   plainUnit 0xC000 0xD000, plainUnit 0xD000 0xE000, plainUnit 0xE000 0x10000,
   ⟨0x10000, 0x14000, 1, 16384⟩, ⟨0x14000, 0x15000, 1, 4096⟩]

/-- The unit whose range holds an address; none from 0x15000 (R536). -/
def unitOf (a : Nat) : Option UnitRange := unitRanges.find? fun u => Nat.ble u.lo a && Nat.blt a u.hi

/-- The effective field address of an instruction; none where it is refused with RANGE (R168, R536). -/
def effectiveAddr (a index : Nat) : Option Nat :=
  match unitOf a with
  | none => none
  | some u =>
    let e := a + index * u.stride
    if index < u.bound ∧ e < u.hi then some e else none

end Sys2Proof.Machine
end

