-- ==== Sys2Proof/Machine/Flags.lean ====
section
/-!
DEFINITION. Sys2Proof/Machine/Flags.lean: the results and flags of the register and immediate operations (R166, Table 6-3)
and the branch conditions (Table 6-5).
-/
namespace Sys2Proof.Machine

/-- What an operation of Table 6-3 yields: the result, from which Z and N are set, and C and V where it sets them. -/
structure Alu where
  res : Word
  c : Option Bool := none
  v : Option Bool := none
  deriving DecidableEq, Repr

/-- a + b: C is the carry out of bit 31, V the signed overflow. -/
def aluAdd (a b : Word) : Alu :=
  { res := a + b, c := some (Nat.ble (2 ^ 32) (a.toNat + b.toNat)), v := some (!((a + b).toInt == a.toInt + b.toInt)) }

/-- a - b: C is 1 if a ≥ b unsigned, V the signed overflow. -/
def aluSub (a b : Word) : Alu :=
  { res := a - b, c := some (Nat.ble b.toNat a.toNat), v := some (!((a - b).toInt == a.toInt - b.toInt)) }

/-- A logical operation or a choice leaves C and V unchanged. -/
def aluKeep (r : Word) : Alu := { res := r }

/-- Shift left: C is the last bit shifted out, 0 when s = 0; V is 0. -/
def aluShl (a : Word) (n : Nat) : Alu :=
  { res := a <<< n, c := some (!(n == 0) && natBit a.toNat (32 - n)), v := some false }

/-- Shift right, filling zeros. -/
def aluShr (a : Word) (n : Nat) : Alu :=
  { res := a >>> n, c := some (!(n == 0) && natBit a.toNat (n - 1)), v := some false }

/-- Shift right, copying bit 31. -/
def aluSar (a : Word) (n : Nat) : Alu :=
  { res := a.sshiftRight n, c := some (!(n == 0) && natBit a.toNat (n - 1)), v := some false }

/-- The product of the sign-extended low halves; C and V are 0. -/
def aluMul (a b : Word) : Alu :=
  { res := (a.truncate 16).signExtend 32 * (b.truncate 16).signExtend 32, c := some false, v := some false }

/-- a is less than b, signed or unsigned (R166). -/
def lessThan (unsigned : Bool) (a b : Word) : Bool := if unsigned then a.ult b else a.slt b

/-- The lesser of two values. -/
def aluMin (unsigned : Bool) (a b : Word) : Alu := aluKeep (if lessThan unsigned a b then a else b)

/-- The greater of two values. -/
def aluMax (unsigned : Bool) (a b : Word) : Alu := aluKeep (if lessThan unsigned a b then b else a)

/-- The flags of a square after an operation (R166). -/
def Square.withFlags (q : Square) (o : Alu) : Square :=
  { q with z := o.res == 0, n := o.res.msb, c := o.c.getD q.c, v := o.v.getD q.v }

/-- Set the flags of a square from an operation. -/
def setFlags (i : Nat) (o : Alu) (s : State) : State := s.modSquare i fun q => q.withFlags o

/-- A branch condition (Table 6-5, R134); none for the values that name none. -/
def Square.cond (q : Square) (c : Reg) : Option Bool :=
  match c.toNat with
  | 0 => some true
  | 1 => some q.z
  | 2 => some (!q.z)
  | 3 => some (q.n != q.v)
  | 4 => some (q.n == q.v)
  | 5 => some (!q.c)
  | 6 => some q.c
  | 7 => some q.f
  | 8 => some (!q.f)
  | 9 => some (!(q.evpend &&& q.evmask == 0))
  | _ => none

end Sys2Proof.Machine
end

