-- ==== Sys2Proof/Machine/Issue.lean ====
section
/-!
DEFINITION. Sys2Proof/Machine/Issue.lean: how an instruction issues, completes, is refused or faults (R125, R129, R150,
R158 to R162). The meanings of the instructions are bodies that `issue` runs.
-/
namespace Sys2Proof.Machine

/-- What an issued instruction comes to. -/
inductive Outc where
  /-- It completes; the square goes on at the next instruction. `gd` is what an ACK carries. -/
  | done (gd : Word) (s : State)
  /-- It completes and names the next instruction. -/
  | goto (pc : BitVec 14) (s : State)
  /-- It does not complete: the square waits and keeps its PC. -/
  | stay (s : State)
  /-- It is refused. -/
  | refuse (r : Reason) (test grp : Nat) (s : State)
  /-- It faults a program square with a cause of Table 5-6, and in a1 it is refused with RANGE (R159). -/
  | fault (cause : Nat) (s : State)

/-- An instruction can issue: squares run, no episode of reach CONTROL is on, and the square is READY, or a1 is not held in
an instruction (R92, R125, R129). DESIGN CHOICE (log 4). -/
def State.issuable (s : State) (by_ : Issuer) : Bool :=
  s.mode.runs && s.rst.reach.isNone &&
    match by_ with
    | .prog q => (s.square (q.val + 1)).state == .ready
    | .host _ _ => (s.square 0).held.isNone && s.a1.running.isNone

/-- The issue itself: ISSUED counts, the square's priority takes effect, and the order of service moves on (R128, R129, Table
5-7). DESIGN CHOICE (log 16), DEDUCED (log 41). -/
def issued (by_ : Issuer) (s : State) : State :=
  let s := s.modSquare by_.idx fun q => { q with issued := q.issued + 1, effPrio := q.prio }
  match by_ with
  | .prog q => { s with rr := sput (fun _ => 0) (s.square (q.val + 1)).prio.toNat (q.val + 1) s.rr }
  | .host _ _ => { s with a1 := { s.a1 with wait := 0 } }

/-- The PC of a program square moves to the next instruction (R155); a1 has none. -/
def advance (by_ : Issuer) (s : State) : State :=
  match by_ with
  | .prog q => s.modSquare (q.val + 1) fun x => { x with pc := x.pc + 1 }
  | .host _ _ => s

/-- An accepted instruction that can be refused clears F (R162): every one in a1, and in a program square those that R162
names. -/
def clearF (by_ : Issuer) (refusable : Bool) (s : State) : State :=
  if refusable || by_.idx == 0 then s.modSquare by_.idx fun q => { q with f := false } else s

/-- An instruction of a1 is acknowledged (R417). -/
def acked (by_ : Issuer) (gd : Word) (s : State) : State :=
  match by_ with
  | .prog _ => s
  | .host side id => ackHost side id gd s

/-- An instruction completes. -/
def complete (by_ : Issuer) (refusable : Bool) (gd : Word) (s : State) : State :=
  acked by_ gd (advance by_ (clearF by_ refusable s))

/-- The ID of a command; program squares have none. -/
def cmdId : Issuer → BitVec 16
  | .prog _ => 0
  | .host _ id => id

/-- An instruction is refused (R104, R160): F, the sticky flag of the reason, the record, and in a1 the response. A
reservation is released (R144). -/
def refused (by_ : Issuer) (op : Nat) (r : Reason) (test grp : Nat) (s : State) : State :=
  let i := by_.idx
  let s := s.modSquare i fun q => { q with f := true, resv := none }
  let s := match r with
    | .absent => raiseFlag F.CAP_ABSENT_FLAG.addr 0 (s.setWord F.CAP_ABSADDR_ADDR.addr 0x80000000)
    | .state => raiseFlag F.PWR_STICKY_REFUSE.addr 0 s
    | _ => s
  let s := refusalRecord i op r test grp (cmdId by_) s
  let s := advance by_ s
  match by_ with
  | .prog _ => s
  | .host side id => refuseHost side id op r test grp s

/-- A program square faults (R150). DEDUCED (log 41). -/
def faultSquare (i cause : Nat) (s : State) : State :=
  let pc := (s.square i).pc
  let s := s.modSquare i fun q =>
    { q with state := .faulted, faultPc := pc, faultCause := BitVec.ofNat 4 cause, resv := none }
  hubRecordOf 2 i [BitVec.ofNat 32 (pc.toNat * 65536 + cause)] (raiseFlag F.SEQ_STICKY_FAULT.addr 2 s)

/-- A reservation that the instruction has not used is released (R144). -/
def release (by_ : Issuer) (s : State) : State := s.modSquare by_.idx fun q => { q with resv := none }

/-- What becomes of the machine with an outcome. -/
def settle (by_ : Issuer) (op : Nat) (refusable : Bool) : Outc → State
  | .done gd t => complete by_ refusable gd (release by_ t)
  | .goto pc t => (clearF by_ refusable (release by_ t)).modSquare by_.idx fun q => { q with pc := pc }
  | .stay t => release by_ t
  | .refuse r test grp t => refused by_ op r test grp t
  | .fault cause t =>
    match by_ with
    | .prog q => faultSquare (q.val + 1) cause t
    | .host _ _ => refused by_ op .range 0 0 t

/-- An instruction issues where it can; elsewhere nothing happens. DESIGN CHOICE (logs 4, 5, 16). -/
def issue (by_ : Issuer) (op : Nat) (refusable : Bool) (body : State → Outc) (s : State) : State :=
  if s.issuable by_ then
    settle by_ op refusable (body (issued by_ s))
  else s

/-- An instruction that a1 never executes (R124): refused there with RANGE. -/
def issueProg (by_ : Issuer) (op : Nat) (body : State → Outc) (s : State) : State :=
  issue by_ op false (fun t => if by_.idx = 0 then .refuse .range 0 0 t else body t) s

/-- A register result: gd is written and the instruction completes. -/
def result (i : Nat) (gd : Reg) (v : Word) (s : State) : Outc := .done (ackValue gd v) (setReg i gd v s)

/-- A refusal without a test number. -/
def refuse (r : Reason) (s : State) : Outc := .refuse r 0 0 s

end Sys2Proof.Machine
end

