-- ==== Sys2Proof/Machine/Flow.lean ====
section
/-!
DEFINITION. Sys2Proof/Machine/Flow.lean: scratch loads and stores, branches, and the instructions on events and squares
(R167, R173 to R179, R194).
-/
namespace Sys2Proof.Machine

/-! ### Scratch memory -/

/-- `LD`: the scratch word at g[ga] + sext(imm18); an address outside 0 to 4095 and an uncorrectable word fault (R167, Table
5-6). -/
def execLd (by_ : Issuer) (gd ga : Reg) (imm : BitVec 18) (s : State) : Host.Outcome State Fault Refusal :=
  .next (issue by_ 0x18 false (fun s =>
    let i := by_.idx
    let a := s.scratchAddr i ga imm
    if 4095 < a then .fault 6 s
    else if s.scratchBad.contains a then .fault 5 (foundBad 3 a s)
    else result i gd (Memory.read s.scratch a) s) s)

/-- `ST`: g[gs] is written to the scratch word (R167). -/
def execSt (by_ : Issuer) (gs ga : Reg) (imm : BitVec 18) (s : State) : Host.Outcome State Fault Refusal :=
  .next (issue by_ 0x19 false (fun s =>
    let i := by_.idx
    let a := s.scratchAddr i ga imm
    if 4095 < a then .fault 6 s
    else .done 0 (s.scratchWrite a (s.reg i gs))) s)

/-! ### Branches -/

/-- `BR` (R173, R174). -/
def execBr (by_ : Issuer) (cond ga : Reg) (target : BitVec 14) (s : State) : Host.Outcome State Fault Refusal :=
  .next (issueProg by_ 0x20 (fun s =>
    let i := by_.idx
    match (s.square i).cond cond with
    | none => .fault 1 s
    | some true => .goto (s.branchTarget i ga target) s
    | some false => .done 0 s) s)

/-- An entry of the call stack. -/
def Square.stackAt (q : Square) : Nat → BitVec 14
  | 0 => q.stack0
  | 1 => q.stack1
  | 2 => q.stack2
  | _ => q.stack3

/-- Give an entry of the call stack a value. -/
def Square.setStack (q : Square) (k : Nat) (v : BitVec 14) : Square :=
  match k with
  | 0 => { q with stack0 := v }
  | 1 => { q with stack1 := v }
  | 2 => { q with stack2 := v }
  | _ => { q with stack3 := v }

/-- `CALL`: the return address is pushed; with four entries on the stack it faults (R173, R174). -/
def execCall (by_ : Issuer) (cond ga : Reg) (target : BitVec 14) (s : State) : Host.Outcome State Fault Refusal :=
  .next (issueProg by_ 0x21 (fun s =>
    let i := by_.idx
    let q := s.square i
    match q.cond cond with
    | none => .fault 1 s
    | some true =>
      if 4 ≤ q.depth.toNat then .fault 2 s
      else .goto (s.branchTarget i ga target)
        (s.setSquare i { q.setStack q.depth.toNat (q.pc + 1) with depth := q.depth + 1 })
    | some false => .done 0 s) s)

/-- `RET`: the newest return address is popped; with an empty stack it faults (R173, R174). -/
def execRet (by_ : Issuer) (cond : Reg) (s : State) : Host.Outcome State Fault Refusal :=
  .next (issueProg by_ 0x22 (fun s =>
    let i := by_.idx
    let q := s.square i
    match q.cond cond with
    | none => .fault 1 s
    | some true =>
      if q.depth = 0 then .fault 3 s
      else .goto (q.stackAt (q.depth.toNat - 1)) (s.setSquare i { q with depth := q.depth - 1 })
    | some false => .done 0 s) s)

/-- `HALT`: the PC moves to the next instruction and the square is HALTED (R175). -/
def execHalt (by_ : Issuer) (s : State) : Host.Outcome State Fault Refusal :=
  .next (issueProg by_ 0x23 (fun s => .done 0 (s.modSquare by_.idx fun q => { q with state := .halted })) s)

/-! ### Events and squares -/

/-- `WAIT` (R134, R176): pending events of the mask are consumed, or the square waits for one. -/
def execWait (by_ : Issuer) (gd ga : Reg) (operand : BitVec 18) (s : State) : Host.Outcome State Fault Refusal :=
  .next (issueProg by_ 0x28 (fun s =>
    let i := by_.idx
    let m := s.waitMask i ga operand
    let q := s.square i
    let q := if operand.toNat / 2 ^ 17 = 1 then { q with evmask := q.evmask ||| m } else q
    let hit := q.evpend &&& m
    if hit ≠ 0 ∨ m = 0 then
      result i gd (hit.zeroExtend 32) (s.setSquare i { q with evpend := q.evpend &&& ~~~m })
    else .stay (s.setSquare i { q with state := .waitEvent, waitMask := m })) s)

/-- The square that a `SIGNAL` names: g[ga][5:0] (R177). -/
def State.named (s : State) (i : Nat) (ga : Reg) : Nat := (s.reg i ga).toNat % 64

/-- The state code that `SIGNAL` writes: the issuing square itself is RUNNING (R125, Table 6-6). -/
def State.codeBefore (s : State) (i t : Nat) : Word :=
  BitVec.ofNat 32 (if t = i then SqState.running.code else (s.square t).state.code)

/-- `SIGNAL` with operation SIG raises SIG for a square; a1, a FREE square and the operations that name none are refused
with RANGE (R177, R178). -/
def execSignalSig (by_ : Issuer) (gd ga : Reg) (op : BitVec 3) (s : State) : Host.Outcome State Fault Refusal :=
  .next (issue by_ 0x29 true (fun s =>
    let i := by_.idx
    let t := s.named i ga
    if op ≠ 0 ∨ t = 0 ∨ (s.square t).state = .free then refuse .range s
    else result i gd (s.codeBefore i t) (raiseEv (.one .sig t) s)) s)

/-- The lowest-index FREE square. -/
def State.freeSquare (s : State) : Option Nat := ((List.range 64).drop 1).find? fun t => (s.square t).state == .free

/-- A square is started (Table 5-2): its PC, priority and class are set; registers, flags, stack, mask, pending events and
timer are cleared. -/
def Square.started (q : Square) (pc : BitVec 14) (w : Word) : Square :=
  { q with
    state := .ready, g := [], pc := pc, z := false, n := false, c := false, v := false, f := false, depth := 0
    stack0 := 0, stack1 := 0, stack2 := 0, stack3 := 0, evmask := 0, evpend := 0, timer := 0, timerDue := false
    prio := BitVec.ofNat 3 (w.toNat / 256), cls := BitVec.ofNat 2 (w.toNat / 16), effPrio := BitVec.ofNat 3 (w.toNat / 256)
    waitMask := 0, want := 0, barred := false, resv := none, held := none, deferred := .none }

/-- `SIGNAL` with operation START takes the lowest-index FREE square (R126, R177, Table 5-2). -/
def execSignalStart (by_ : Issuer) (gd ga : Reg) (pc : BitVec 14) (s : State) : Host.Outcome State Fault Refusal :=
  .next (issue by_ 0x29 true (fun s =>
    let i := by_.idx
    match s.freeSquare with
    | some t => result i gd (BitVec.ofNat 32 t) (s.modSquare t fun q => q.started pc (s.reg i ga))
    | none => refuse .range (raiseFlag F.SEQ_STICKY_NOSQ.addr 3 s)) s)

/-- A square leaves for HALTED or FREE with its PC kept: what it waits for and its reservation are given up (R127).
DEDUCED (log 41). -/
def Square.leave (q : Square) (st : SqState) : Square :=
  { q with state := st, waitMask := 0, want := 0, barred := false, resv := none, held := none, deferred := .none }

/-- A `FUSE` is programming in a square. -/
def Square.fusing (q : Square) : Bool := match q.held with | some (.fuse ..) => true | _ => false

/-- STOP or FREE takes effect: at once, or when a running `FUSE` completes (R127). DEDUCED (log 42). -/
def leaveSquare (t : Nat) (st : SqState) (d : Deferred) (s : State) : State :=
  s.modSquare t fun q => if q.fusing then { q with deferred := d } else q.leave st

/-- `SIGNAL` with operation STOP (R126, R127, R178). -/
def execSignalStop (by_ : Issuer) (gd ga : Reg) (s : State) : Host.Outcome State Fault Refusal :=
  .next (issue by_ 0x29 true (fun s =>
    let i := by_.idx
    let t := s.named i ga
    let st := (s.square t).state
    if t = 0 ∨ st = .free ∨ st = .halted ∨ st = .faulted then refuse .range s
    else result i gd (s.codeBefore i t) (leaveSquare t .halted .stop s)) s)

/-- `SIGNAL` with operation RESUME (R126, Table 5-2). -/
def execSignalResume (by_ : Issuer) (gd ga : Reg) (s : State) : Host.Outcome State Fault Refusal :=
  .next (issue by_ 0x29 true (fun s =>
    let i := by_.idx
    let t := s.named i ga
    if t = 0 ∨ (s.square t).state ≠ .halted then refuse .range s
    else result i gd (s.codeBefore i t) (s.modSquare t fun q => { q with state := .ready })) s)

/-- `SIGNAL` with operation FREE; a self-FREE discards its write to gd (R126, R127, R178). -/
def execSignalFree (by_ : Issuer) (gd ga : Reg) (s : State) : Host.Outcome State Fault Refusal :=
  .next (issue by_ 0x29 true (fun s =>
    let i := by_.idx
    let t := s.named i ga
    if t = 0 ∨ (s.square t).state = .free then refuse .range s
    else
      let u := leaveSquare t .free .free s
      if t = i then .done 0 u else result i gd (s.codeBefore i t) u) s)

/-- `YIELD` advances the PC; its issue has set rr of its priority to the square (R130, R179). -/
def execYield (by_ : Issuer) (s : State) : Host.Outcome State Fault Refusal :=
  .next (issueProg by_ 0x2A (fun s => .done 0 s) s)

/-- An illegal opcode faults a program square with cause 0b0001 and is refused in a1 with RANGE (R159, R194). -/
def execIllegalOpcode (by_ : Issuer) (op : BitVec 6) (s : State) : Host.Outcome State Fault Refusal :=
  .next (issue by_ op.toNat false (fun s => .fault 1 s) s)

end Sys2Proof.Machine
end

