-- ==== Sys2Proof/Machine/Slices.lean ====
section
/-!
DEFINITION. Sys2Proof/Machine/Slices.lean: the commands of a slice's front end and edge timing, of the fast OR and of the
trigger-bus timing cells (R204 to R221, R257 to R276).
-/
namespace Sys2Proof.Machine

/-- The threshold and the hysteresis of an active discriminator change at the orbit start that this BP begins with: its output
holds for 2 ns (R205). -/
def State.discHolds (s : State) (c : Nat) : Bool :=
  s.bp == s.orbStart && s.discActive c &&
    (match sget (fun _ => none) s.rwoOld (F.AFE_DISC_THR c).addr with
      | some w =>
        !((F.AFE_DISC_THR c).of w == 0) &&
          (!((F.AFE_DISC_THR c).of w == (F.AFE_DISC_THR c).rd s) || !((F.AFE_DISC_HYST c).of w == (F.AFE_DISC_HYST c).rd s))
      | none => false)

/-- The end of that hold in bins: 2.0 ns are between 61 and 95 bins over the range of R10. DESIGN CHOICE (log 19). -/
def State.holdEnd (s : State) : Nat := 61 + (s.freeNow 0).toNat % 34

/-- The fine time of an edge of the discriminator, and the index of the cycle that ends its interval: an edge in the hold is timed
at its end (R205, R257 to R262). -/
def edgeOf (c : Nat) (lead : Bool) (raw e : BitVec 7) (s : State) : (Nat × Nat) × State :=
  let r := timeEdge c lead raw e s
  if s.discHolds c && Nat.blt r.1 s.holdEnd then ((s.holdEnd, cycleOf s.holdEnd), r.2.drew 1) else ((r.1, e.toNat), r.2)

/-- The discriminator's output rises: a leading edge goes to the TDC, the hit logic and the fast OR (R204 to R206, R257 to
R270). `near` tells that it follows the previous trailing edge of the channel by less than 2.0 ns. -/
def execDiscLeadingEdge (c : Chan) (raw e : BitVec 7) (near : Bool) (s : State) : Host.Outcome State Fault Refusal :=
  .next (if s.coreOn && s.discActive c && !(s.slice c).high then
      let r := edgeOf c true raw e s
      leadingEdge c r.1.1 (s.intervalTo r.1.2) near r.2
    else s)

/-- The discriminator's output falls: a trailing edge (R204, R205, R269 to R274). -/
def execDiscTrailingEdge (c : Chan) (raw e : BitVec 7) (s : State) : Host.Outcome State Fault Refusal :=
  .next (if s.coreOn && s.hasChan c && (s.slice c).high then
      let r := edgeOf c false raw e s
      trailingEdge c r.1.1 (s.intervalTo r.1.2) r.2
    else s)

/-- 1020 bins after its leading edge a hit is completed with TOT 255; its later trailing edge gives nothing (R271). -/
def execHitTimeout (c : Chan) (s : State) : Host.Outcome State Fault Refusal :=
  .next (match (s.slice c).openHit with
    | some h => if s.coreOn && Nat.blt h.limit (s.nowBins + 128) then timeOutHit c h s else s
    | none => s)

/-- A channel's bit in `ACQ.HEN` (R310). -/
def State.hen (s : State) (bp c : Nat) : Bool := natBit ((F.ACQ_HEN_EN (c / 32)).at bp s) (c % 32)

/-- A hit leaves its queue 3 BP after the BP of its completion, one hit in a BP; it waits for its window samples where it yields an
H record (R273, R303, R310). DESIGN CHOICE (log 5). -/
def execHitDequeue (c : Chan) (s : State) : Host.Outcome State Fault Refusal :=
  .next (match (s.slice c).queue with
    | h :: r =>
      if s.coreOn && Nat.ble (h.doneBp + 3) s.bp && !((s.slice c).deqBp == some s.bp) then
        s.modSlice c fun x => { x with queue := r, deqBp := some s.bp, waiting := if h.live && s.hen h.tag.bp c then x.waiting ++ [h] else x.waiting }
      else s
    | [] => s)

/-- The stuck detector fires: the group quarantines the slice with QCAUSE 0b10 (R213, R214). -/
def execStuckDetect (c : Chan) (s : State) : Host.Outcome State Fault Refusal :=
  .next (
    let lim := (F.AFE_STUCK_BP c).rd s
    if s.coreOn && s.hasChan c && !s.quar c && !(lim == 0) && Nat.ble lim (s.slice c).highRun then quarantine c 2 s else s)

/-- The pulse that a slice's pulser makes when it fires in this BP: the step of AMP × 4 mV, FINE bins after the BP boundary, onto
0.5 pF or 8 pF, in the signal direction of the polarity in effect (R208, R209). -/
def State.pulseOf (s : State) (c : Nat) : Pulse :=
  let amp := (F.AFE_PAMP_AMP c).rd s
  { firing := s.bp, step := s.tag.bins ((F.AFE_PULSE_FINE c).rd s), mv := amp * 4
    charge := if (F.AFE_PULSE_CAP c).is s then amp * 32 else amp * 2, inward := (F.AFE_CFG_POL c).is s }

/-- A pulser is busy at an instant in bins: for 32 BP and 1 µs from its step (R211). 1 µs is between 30720 and 47104 bins over
the range of R10; in between the outcome is open. DESIGN CHOICE (log 19). -/
def State.pulserBusy (s : State) (c at_ : Nat) : Bool :=
  match (s.slice c).pulse with
  | none => false
  | some p => Nat.blt at_ (p.step + 63488) || (Nat.blt at_ (p.step + 79872) && Config.freeBit s.free)

/-- A firing of a slice's pulser: with an amplitude, a powered stage and outside the busy interval it injects its charge (R208,
R211, R245). -/
def firePulser (c : Nat) (s : State) : State :=
  let p := s.pulseOf c
  if s.stagePowered c && !s.adcCal && !(p.mv == 0) then
    if s.pulserBusy c p.step then s.drew 1 else (s.drew 1).modSlice c fun x => { x with pulse := some p }
  else s

/-- The pulser's BCID comes (R209, Table 7-3). -/
def execPulserFire (c : Chan) (s : State) : Host.Outcome State Fault Refusal :=
  .next (if s.coreOn && s.hasChan c && Nat.ble 2 ((F.AFE_PULSE_SRC c).rd s) && (F.AFE_PULSE_BCID c).rd s == s.bcid then
      firePulser c s
    else s)

/-- A change of the FTO enable takes effect while the quadrant's OR and stretcher are low (R220). -/
def execFtoEnableApply (n : Fin 4) (s : State) : Host.Outcome State Fault Refusal :=
  .next (if s.coreOn && s.hasQuad n && s.ftoLow n s.nowBins then
      (s.drew 1).setFto n { s.ftoOf n with en := (F.TRG_FTOCFG_EN n).is s }
    else s)

/-! ### Trigger-bus cells -/

/-- A line of the trigger bus. -/
def State.line (s : State) (n : Nat) : TbLine := sget (fun _ => {}) s.tb n

/-- Change a line of the trigger bus. -/
def modLine (n : Nat) (f : TbLine → TbLine) (s : State) : State := { s with tb := sput (fun _ => {}) n (f (s.line n)) s.tb }

/-- The timing cell of a line. -/
def State.tbCell (s : State) (n : Nat) : TbCell := sget (fun _ => {}) s.tbCells n

/-- The factors of an interpolator of a timing cell. DEDUCED (log 49). -/
def TbCell.cal (x : TbCell) (k : Nat) : Nat := (if k = 0 then x.cal0 else if k = 1 then x.cal1 else x.cal2).toNat

/-- The fine time of an edge in a timing cell: rising edges by the LEAD interpolator, falling ones by the TRAIL one (R276).
DEDUCED (log 49). -/
def TbCell.fine (x : TbCell) (rising : Bool) (raw e : BitVec 7) : Nat :=
  let w := x.cal (if rising then x.lead else x.trail)
  fineTime (w % 65536) (w / 65536) raw.toNat e.toNat

/-- The timing-clock cycle, counted over all BP, at which the receiver is sampled after an edge of this BP whose interval cycle e
ends: the first phase-0 edge that follows it (R258, R329). -/
def State.sampleCycle (s : State) (e : BitVec 7) : Nat := s.bp * 64 + (e.toNat - 1)

/-- The delay of a line in timing-clock cycles (R329). -/
def State.lineDelay (s : State) (n : Nat) : Nat := (F.TRG_TBCOMP_COARSE n).rd s * 64 + (F.TRG_TBCOMP_FINE n).rd s

/-- A line's received level changes at a timing-clock cycle: a rising edge is delayed and will be a compensated one where the line
has been low for 1 BP (R329). -/
def lineEdge (n : Nat) (rising : Bool) (at_ : Nat) (s : State) : State :=
  let x := s.line n
  let low := match x.fell with | some f => Nat.ble (f + 64) at_ | none => true
  if rising then
    modLine n (fun x => { x with level := true, edges := if low then x.edges ++ [(at_ + s.lineDelay n) / 64] else x.edges }) s
  else modLine n (fun x => { x with level := false, fell := some at_ }) s

/-- An armed cell captures an edge of its polarity, before the delay of the line, and is disarmed (R276). DEDUCED (log 49). -/
def captureEdge (n : Nat) (rising : Bool) (raw e : BitVec 7) (s : State) : State :=
  if (F.TDC_TBCAP_ARM n).is s && !((F.TDC_TBCAP_EDGE n).is s == rising) then
    let x := s.tbCell n
    let s := (F.TDC_TBCAP_ARM n).wr 0 ((F.TDC_TBCAP_VALID n).wr 1 ((F.TDC_TBCAP_AGED n).put (!x.fresh) s))
    let s := (F.TDC_TBCAP_BCID n).wr s.bcid ((F.TDC_TBCAP_FINE n).wr (x.fine rising raw e) s)
    (F.TDC_TBORB_ORBIT n).wr s.orbit.toNat s
  else s

/-- An edge on a trigger-bus line: the line's level, its compensated edge to come, and the capture of an armed cell (R276,
R329). DEDUCED (log 49). -/
def execTbLineEdge (n : Fin 4) (rising : Bool) (raw e : BitVec 7) (s : State) : Host.Outcome State Fault Refusal :=
  .next (if s.coreOn && !((s.line n).level == rising) then captureEdge n rising raw e (lineEdge n rising (s.sampleCycle e) s)
    else s)

end Sys2Proof.Machine
end

