-- ==== Sys2Proof/Machine/Filter.lean ====
section
/-!
DEFINITION. Sys2Proof/Machine/Filter.lean: the filter chain of a channel and its threshold-event detector (R279 to R295).
-/
namespace Sys2Proof.Machine

/-- A setting set of a channel's chain and detector (Table 10-9). -/
structure FltSet where
  rank : Nat
  k : Nat
  form : Nat
  ntap : Nat
  ref : Nat
  dec : Nat
  coef : List Int
  dir : Nat
  seq : Bool
  level : Int
  hyst : Int

/-- A setting set read through a reader of fields. -/
def fltSetBy (rd : Fld → Nat) (c : Nat) : FltSet :=
  { rank := rd (F.FLT_CFG_RANK c), k := rd (F.FLT_CFG_K c), form := rd (F.FLT_CFG_FORM c), ntap := rd (F.FLT_CFG_NTAP c)
    ref := rd (F.FLT_CFG_REF c), dec := rd (F.FLT_CFG_DEC c)
    coef := (List.range 16).map fun j => signedOf 18 (rd (F.FLT_COEF_H c j))
    dir := rd (F.FLT_TEVCFG_DIR c), seq := rd (F.FLT_TEVCFG_SEQ c) == 1, level := signedOf 20 (rd (F.FLT_TEVLVL_LEVEL c)), hyst := (rd (F.FLT_TEVHYS_HYST c) : Nat) }

/-- The setting set that was in effect at a BP (R289). -/
def State.fltSet (s : State) (bp c : Nat) : FltSet := fltSetBy (fun f => f.at bp s) c

/-- A setting set is valid (R290). -/
def FltSet.valid (t : FltSet) : Bool :=
  !(t.form == 3) && (!(t.form == 1) || (t.ntap % 2 == 1 && Nat.ble 3 t.ntap)) &&
    (!(t.form == 2) || (Nat.ble 1 t.ntap && Nat.ble t.ntap 16 && Nat.blt t.ref t.ntap)) && Nat.ble t.dec 4 &&
    (!(t.rank == 3) || (Nat.ble 1 t.k && Nat.ble t.k 5))

/-- The delay of the rank filter in samples (Table 10-1). -/
def FltSet.dRank (t : FltSet) : Nat := if t.rank = 0 then 0 else if t.rank = 1 then 1 else 2

/-- The delay of the FIR in samples (Table 10-2). -/
def FltSet.dFir (t : FltSet) : Nat := if t.form = 1 then (t.ntap - 1) / 2 else if t.form = 2 then t.ref else 0

/-- The decimation ratio (Table 10-3). -/
def FltSet.ratio (t : FltSet) : Nat := 2 ^ t.dec

/-- The delay of the decimator in samples: floor((R - 1) / 2) (R286). -/
def FltSet.dDec (t : FltSet) : Nat := (t.ratio - 1) / 2

/-- The saturation mark (R281). -/
def satMark : Int := 0x7FFFF

/-- A chain value of a place before the first sample (R280). -/
def ChainVal.zero : ChainVal := ⟨0, false⟩

/-- A place of the chain's history, counted back from the newest sample. -/
def histAt (hist : List Samp) (p : Nat) : ChainVal :=
  match hist[p]? with
  | some x => ⟨x.value, x.g⟩
  | none => .zero

/-- Insert a value in ascending order of VALUE. -/
def rankInsert (v : ChainVal) : List ChainVal → List ChainVal
  | [] => [v]
  | a :: r => if v.value ≤ a.value then v :: a :: r else a :: rankInsert v r

/-- The rank filter's output tagged with the place p (R283): the selected rank of the window, by VALUE. A place before the first
sample counts as zero (R280). -/
def FltSet.rankAt (t : FltSet) (hist : List Samp) (p : Nat) : ChainVal :=
  if hist.length ≤ p then .zero
  else
  let d := t.dRank
  let win := (List.range (2 * d + 1)).map fun i => histAt hist (p - d + i)
  let sorted := win.foldr rankInsert []
  let pick := if t.rank = 0 then 0 else if t.rank = 1 then 1 else if t.rank = 2 then 2 else t.k - 1
  ⟨((sorted[pick]?).getD .zero).value, win.any fun v => v.g⟩

/-- The coefficient of tap i (R284, R285). -/
def FltSet.tap (t : FltSet) (i : Nat) : Int :=
  (t.coef[if t.form = 1 then Nat.min i (t.ntap - 1 - i) else i]?).getD 0

/-- The FIR's output for the newest sample, and whether it was clipped (R281, R282, R284). -/
def FltSet.firNow (t : FltSet) (hist : List Samp) : ChainVal × Bool :=
  if t.form = 0 then (t.rankAt hist t.dRank, false)
  else
    let taps := (List.range t.ntap).map fun i => (t.tap i, t.rankAt hist (t.dRank + i))
    let g := taps.any fun x => x.2.g
    if taps.any fun x => x.2.value == satMark then (⟨satMark, g⟩, false)
    else
      let y := rne ((taps.map fun x => x.1 * x.2.value).sum) 65536
      if y < -0x80000 then (⟨-0x80000, g⟩, true)
      else if 0x7FFFE < y then (⟨0x7FFFE, g⟩, true)
      else (⟨y, g⟩, false)

/-- The decimator's output for a whole block (R281, R286). -/
def decimate (blk : List ChainVal) : ChainVal :=
  let g := blk.any fun v => v.g
  match blk with
  | [v] => v
  | _ =>
    if blk.any fun v => v.value == satMark then ⟨satMark, g⟩
    else ⟨rne ((blk.map fun v => v.value).sum) blk.length, g⟩

/-- An output as the detector compares it: a saturation mark is above every level (R293). -/
def tevValue (v : Int) : Int := if v = satMark then 2 ^ 21 else v

/-- The detector's initial state from the output that ends blanking: true is disarmed or above (Table 10-6). -/
def FltSet.initial (t : FltSet) (v : Int) : Bool :=
  if t.dir = 1 then !decide (v < t.level) else if t.dir = 2 then !decide (t.level < v)
  else if t.dir = 3 then decide (t.level ≤ v) else false

/-- The detector's next state and the direction of an event (Table 10-6): none, or whether it falls. -/
def FltSet.detect (t : FltSet) (above : Bool) (v : Int) : Bool × Option Bool :=
  if t.dir = 1 then
    if above then (!decide (v ≤ t.level - t.hyst), none)
    else if t.level ≤ v then (true, some false) else (false, none)
  else if t.dir = 2 then
    if above then (!decide (t.level + t.hyst ≤ v), none)
    else if v ≤ t.level then (true, some true) else (false, none)
  else if t.dir = 3 then
    if above then (if v ≤ t.level - t.hyst then (false, some true) else (true, none))
    else if t.level ≤ v then (true, some false) else (false, none)
  else (false, none)

/-- A chain output reaches the detector and `FLT.OUT` (R291 to R293); `back` is the place of its tag. An
event falls 8 BP after the BP of the newest sample it needs (R292). DEDUCED (log 48). -/
def chainOutput (c back idx : Nat) (t : FltSet) (v : ChainVal) (s : State) : State :=
  let s := (F.FLT_OUT_G c).put v.g ((F.FLT_OUT_VALUE c).wrInt v.value s)
  let x := s.slice c
  let w := tevValue v.value
  if x.blank then
    if x.since + 64 ≤ idx + 1 then s.setSlice c { x with blank := false, above := t.initial w } else s
  else
    let d := t.detect x.above w
    let x := { x with above := d.1 }
    match d.2, x.ring[back]?, x.ring.head? with
    | some falling, some k, some n =>
      s.setSlice c { x with tevs := x.tevs ++ [⟨k.tag, k.half, falling, n.tag.bp + 8, t.seq⟩] }
    | _, _, _ => s.setSlice c x

/-- The chain as a sample of a BP finds it: cleared by a stop of its input before, and with a new block and a blanked detector where
a setting set has taken effect (R280, R287, R291). -/
def Slice.chainFor (x : Slice) (bp : Nat) : Slice :=
  let later := x.stops.filter fun b => Nat.blt bp b
  let x := if later.length < x.stops.length then { x.chainClear with stops := later } else x
  match x.fltNew with
  | some b => if b ≤ bp then { x with fltNew := none, since := x.entered, blk := [], blank := true } else x
  | none => x

/-- One corrected sample, the newest of the slice's history, enters the chain (R279 to R291). Every FIR output exists; those tagged
before the first sample of a setting set enter no block (R282, R287). -/
def chainStep (c : Nat) (n : Samp) (s : State) : State :=
  let x := (s.slice c).chainFor n.tag.bp
  let idx := x.entered
  let x := { x with entered := idx + 1 }
  let t := s.fltSet n.tag.bp c
  let d := t.dRank + t.dFir
  let y := t.firNow (x.ring.take (Nat.min x.entered 64))
  let enters := decide (x.since + d ≤ idx)
  let blk := if enters then y.1 :: x.blk else x.blk
  let full := enters && Nat.ble t.ratio blk.length
  let s := s.setSlice c { x with blk := if full then [] else blk }
  let s := if y.2 then raiseFlag F.FLT_STICKY_CLIP.addr 0 ((F.FLT_TSTAT1_CLIPS c).count 1 s) else s
  if full then chainOutput c (d + t.dDec) idx t (decimate blk) s else s

end Sys2Proof.Machine
end

