-- ==== Sys2Proof/Machine/Adc.lean ====
section
/-!
DEFINITION. Sys2Proof/Machine/Adc.lean: conversion, per-core values, range stitching and converter statistics of a slice
(R225 to R254), and the delivery of corrected samples to their consumers (R234, R280, R315, R317, R325).
-/
namespace Sys2Proof.Machine

/-- The per-core value of a core code under a gain and an offset (R231). -/
def coreValue (gain : Nat) (off : Int) (code : Nat) : Int :=
  rne ((gain : Int) * (16 * ((code : Int) - 1024) - off)) (16384 * 16)

/-- The low-range value rne(K × x_B) (R232). -/
def lowValue (k : Nat) (xB : Int) : Int := rne ((k : Int) * xB) 2048

/-- The conversion of a slice at a sampling edge, from its core codes, under the factors and settings of that BP.
DEDUCED (log 43). -/
def State.convOf (s : State) (c : Nat) (e : Tag) (codeA codeB : BitVec 14) : Conv :=
  let xA := coreValue ((F.ADC_CALA_GAIN c).at e.bp s) ((F.ADC_CALA_OFF c).intAt e.bp s) codeA.toNat
  let xB := coreValue ((F.ADC_CALB_GAIN c).at e.bp s) ((F.ADC_CALB_OFF c).intAt e.bp s) codeB.toNat
  { tag := e, codeA := codeA, codeB := codeB, xA := xA, xB := xB, xBlow := lowValue ((F.ADC_RQ_K c).at e.bp s) xB
    hit := Nat.ble (Nat.max 0x0800 ((F.ADC_CFG_LEVEL c).at e.bp s)) codeA.toNat
    inter := (F.ADC_CFG_MODE c).at e.bp s == 1 }

/-- The stitcher puts a dual-gain conversion in low range: one from n - 4 to n + 2 reaches the switch level (R236). -/
def inLowRange (l : List Conv) (n : Conv) : Bool :=
  l.any fun m => m.hit && !m.inter && Nat.ble n.tag.bp (m.tag.bp + 4) && Nat.ble m.tag.bp (n.tag.bp + 2)

/-- A value of a core, or the saturation mark for its top code (R233). -/
def marked (code : BitVec 14) (v : Int) : Int := if code.toNat = 16383 then satMark else v

/-- The corrected samples of a conversion (R230 to R233): one in dual-gain mode, two in interleaved mode. -/
def Conv.samples (l : List Conv) (n : Conv) : List Samp :=
  if n.inter then
    let a := marked n.codeA n.xA
    let b := marked n.codeB n.xB
    [{ tag := n.tag, half := false, value := a, g := false, high := a, low := a, under := n.codeA == 0 },
     { tag := n.tag, half := true, value := b, g := false, high := b, low := b, under := n.codeB == 0 }]
  else
    let lowV := marked n.codeB n.xBlow
    if inLowRange l n then
      [{ tag := n.tag, half := false, value := lowV, g := true, high := n.xA, low := lowV, under := n.codeB == 0 }]
    else [{ tag := n.tag, half := false, value := n.xA, g := false, high := n.xA, low := lowV, under := n.codeA == 0 }]

/-! ### Converter statistics -/

/-- A number of `n` bits taken apart or put together in 32-bit words. -/
def joinWords (hi lo : Nat) : Nat := hi * 2 ^ 32 + lo

/-- The accumulator block takes one BP of conversions; an addition that would overflow stops it (R251, R252). -/
def accumulate (c : Nat) (xA xB : Int) (s : State) : State :=
  if (F.ADC_ACC0_SAT c).is s then s
  else
    let count := (F.ADC_ACC0_COUNT c).rd s + 1
    let sumA := signedOf 48 (joinWords ((F.ADC_ACC2_SUMAH c).rd s) ((F.ADC_ACC1_SUMAL c).rd s)) + xA
    let sumB := signedOf 48 (joinWords ((F.ADC_ACC2_SUMBH c).rd s) ((F.ADC_ACC3_SUMBL c).rd s)) + xB
    let sqA := joinWords ((F.ADC_ACC5_SQAH c).rd s) ((F.ADC_ACC4_SQAL c).rd s) + (xA * xA).toNat
    let sqB := joinWords ((F.ADC_ACC7_SQBH c).rd s) ((F.ADC_ACC6_SQBL c).rd s) + (xB * xB).toNat
    let fits := fun (v : Int) => decide (-(2 ^ 47) ≤ v) && decide (v < 2 ^ 47)
    if Nat.blt count (2 ^ 31) && fits sumA && fits sumB && Nat.blt sqA (2 ^ 64) && Nat.blt sqB (2 ^ 64) then
      let s := (F.ADC_ACC0_COUNT c).wr count s
      let s := (F.ADC_ACC1_SUMAL c).wr (wrapTo 48 sumA) ((F.ADC_ACC2_SUMAH c).wr (wrapTo 48 sumA / 2 ^ 32) s)
      let s := (F.ADC_ACC3_SUMBL c).wr (wrapTo 48 sumB) ((F.ADC_ACC2_SUMBH c).wr (wrapTo 48 sumB / 2 ^ 32) s)
      let s := (F.ADC_ACC4_SQAL c).wr sqA ((F.ADC_ACC5_SQAH c).wr (sqA / 2 ^ 32) s)
      (F.ADC_ACC6_SQBL c).wr sqB ((F.ADC_ACC7_SQBH c).wr (sqB / 2 ^ 32) s)
    else (F.ADC_ACC0_SAT c).wr 1 s

/-- The min/max tracker takes one BP of conversions; an edge of the orbit that has ended enters the block that its orbit start
wrote, until a `TAKE` clears that (R253). DEDUCED (log 44). -/
def trackMinMax (c : Nat) (orb : Word) (xA xB : Int) (s : State) : State :=
  if orb ≠ s.orbit ∧ (s.slice c).mmTaken = some s.orbStart then s
  else if orb = s.orbit then
    s.modSlice c fun x => { x with minA := min x.minA xA, maxA := max x.maxA xA, minB := min x.minB xB, maxB := max x.maxB xB }
  else
    let lo := fun (f : Fld) (v : Int) (s : State) => f.wrInt (min (f.int s) v) s
    let hi := fun (f : Fld) (v : Int) (s : State) => f.wrInt (max (f.int s) v) s
    lo (F.ADC_MM0_MINA c) xA (hi (F.ADC_MM0_MAXA c) xA (lo (F.ADC_MM1_MINB c) xB (hi (F.ADC_MM1_MAXB c) xB s)))

/-! ### Delivery -/

/-- The mode that a BP of the recent past ran in. -/
def State.modeAt (s : State) (bp : Nat) : Mode :=
  match s.past bp with
  | some r => r.mode
  | none => s.mode

/-- Modes in which corrected samples exist (R280). -/
def Mode.samples : Mode → Bool
  | .stream | .capture | .test => true
  | _ => false

/-- An S record takes a corrected sample (R317). -/
def SAcc.addSample (a : SAcc) (v : Samp) : SAcc :=
  { a with count := a.count + 1, sum := a.sum + v.value, sumsq := a.sumsq + (v.value * v.value).toNat
           min := if v.value < a.min then v.value else a.min, max := if a.max < v.value then v.value else a.max
           sat := a.sat || v.value == satMark, under := a.under || v.under }

/-- A capture in progress takes a corrected sample of a selected channel, and keeps the BP of its window (R325 to R327). -/
def captureSample (c : Nat) (v : Samp) (s : State) : State :=
  let on := match s.cap.st with
    | .armed => Nat.blt s.cap.armBp v.tag.bp
    | .post => Nat.blt s.cap.armBp v.tag.bp && Nat.blt v.tag.bp (s.cap.trig.bp + s.cap.post)
    | _ => false
  if on && natBit ((F.ACQ_CAPSEL_SEL (c / 32)).rd s) (c % 32) then
    let l := sget (fun _ => []) s.cap.buf c
    let from_ := match s.cap.st with
      | .post => s.cap.trig.bp - s.cap.pre
      | _ => v.tag.bp - s.cap.pre - 40
    { s with cap := { s.cap with buf := sput (fun _ => []) c (v :: l.filter fun w => Nat.ble from_ w.tag.bp) s.cap.buf } }
  else s

/-- A window still needs a sample of a channel (R315). -/
def State.windowNeeds (s : State) (c bp : Nat) : Bool := s.wins.any fun w => w.chans.contains c && Nat.ble w.first bp

/-- One corrected sample reaches the hit logic, the S statistics, the filter chain, windows and capture (R234). -/
def deliver (c : Nat) (v : Samp) (s : State) : State :=
  let keep := fun (w : Samp) => Nat.blt v.tag.bp (w.tag.bp + 128) || s.windowNeeds c w.tag.bp
  let s := s.modSlice c fun x => { x with ring := v :: x.ring.filter keep }
  let s := if s.modeAt v.tag.bp = .stream then modAcc c v.tag.orbit (fun a => a.addSample v) s else s
  captureSample c v (chainStep c v s)

/-- A slice converted its input at a sampling edge of the recent past (R227, R246, R85): `acq` for acquisition, else under
`CONV` (R181). DEDUCED (log 43). -/
def State.converted (s : State) (c : Nat) (e : Tag) (acq : Bool) : Bool :=
  (F.ADC_CFG_EN c).at e.bp s == 1 && s.hasChan c && (s.quadsAt e.bp).getLsbD (c / 64) &&
    Nat.ble (s.slice c).from_ e.bp && !s.stoppedAt (c / 16) e.bp &&
    (if acq then (s.modeAt e.bp).samples
      else match s.quadConv (c / 64) with
        | some r =>
          (match r.first with | some f => Nat.ble f e.bp && Nat.blt e.bp r.stop | none => false) ||
            (match r.prev with | some p => Nat.ble p.1 e.bp && Nat.blt e.bp p.2 | none => false)
        | none => false)

/-- The codes of a slice's newest sampling edge, that of 2 BP ago, reach the stitcher, which delivers the samples of the edge
of 4 BP ago; an edge has one conversion of each core (R225, R231 to R237, R251). DEDUCED (log 43). -/
def execCorrectedSampleDelivered (c : Chan) (codeA codeB : BitVec 14) (s : State) : Host.Outcome State Fault Refusal :=
  let e := s.tagAgo 2
  .next (if s.coreOn && s.hasChan c && Nat.ble 2 s.bpHist.length && !((s.slice c).edgeDone == some e.bp) then
      let n := s.convOf c e codeA codeB
      let acq := s.converted c e true
      let s := if acq || s.converted c e false then trackMinMax c e.orbit n.xA n.xB (accumulate c n.xA n.xB s) else s
      let s := s.modSlice c fun x =>
        { x with edgeDone := some e.bp, conv := (if acq then [n] else []) ++ x.conv.filter fun m => Nat.ble e.bp (m.tag.bp + 6) }
      let l := (s.slice c).conv
      match l.find? fun m => m.tag.bp + 2 == e.bp with
      | some m => (m.samples l).foldl (fun s v => deliver c v s) s
      | none => s
    else s)

end Sys2Proof.Machine
end

