-- ==== Sys2Proof/Machine/Marks.lean ====
section
/-!
DEFINITION. Sys2Proof/Machine/Marks.lean: the credits of classes H and W (R322), marks and their windows (R313 to R315), the
trigger bus (R329, R330), threshold events (R294) and the trigger of a capture (R327).
-/
namespace Sys2Proof.Machine

/-! ### Credits -/

/-- The credit of class H, or of class W. -/
def creditFld (w : Bool) : Fld := if w then F.ACQ_CREDW_CREDIT else F.ACQ_CREDH_CREDIT

/-- The declared rate of class H or class W in effect. -/
def State.decl (s : State) (w : Bool) : Nat := (F.PWR_DECL_RATE (if w then 1 else 0)).rd s

/-- The cap of a credit: DECL × DEPTH, with a depth below 64 taken as 64 (R322, Table 11-14). -/
def State.creditCap (s : State) (w : Bool) : Nat := s.decl w * Nat.max 64 (F.ACQ_METER_DEPTH.rd s)

/-- A credit. -/
def State.credit (s : State) (w : Bool) : Int := (creditFld w).int s

/-- A credit is charged; it does not fall below −cap (R322). -/
def chargeCredit (w : Bool) (cost : Nat) (s : State) : State :=
  (creditFld w).wrInt (max (s.credit w - (cost : Int)) (-(s.creditCap w : Int))) s

/-- The refills of both credits at n BP boundaries (R322). -/
def refillCredits (n : Nat) (s : State) : State :=
  let one := fun (w : Bool) (s : State) => (creditFld w).wrInt (min (s.credit w + ((n * s.decl w : Nat) : Int)) (s.creditCap w : Int)) s
  one true (one false s)

/-- The credits at the start of STREAM (R322). -/
def startCredits (s : State) : State :=
  let one := fun (w : Bool) (s : State) => (creditFld w).wrInt (s.creditCap w : Int) s
  one true (one false s)

/-- What a record that opens a packet is charged beside its own bits: header and trailer, and the stored header where
compression is requested (R322). -/
def State.openCost (s : State) (c : Cls) : Nat := 1600 + (if s.creq c then 160 else 0)

/-- The packet-opening charge of a record as its class stands. -/
def State.openCharge (s : State) (w : Waiting) : Nat := if s.opens w then s.openCost w.cls else 0

/-! ### Windows -/

/-- PRE and POST of windows at a BP, clipped to their ranges (Table 11-14). -/
def State.wwin (s : State) (bp : Nat) : Nat × Nat :=
  (Nat.min (F.ACQ_WWIN_PRE.at bp s) 64, Nat.max 1 (Nat.min (F.ACQ_WWIN_POST.at bp s) 448))

/-- The channels a window covers: selected, present and enabled for conversion (R315, R331). DEDUCED (log 45). -/
def State.windowChans (s : State) (bp : Nat) : List Nat :=
  s.chans.filter fun c => natBit ((F.ACQ_WSEL_SEL (c / 32)).at bp s) (c % 32) && (F.ADC_CFG_EN c).at bp s == 1

/-- The charge of the sample words of a channel for a number of BP (R316, R322). -/
def State.wordsCost (s : State) (bp c n : Nat) : Nat := 640 * ceilDiv (n * (1 + (F.ADC_CFG_MODE c).at bp s)) 3

/-- What a window-opening mark is to pay for a channel: a W record of n BP (R322). -/
def State.openingCost (s : State) (bp n c : Nat) : Nat := 640 + s.wordsCost bp c n

/-- What an extension of a window from n BP to m BP is to pay for a channel (R322). -/
def State.extendCost (s : State) (bp n m c : Nat) : Nat := s.wordsCost bp c m - s.wordsCost bp c n

/-- A window or an extension is thinned (R322, R323). DEDUCED (log 45). -/
def thinWindow (orb : Word) (l : List Nat) (s : State) : State :=
  overList l (fun c => modAcc c orb fun a => { a with thinned := Nat.min (a.thinned + 1) 65535 }) (raiseFirst 0x9031 1 s)

/-- A window whose channels have been charged for records to come. -/
def Window.pay (w : Window) (cost : Nat → Nat) : Window :=
  { w with paid := w.chans.foldl (fun m c => sput (fun _ => 0) c (sget (fun _ => 0) m c + cost c) m) w.paid }

/-- A window is decided for a charge on each of its channels: it is charged, or thinned (R322). -/
def decideWindow (w : Window) (cost : Nat → Nat) (s : State) : Option State :=
  let n := (w.chans.map cost).sum
  if s.credit true < (n : Int) then none else some (chargeCredit true n s)

/-- How many of the `pre` BP before a BP ran in STREAM without a break (R303, R315). -/
def State.streamPre (s : State) (bp pre : Nat) : Nat :=
  ((List.range pre).takeWhile fun i => Nat.blt i bp && s.modeAt (bp - 1 - i) == .stream).length

/-- A new window: it does not take BP of a window before it again. DEDUCED (log 45). -/
def freshWindow (t : Tag) (mseq : Nat) (s : State) : State × Bool × Bool :=
  let p := s.wwin t.bp
  let first := t.bp - s.streamPre t.bp p.1
  let first := match s.wins.getLast? with | some w => Nat.max first (w.last + 1) | none => first
  let w : Window := { first := first, last := t.bp + p.2 - 1, markSeq := mseq, chans := s.windowChans t.bp, starts := [] }
  let cost := s.openingCost t.bp (p.1 + p.2)
  match decideWindow w cost s with
  | some s => ({ s with wins := s.wins ++ [w.pay cost] }, true, false)
  | none => (thinWindow t.orbit w.chans s, false, true)

/-- What a window-opening mark comes to: the state, WIN and THIN. An open window takes the mark's end (R315).
DEDUCED (log 45). -/
def openWindow (t : Tag) (mseq : Nat) (s : State) : State × Bool × Bool :=
  match s.wins.getLast? with
  | some w =>
    if s.bp ≤ w.last then
      let last := t.bp + (s.wwin t.bp).2 - 1
      let cost := s.extendCost t.bp (w.last + 1 - w.first) (last + 1 - w.first)
      let move := fun (s : State) => { s with wins := s.wins.dropLast ++ [{ w.pay cost with last := last }] }
      if last ≤ w.last then (move s, true, false)
      else match decideWindow w cost s with
        | some s => (move s, true, false)
        | none => (thinWindow t.orbit w.chans s, false, true)
    else freshWindow t mseq s
  | none => freshWindow t mseq s

/-! ### Marks -/

/-- The sources of marks, by their code in Table 11-6. -/
inductive MarkSrc where
  | instr | command | bus | tev
  deriving DecidableEq, Repr

/-- SOURCE of a mark record (Table 11-6). -/
def MarkSrc.code : MarkSrc → Nat
  | .instr => 0 | .command => 1 | .bus => 2 | .tev => 3

/-- The mark of the same source and BCID that has its record already, as its MARKSEQ (R314). -/
def State.sameMark (s : State) (src : MarkSrc) (line : Nat) (t : Tag) : Option Nat :=
  (s.marks.filter fun m => m.orbit == t.orbit).findIdx? fun m => m.source == src.code && m.line == line && m.bcid == t.bcid

/-- The region that produces a mark record (Table 1-4): the quadrant of the channel of a threshold event, and Q0 for a mark of no
channel. DEDUCED (log 45). -/
def MarkSrc.region (src : MarkSrc) (ch : Nat) : Nat := match src with | .tev => ch / 64 | _ => 0

/-- A mark in STREAM: TRIG, one mark record for its source and BCID, and its window (R303, R313 to R315, R322).
DEDUCED (log 45). -/
def makeMark (src : MarkSrc) (line ch : Nat) (tag : BitVec 16) (win : Bool) (t : Tag) (s : State) : State :=
  if s.modeAt t.bp = .stream then
    let s := raiseEv (.all .trig) s
    match s.sameMark src line t with
    | some k => if win then (openWindow t (k % 65536) s).1 else s
    | none =>
      let mseq := (s.marks.filter fun m => m.orbit == t.orbit).length % 65536
      let s := { s with marks := s.marks ++ [⟨src.code, line, t.orbit, t.bcid⟩] }
      let r := if win then openWindow t mseq s else (s, false, false)
      let s := r.1
      let w : Waiting := { region := src.region ch, cls := .w, tag := t, stale := false, hold := s.inHoldover t.bp, aged := false,
                           part := false, dataBp := t.bp + 1, r := .mark src.code line r.2.1 r.2.2 t.bcid ch tag mseq }
      enterRecord w (chargeCredit true (640 + s.openCharge w) s)
  else s

/-- TRIGGER makes a mark in the BP in which it acts, where the command source is enabled; one that arrives only on the side
that is not the PLL reference is ignored (R313). DEDUCED (log 59). -/
def execTrigger (side : Side) (s : State) : Host.Outcome State Fault Refusal :=
  .next (if s.coreOn && s.clk.ref == some side && F.ACQ_MARKCFG_CMDEN.is s then
      makeMark .command 0 0 0 (F.ACQ_MARKCFG_CMDWIN.is s) s.tag s
    else s)

/-! ### The trigger-bus drivers -/

/-- A source of the drivers fires: lines that select it will be asserted 2 BP later (R330). -/
def fireDrivers (src : Nat) (s : State) : State :=
  overList (below 4 fun n => (F.TRG_TBDRV_EN n).is s && (F.TRG_TBDRV_SRC n).rd s == src && !s.stoppedAt 25 s.bp)
    (fun n => modLine n fun x => { x with dues := x.dues ++ [s.bp + 2] }) s

/-- The pulse width of a driver; 0 is taken as 1 (Table 11-15). -/
def State.tbWidth (s : State) (n : Nat) : Nat := Nat.max 1 ((F.TRG_TBDRV_WIDTH n).rd s)

/-- A line is driven for WIDTH BP from this one, with its driver enabled (R330). -/
def driveLine (n : Nat) (s : State) : State :=
  if (F.TRG_TBDRV_EN n).is s then modLine n (fun x => { x with driveEnd := Nat.max x.driveEnd (s.bp + s.tbWidth n) }) s else s

/-- The driver asserts its line 2 BP after its source fired (R330). -/
def execTbDrive (n : Fin 4) (s : State) : Host.Outcome State Fault Refusal :=
  .next (match (s.line n).dues with
    | d :: r => if s.coreOn && Nat.ble d s.bp then driveLine n (modLine n (fun x => { x with dues := r }) s) else s
    | [] => s)

/-- A pending reference pulse is driven 8 BP after its GAP_BEGIN, whatever SRC holds (R330). -/
def execTbAlignPulse (n : Fin 4) (s : State) : Host.Outcome State Fault Refusal :=
  .next (match (s.line n).alignDue with
    | some d => if s.coreOn && Nat.ble d s.bp then driveLine n (modLine n (fun x => { x with alignDue := none }) s) else s
    | none => s)

/-! ### Threshold events and the trigger of a capture -/

/-- The trigger of a capture that is armed and writes: TRIG, the trigger BP, and the count of POST BP (R327).
DEDUCED (log 47). -/
def captureTrigger (t : Tag) (s : State) : State :=
  if s.cap.st = .armed ∧ s.cap.armBp < t.bp then
    let buf := smap (fun _ => []) (fun l => l.filter fun (v : Samp) => Nat.blt v.tag.bp (t.bp + s.cap.post)) s.cap.buf
    let s := { s with cap := { s.cap with st := .post, trig := t, buf := buf } }
    raiseEv (.all .trig) (F.ACQ_CAPSTAT_BCID.wr t.bcid (F.ACQ_CAPORB_ORBIT.wr t.orbit.toNat s))
  else s

/-- The tag of a BP of the recent past. -/
def State.tagOf (s : State) (bp : Nat) : Tag := match s.past bp with | some r => r.tag | none => s.tag

/-- A compensated edge of a line that falls in a BP: a mark and a capture trigger, where the line is selected (R313, R327). -/
def compensatedEdge (n : Nat) (t : Tag) (s : State) : State :=
  let s := if natBit (F.ACQ_MARKCFG_TBEN.rd s) n then
      makeMark .bus n 0 0 (natBit (F.ACQ_MARKCFG_TBWIN.rd s) n) t s
    else s
  if F.ACQ_CAPCFG_SRC.rd s = 1 ∧ F.ACQ_CAPCFG_TBLINE.rd s = n then captureTrigger t s else s

/-- The oldest compensated edge of a line has fallen; the trigger-bus block in restart takes none (R85, R329). -/
def execTbCompensatedEdge (n : Fin 4) (s : State) : Host.Outcome State Fault Refusal :=
  .next (match (s.line n).edges with
    | b :: r =>
      if s.coreOn && Nat.ble b s.bp then
        let s := modLine n (fun x => { x with edges := r }) s
        if s.stoppedAt 25 b then s else compensatedEdge n (s.tagOf b) s
      else s
    | [] => s)

/-- The oldest threshold event of a channel goes to its destinations once its BP has come (R292, R294, R313, R327, R330).
DEDUCED (log 48). -/
def execThresholdEvent (c : Chan) (s : State) : Host.Outcome State Fault Refusal :=
  .next (match (s.slice c).tevs with
    | t :: r =>
      if s.coreOn && Nat.ble t.due s.bp then
        let s := s.modSlice c fun x => { x with tevs := r }
        let s := (Fld.mk (F.FLT_TEVMAP_MAP (c / 32)).addr (c % 32) (c % 32)).wr 1 s
        let s := (F.FLT_TSTAT0_EVENTS c).count 1 s
        let s := if t.seq then raiseEv (.group (c / 16)) s else s
        let s := if F.ACQ_MARKCFG_TEVCH.rd s = c.val then
            let s := fireDrivers 2 s
            if F.ACQ_MARKCFG_TEVEN.is s then
              makeMark .tev 0 c (BitVec.ofNat 16 (b2n t.falling)) (F.ACQ_MARKCFG_TEVWIN.is s) t.tag s
            else s
          else s
        if F.ACQ_CAPCFG_SRC.rd s ≠ 1 ∧ F.ACQ_CAPCFG_CH.rd s = c.val then captureTrigger t.tag s else s
      else s
    | [] => s)

/-! ### CALSTROBE -/

/-- CALSTROBE fires the pulsers whose source selects it (R209, R210, Table 7-3). DEDUCED (log 59). -/
def execCalstrobe (side : Side) (s : State) : Host.Outcome State Fault Refusal :=
  .next (if s.coreOn && s.clk.ref == some side then
      overList (s.chans.filter fun c => (F.AFE_PULSE_SRC c).rd s % 2 == 1) firePulser s
    else s)

end Sys2Proof.Machine
end

