-- ==== Sys2Proof/Machine/Acquire.lean ====
section
/-!
DEFINITION. Sys2Proof/Machine/Acquire.lean: hit records with their demotion and shedding (R310 to R312, R322, R323), W
records (R316), the ledger (R307, R317, R319), captures (R325 to R327) and the trigger frames (R296 to R299, R328).
-/
namespace Sys2Proof.Machine

/-! ### H records -/

/-- LEN of the feature window at a BP (Table 11-14). -/
def State.hwinLen (s : State) (bp : Nat) : Nat := Nat.max 1 (Nat.min (F.ACQ_HWIN_LEN.at bp s) 16)

/-- How many samples newer than the sample of an edge the slice holds (R310); none while that sample is not there. -/
def edgePlace (ring : List Samp) (bp fine : Nat) : Option Nat :=
  match ring.findIdx? fun v => v.tag.bp == bp && v.half == decide (512 ≤ fine) with
  | some k => some k
  | none => ring.findIdx? fun v => v.tag.bp == bp

/-- The feature window of a hit, newest sample first: LEN samples of which PRE come before the sample of the edge (R310). -/
def featureWindow (ring : List Samp) (place pre len : Nat) : List Samp :=
  let n := Nat.min len (place + pre + 1)
  (ring.drop (place + pre + 1 - len)).take n

/-- The feature window of a hit, where it is complete: its last sample has been delivered, or can no longer come (R310). -/
def State.hitWindow (s : State) (c : Nat) (h : Hit) : Option (List Samp) :=
  let b := h.tag.bp
  let pre := F.ACQ_HWIN_PRE.at b s
  let len := s.hwinLen b
  let past := Nat.blt (b + len + 4) s.bp
  match edgePlace (s.slice c).ring b h.fine with
  | some k =>
    if past || Nat.ble len (k + pre + 1) then
      some ((featureWindow (s.slice c).ring k pre len).filter fun v => Nat.ble b (v.tag.bp + 8) && Nat.ble v.tag.bp (b + 16))
    else none
  | none => if past then some [] else none

/-- The values of a feature window, all from one range: low range when any sample of it is in low range (R238). -/
def windowValues (l : List Samp) : Bool × List Int :=
  let g := l.any fun v => v.g
  (g, l.map fun v => if g then v.low else v.high)

/-- The amplitude of a feature window (R310); an empty one has none, and `free` stands for it. DESIGN CHOICE (log 46). -/
def amplitude (sum : Bool) (free : Int) (vals : List Int) : Int :=
  if vals.any fun v => v == satMark then satMark
  else if sum then max (-0x80000) (min vals.sum 0x7FFFE)
  else (maxInt vals).getD free

/-- The place of an edge in half BP. -/
def halfPlace (bp fine : Nat) : Nat := 2 * bp + b2n (decide (512 ≤ fine))

/-- Another leading edge of the channel falls within the feature window (field P of Table 11-3). -/
def otherEdge (leads : List (Nat × Nat)) (h : Hit) (inter : Bool) (l : List Samp) : Bool :=
  match l.getLast?, l.head? with
  | some a, some z =>
    let lo := 2 * a.tag.bp + b2n a.half
    let hi := 2 * z.tag.bp + (if inter then b2n z.half else 1)
    leads.any fun e => !(e.1 == h.tag.bp && e.2 == h.fine) && Nat.ble lo (halfPlace e.1 e.2) && Nat.ble (halfPlace e.1 e.2) hi
  | _, _ => false

/-- The class H and W queues hold more than the shed mark (R323). -/
def State.overShed (s : State) : Bool := Nat.blt (F.ACQ_SHED_KIB.rd s * 4) (s.fill .h + s.fill .w)

/-- A record is demoted: sent as a compact record, or shed over the shed mark (R311, R322, R323). DEDUCED (log 70). -/
def demote (c : Nat) (h : Hit) (w : Waiting) (amp : Int) (s : State) : State :=
  let s := s.modSlice c fun x => { x with cut := some h.tag.orbit }
  let s := raiseFirst 0x9031 0 s
  if s.overShed then
    modAcc c h.tag.orbit (fun a => { a with shed := a.shed + 1 }) (raiseFirst 0x9031 2 s)
  else
    let w := { w with r := .hc c h.tag.bcid (log11 amp.toNat) }
    let s := modAcc c h.tag.orbit (fun a => { a with demoted := a.demoted + 1 }) s
    enterRecord w (chargeCredit false (320 + (if s.opens w then s.openCost .h + 320 else 0)) s)

/-- A holdover interval overlaps the BP from a to b (R53). -/
def State.holdOverlaps (s : State) (a b : Nat) : Bool :=
  (s.clk.holdover && Nat.ble s.clk.holdSince b) || s.clk.holds.any fun h => Nat.ble h.1 b && Nat.ble a h.2

/-- The interval of an edge of a hit falls partly or wholly in a holdover interval (R260). -/
def State.hitHeld (s : State) (h : Hit) : Bool :=
  s.holdOverlaps h.tag.bp h.leadTo || (match h.trail with | some p => s.holdOverlaps p.1 p.2 | none => false)

/-- One more than the last BP of which the record of a hit carries an edge or a sample. -/
def Hit.dataBp (h : Hit) (l : List Samp) : Nat :=
  1 + l.foldl (fun n v => Nat.max n v.tag.bp) (Nat.max h.leadTo (match h.trail with | some p => p.2 | none => 0))

/-- A hit's record is complete: it is sent in full where its charge is at most the credit, else demoted (R310, R322).
DESIGN CHOICE (log 46), DEDUCED (log 70). -/
def hitRecord (c : Nat) (h : Hit) (l : List Samp) (s : State) : State :=
  let free : Int := signedOf 20 (s.freeNow 0).toNat
  let s := if l.isEmpty then s.drew 1 else s
  let v := windowValues l
  let amp := amplitude (F.ACQ_HWIN_AMODE.at h.tag.bp s == 1) free v.2
  let x := s.slice c
  let pile := h.double || otherEdge x.leads h ((F.ADC_CFG_MODE c).at h.tag.bp s == 1) l
  let hold := s.hitHeld h || l.any fun w => s.inHoldover w.tag.bp
  let d := x.cut == some h.tag.orbit
  let w : Waiting := { region := c / 64, cls := .h, tag := h.tag, stale := s.staleBlock (c / 16), hold := hold, aged := h.aged,
                       part := false, dataBp := h.dataBp l, r := .h c h.tag.bcid h.fine h.tot amp v.1 pile d }
  let cost := 640 + s.openCharge w
  if (cost : Int) ≤ s.credit false then
    enterRecord w (chargeCredit false cost (s.modSlice c fun x => { x with cut := none }))
  else demote c h w amp s

/-- The oldest hit of a channel that waits for its samples becomes a record; a group that has stopped sampling yields none
(R85, R310). DEDUCED (log 70). -/
def execHRecordComplete (c : Chan) (s : State) : Host.Outcome State Fault Refusal :=
  .next (match (s.slice c).waiting with
    | h :: r =>
      if s.coreOn && !s.stoppedAt (c / 16) s.bp then
        match s.hitWindow c h with
        | some l => hitRecord c h l (s.modSlice c fun x => { x with waiting := r })
        | none => s
      else s
    | [] => s)

/-! ### W records -/

/-- A sample as a W record carries it (Table 8-2). -/
def Samp.bits (v : Samp) : BitVec 21 := BitVec.ofNat 21 (b2n v.g * 2 ^ 20 + wrapTo 20 v.value)

/-- The first samples of a list, oldest first, that one W record takes: one orbit, BP in a row, at most 512 BP from `a`
(R316). -/
def wRun (a : Nat) (o : Word) : Nat → List Samp → List Samp
  | _, [] => []
  | p, v :: r =>
    if v.tag.orbit = o ∧ v.tag.bp ≤ p + 1 ∧ v.tag.bp < a + 512 then v :: wRun a o v.tag.bp r else []

/-- A W record of a run of samples of a channel (Table 11-7). -/
def State.wRecord (s : State) (c : Nat) (cont capt part : Bool) (mseq : Nat) (a : Samp) (l : List Samp) : Waiting :=
  let b := match l.getLast? with | some z => z.tag.bp | none => a.tag.bp
  { region := c / 64, cls := .w, tag := a.tag, stale := s.staleBlock (c / 16), hold := l.any fun v => s.inHoldover v.tag.bp
    aged := false, part := part, dataBp := b + 1
    r := .w c cont a.half capt part a.tag.bcid (b + 1 - a.tag.bp) (mseq % 2 ^ 14) (l.map Samp.bits) }

/-- A window without a channel, and without its place in the list when no channel is left. -/
def endChannel (i c : Nat) (s : State) : State :=
  let l := s.wins.mapIdx fun j w => if j = i then { w with chans := w.chans.filter fun d => !(d == c) } else w
  { s with wins := l.filter fun w => !w.chans.isEmpty }

/-- The next record of a channel in a window begins at a BP. -/
def nextStart (i c bp : Nat) (s : State) : State :=
  { s with wins := s.wins.mapIdx fun j w => if j = i then { w with starts := sput (fun _ => none) c (some bp) w.starts } else w }

/-- A W record of a window is charged: its own bits, beyond what its channel has been charged already, and its packet
(R322). DEDUCED (log 45). -/
def chargeRecord (i c : Nat) (r : Waiting) (s : State) : State :=
  let cost := r.r.size * 80
  let paid := match s.wins[i]? with | some w => sget (fun _ => 0) w.paid c | none => 0
  let s := { s with wins := s.wins.mapIdx fun j w => if j = i then { w with paid := sput (fun _ => 0) c (paid - cost) w.paid } else w }
  chargeCredit true (cost - paid + s.openCharge r) s

/-- The W record of a channel in its oldest window closes: at 512 BP, at an orbit start, at a break in its samples, or at the
window's end (R316, R322). -/
def closeWRecord (i c : Nat) (w : Window) (s : State) : State :=
  let from_ := (sget (fun _ => none) w.starts c).getD w.first
  let l := (s.slice c).ring.reverse.filter fun v => Nat.ble from_ v.tag.bp && Nat.ble v.tag.bp w.last
  let over_ := Nat.blt (w.last + 4) s.bp
  match l with
  | [] => if over_ then endChannel i c s else s
  | a :: _ =>
    let run := wRun a.tag.bp a.tag.orbit a.tag.bp l
    let b := match run.getLast? with | some z => z.tag.bp | none => a.tag.bp
    if run.length < l.length ∨ b = w.last ∨ a.tag.bp + 511 ≤ b ∨ over_ = true then
      let rec_ := s.wRecord c (!(sget (fun _ => none) w.starts c).isNone) false false w.markSeq a run
      let s := enterRecord rec_ (chargeRecord i c rec_ s)
      if w.last ≤ b ∨ (over_ = true ∧ run.length = l.length) then endChannel i c s else nextStart i c (b + 1) s
    else s

/-- A W record of a channel closes (R316). -/
def execWRecordClose (c : Chan) (s : State) : Host.Outcome State Fault Refusal :=
  .next (match s.wins.findIdx? fun w => w.chans.contains c.val with
    | some i => if s.coreOn then (match s.wins[i]? with | some w => closeWRecord i c w s | none => s) else s
    | none => s)

/-! ### Packets and the ledger -/

/-- An open packet closes after FLUSH BP without a new record; 0 is taken as 1 (R307, Table 11-14). -/
def execPacketCloseIdle (cls : Cls) (s : State) : Host.Outcome State Fault Refusal :=
  .next (match s.openPacket cls with
    | some p => if s.coreOn && Nat.ble (p.lastBp + Nat.max 1 (F.ACQ_METER_FLUSH.rd s) + 1) s.bp then closePacket p.pid s else s
    | none => s)

/-- The open packet of a class closes if it belongs to an orbit. -/
def closeOfOrbit (k : Word) (c : Cls) (s : State) : State :=
  match s.openPacket c with
  | some p => if p.orbit = k then closePacket p.pid s else s
  | none => s

/-- An S record of an ended interval enters the buffer; an interval without samples has no MIN and MAX, and free values stand
for them (R317, R319, Table 11-8). DESIGN CHOICE (log 46). -/
def sRecord (l : Ledger) (hold : Bool) (c : Nat) (a : SAcc) (s : State) : State :=
  let lo : Int := signedOf 20 (s.freeNow 0).toNat
  let hi : Int := signedOf 20 (s.freeNow 1).toNat
  let a := { a with hold := hold }
  let a := if a.count = 0 then { a with min := lo, max := hi } else a
  let s := if a.count = 0 then s.drew 2 else s
  let s := s.modLedger l.orbit fun l => { l with srecs := l.srecs + 1 }
  enterRecord { region := c / 64, cls := .s, tag := ⟨l.first, 0, l.orbit⟩, stale := a.stale, hold := hold, aged := a.aged,
                part := a.part, r := .s c a } s

/-- The S records of an orbit enter the buffer, channel by channel. -/
def sRecords (l : Ledger) (hold : Bool) (s : State) : State :=
  overList s.chans (fun c s =>
    let mine := (s.slice c).ended.filter fun e => e.1 == l.orbit
    let s := mine.foldl (fun s e => sRecord l hold c e.2 s) s
    s.modSlice c fun x => { x with ended := x.ended.filter fun e => !(e.1 == l.orbit) }) s

/-- A hit of a slice that began in an orbit has not yielded its record yet. -/
def Slice.owes (x : Slice) (k : Word) : Bool :=
  ((x.queue ++ x.waiting).any fun h => h.live && h.tag.orbit == k) ||
    (match x.openHit with | some h => h.live && h.tag.orbit == k | none => false)

/-- A window still has a record to write whose first BP came before a BP. -/
def Window.owes (w : Window) (bp : Nat) : Bool :=
  w.chans.any fun c => Nat.blt ((sget (fun _ => none) w.starts c).getD w.first) bp

/-- A record of the orbit of a ledger is still to come: it waits at a write port, or a hit or a window has not yielded it. -/
def State.owes (s : State) (l : Ledger) : Bool :=
  (s.waiting.any fun x => x.cls == .s || x.tag.orbit == l.orbit) || (s.slices.any fun e => e.2.owes l.orbit) ||
    s.wins.any fun w => w.owes (l.final + 1)

/-- The trailer of an orbit's ledger enters as the last record of its last S packet, after every S record that waits and every
other record of the orbit; every packet of the orbit closes, and the ledger is closed (R307, R319). DEDUCED (log 44). -/
def enterTrailer (w : Waiting) (l : Ledger) (s : State) : State × Bool :=
  if s.owes l then (s, false)
  else
    let s := closeOfOrbit l.orbit .m (closeOfOrbit l.orbit .w (closeOfOrbit l.orbit .h s))
    let s := if s.opens w then closeClass .s s else s
    let now := match s.ledgers.find? fun x => x.orbit == l.orbit with | some x => x | none => l
    let r := tryEnter { w with r := .trailer { now with pktS := now.pktS + 1 } } s
    if r.2 then
      let s := closeClass .s r.1
      (F.ACQ_LEDGER_ORBIT.wr l.orbit.toNat { s with ledgers := s.ledgers.filter fun x => !(x.orbit == l.orbit) }, true)
    else (r.1, false)

/-- A waiting record tries to enter. -/
def tryWaiting (w : Waiting) (s : State) : State × Bool :=
  match w.r with
  | .trailer l => enterTrailer w l s
  | _ => tryEnter w s

/-- One waiting record, out of its place, tries to enter; without space it keeps its place. -/
def grantOne (w : Waiting) (s : State) : State × Bool :=
  let r := tryWaiting w { s with waiting := s.waiting.erase w }
  if r.2 then r else ({ r.1 with waiting := s.waiting }, false)

/-- How far a block is from its turn, when another one was served last: the next higher number comes first (R340). -/
def turnsTo (last b : Nat) : Nat := (b + 31 - last) % 32

/-- The record of a list whose block's turn comes first; of one block, the oldest. -/
def nextTurn (last : Nat) : List Waiting → Option Waiting
  | [] => none
  | a :: r =>
    match nextTurn last r with
    | none => some a
    | some b => some (if turnsTo last b.r.block < turnsTo last a.r.block then b else a)

/-- The waiting record that a region's write port serves next, of all but S records, restart entries and trailers: the one at its
head, which it does not pass, else that of the block whose turn it is (R340). -/
def State.portNext (s : State) (region : Nat) : Option Waiting :=
  let l := s.waiting.filter fun w => w.region == region && w.cls != .s
  match l.find? fun w => w.why == .head with
  | some w => some w
  | none => nextTurn (sget (fun _ => 31) s.served region) l

/-- The first of equal records in a list stands at the head of its port. -/
def headOfPort (w : Waiting) : List Waiting → List Waiting
  | [] => []
  | a :: r => if a = w then { a with why := .head } :: r else a :: headOfPort w r

/-- A waiting record tries to enter; where it cannot, it stands at the head of its port, and one that has waited for write cycles
alone waits for space from now on (R340). -/
def grantTo (w : Waiting) (s : State) : State × Bool :=
  let r := grantOne w s
  if r.2 then (servedBlock w r.1, true)
  else
    let t := { r.1 with waiting := headOfPort w r.1.waiting }
    (if w.why = .ring then raiseFlag 0xA00A 4 t else t, false)

/-- The write port of a region serves its oldest waiting S record, restart entry or trailer, and else the record whose turn it is
(R339, R340). DEDUCED (log 75). -/
def grantRegion (region : Nat) (s : State) : State :=
  if s.ringFills then s
  else
    let other := fun (s : State) => match s.portNext region with | some w => (grantTo w s).1 | none => s
    match s.waiting.find? fun w => w.region == region && w.cls == .s with
    | some w => let r := grantTo w s; if r.2 then r.1 else other r.1
    | none => other s

/-- A region's write port serves what waits at it, n times. -/
def drainRegion (region : Nat) : Nat → State → State
  | 0, s => s
  | n + 1, s => drainRegion region n (grantRegion region s)

/-- The scrubber writes its corrected words back (R335, R336, R351). -/
def writeBack (s : State) : State :=
  { s with bufErr := s.bufErr.filter fun e => !(s.scrubBack.contains e.1), scrubBack := [] }

/-- A capture ring is no longer filled: the records that waited for write cycles enter, and the scrubber writes back (R336). -/
def drainWaiting (s : State) : State :=
  let n := s.waiting.length
  writeBack (overList (List.range 6) (fun r s => drainRegion r n s) s)

/-- A trailer waits for space. -/
def State.trailerWaits (s : State) : Bool := s.waiting.any fun w => match w.r with | .trailer _ => true | _ => false

/-- 64 BP after the end of an orbit its ledger is written: the S records and the trailer enter (R307, R319). A trailer that finds
a record of its orbit still to come waits at its port. DEDUCED (log 44). -/
def execLedgerTrailer (s : State) : Host.Outcome State Fault Refusal :=
  .next (match s.ledgers with
    | l :: _ =>
      if s.coreOn && l.ended && Nat.ble 64 l.age && !s.trailerWaits then
        let hold := s.holdOverlaps l.first l.final
        let s := s.modLedger l.orbit fun l => { l with hold := hold }
        let s := sRecords l hold s
        let w : Waiting := { region := regionC, cls := .s, tag := ⟨l.first, 0, l.orbit⟩, stale := s.staleBlock 26, hold := hold,
                             aged := false, part := false, r := .trailer l }
        if s.ringFills then { s with waiting := s.waiting ++ [{ w with why := .ring }] }
        else
          let r := enterTrailer w l s
          if r.2 then r.1 else waitSpace .head w r.1
      else s
    | [] => s)

/-! ### Captures -/

/-- The channels a capture takes: selected, present and enabled (R325). -/
def State.capChans (s : State) : List Nat :=
  s.chans.filter fun c => natBit ((F.ACQ_CAPSEL_SEL (c / 32)).rd s) (c % 32) && s.enabled c

/-- The capture area in pages of 256 bytes, from AREA clipped to 1 to 8 (R325). -/
def State.capArea (s : State) : Nat := 256 * Nat.max 1 (Nat.min (F.ACQ_CAPCFG_AREA.rd s) 8)

/-- The BP that fit in the area: each selected channel has an equal share, three samples to a word (R326, R341). -/
def State.capFits (s : State) : Nat :=
  let l := s.capChans
  let share := s.capArea * 256 / Nat.max 1 l.length / 8 * 3
  if l.any s.inter then share / 2 else share

/-- The effective POST and PRE of a capture (R326). -/
def State.capEff (s : State) : Nat × Nat :=
  let b := s.capFits
  let post := Nat.min (Nat.max 1 (F.ACQ_CAPWIN_POST.rd s)) b
  (post, Nat.min (F.ACQ_CAPWIN_PRE.rd s) (b - post))

/-- The capture area is allocated, and writing starts at the next BP boundary, once the last capture has been released and
the free pages allow it (R325, R341). DEDUCED (log 47). -/
def allocCapture (s : State) : State :=
  let n := s.capArea
  if s.cap.st = .waitRel ∧ s.capPackets = false ∧ s.pagesFor .w n = true then
    let t := s.takePages n
    { t.2 with cap := { t.2.cap with st := .armed, chain := t.1, armBp := s.bp, buf := [] } }
  else s

/-- A waiting capture area is allocated (R341). -/
def execCaptureAreaAlloc (s : State) : Host.Outcome State Fault Refusal := .next (if s.coreOn then allocCapture s else s)

/-- A capture is disarmed without a trigger (R101, R187). -/
def disarm (s : State) : State :=
  hubRecord 9 [] (drainWaiting { s with cap := { s.cap with
    st := if s.capPackets then .sending else .off, chain := if s.capPackets then s.cap.chain else [], buf := [] } })

/-- The records of one channel of a capture: split at 512 BP and at orbit starts (R316, R327). -/
def capRecords (c : Nat) (part : Bool) : Nat → Bool → List Samp → State → State
  | 0, _, _, s => s
  | _ + 1, _, [], s => s
  | n + 1, cont, a :: r, s =>
    let run := wRun a.tag.bp a.tag.orbit a.tag.bp (a :: r)
    capRecords c part n true ((a :: r).drop run.length) (enterRecord (s.wRecord c cont true part 0 a run) s)

/-- The capture is sent as class W records after its report, and it is disarmed (R327). -/
def sendCapture (s : State) : State :=
  let k := s.cap
  let part := Nat.blt (k.trig.bp - (k.armBp + 1)) k.pre
  let body := [k.trig.orbit, BitVec.ofNat 32 k.trig.bcid, BitVec.ofNat 32 (k.post * 65536 + k.pre)]
  let s := hubRecord 6 body (drainWaiting { s with cap := { k with st := .sending, buf := [] } })
  let s := overList (k.buf.map Prod.fst) (fun c s =>
    let l := (sget (fun _ => []) k.buf c).reverse.filter fun v => Nat.ble k.trig.bp (v.tag.bp + k.pre)
    capRecords c part l.length false l s) s
  freeArea s

/-- The effective POST BP have been written: the capture is sent (R327). -/
def execCaptureDone (s : State) : Host.Outcome State Fault Refusal :=
  .next (if s.coreOn && s.cap.st == .post && Nat.ble (s.cap.trig.bp + s.cap.post + 3) s.bp then
      sendCapture s
    else s)

/-! ### Trigger frames -/

/-- The four most recent corrected samples of a channel at a BP (R296). -/
def State.taps (s : State) (c m : Nat) : List Samp := ((s.slice c).ring.filter fun v => Nat.ble v.tag.bp m).take 4

/-- A channel contributes to the primitives: enabled, and not quarantined in the BP in which the channel sums are formed, 4 BP
after the sampling edge (R297, Table 10-8). DEDUCED (log 50). -/
def State.contributes (s : State) (c m : Nat) : Bool := (F.ADC_CFG_EN c).at m s == 1 && s.hasChan c && !s.quarAt (m + 4) c

/-- The channel sum (R296). -/
def State.chanSum (s : State) (c m : Nat) : Int := ((s.taps c m).map fun v => v.value).sum

/-- The hit bit of a channel (R297). -/
def State.hitBit (s : State) (c m : Nat) : Bool := s.contributes c m && decide ((F.TRG_THIT_LEVEL c).intAt m s ≤ s.chanSum c m)

/-- The channel has an onset in a BP (R297). -/
def State.onset (s : State) (c m : Nat) : Bool := s.hitBit c m && !s.hitBit c (m - 1)

/-- The primitives of a group for a BP (R297). -/
structure Prims where
  energy : Nat
  hits : Nat
  sat : Bool
  pile : Bool

/-- The primitives of a group from the channel sums of its channels (R297, R300). DEDUCED (log 50). -/
def State.prims (s : State) (g m : Nat) : Prims :=
  if s.hasGroup g then
    let l := (List.range 16).filter fun i => s.contributes (16 * g + i) m
    let sum := (l.map fun i =>
      if natBit ((F.TRG_TCFG_EMASK g).at m s) i then (max (s.chanSum (16 * g + i) m) 0).toNat else 0).sum
    { energy := Nat.min (sum / 2 ^ Nat.min ((F.TRG_TCFG_SHIFT g).at m s) 10) 0xFFFF
      hits := (l.map fun i => if s.hitBit (16 * g + i) m then 2 ^ i else 0).sum
      sat := l.any fun i => (s.taps (16 * g + i) m).any fun v => v.value == satMark
      pile := l.any fun i => s.onset (16 * g + i) m && (List.range 7).any fun j => s.onset (16 * g + i) (m - 1 - j) }
  else ⟨0, 0, false, false⟩

/-- The 106 bits of primitives of a port: `second` for P19 and P21 (Table 11-13). -/
def State.frameBits (s : State) (second : Bool) (m : Nat) : Nat × Nat :=
  if F.TRG_TFRAME_FMT.at m s = 0 then
    (1, packBits (((List.range 8).flatMap fun i =>
      let p := s.prims (i + if second then 8 else 0) m
      [(11, log11 p.energy), (1, b2n p.sat), (1, b2n p.pile)]) ++ [(2, 0)]))
  else
    let slots := (if second then F.TRG_TFRAME_PORT1 else F.TRG_TFRAME_PORT0).at m s
    (2, packBits (([2, 1, 0].flatMap fun i =>
      let p := s.prims (slots / 16 ^ i % 16) m
      [(16, p.energy), (16, p.hits), (1, b2n p.sat), (1, b2n p.pile)]) ++ [(4, 0)]))

/-- The content of a trigger frame: header, BCID, primitives, CRC-8 (R328). -/
def frameContent (hdr bcid prims : Nat) : Nat :=
  let body := packBits [(2, hdr), (8, bcid % 256), (106, prims)]
  body * 256 + crcBits 8 7 116 body 0

/-- Each trigger port sends the frame of the primitives of 12 BP ago; outside STREAM the empty frame (R328, R380).
DEDUCED (log 50). -/
def execTriggerFrame (s : State) : Host.Outcome State Fault Refusal :=
  .next (if s.coreOn then
      let m := s.tagAgo 12
      let live := s.mode == .stream
      overList ([18, 19, 20, 21].filter s.sendsOwn) (fun p s =>
        let b := if live then s.frameBits (p % 2 == 1) m.bp else (0, 0)
        sendFrame p 128 (frameContent b.1 m.bcid b.2) s) s
    else s)

end Sys2Proof.Machine
end

