-- ==== Sys2Proof/Machine/Led.lean ====
section
/-!
DEFINITION. Sys2Proof/Machine/Led.lean: the LED matrix driver (chapter 18): pulse trains, rows and columns, ceilings,
derating, diagnosis.
-/
namespace Sys2Proof.Machine

/-- Change the LED driver. -/
def modLed (f : Led → Led) (s : State) : State := { s with led := f s.led }

/-- Lamps lie 16 to a row (R502). -/
def lampRow (lamp : Nat) : Nat := lamp / 16

/-- The column of a lamp. -/
def lampCol (lamp : Nat) : Nat := lamp % 16

/-- The pulse in progress on a column. -/
def Led.col (l : Led) (k : Nat) : Option ColPulse := sget (fun _ => none) l.cols k

/-- Give a column a pulse, or none. -/
def Led.setCol (k : Nat) (p : Option ColPulse) (l : Led) : Led := { l with cols := sput (fun _ => none) k p l.cols }

/-- A slot of the queue. -/
def Led.slot (l : Led) (i : Nat) : Option Train := sget (fun _ => none) l.slots i

/-- Give a slot a train, or none. -/
def Led.setSlot (i : Nat) (t : Option Train) (l : Led) : Led := { l with slots := sput (fun _ => none) i t l.slots }

/-- The lowest free slot of the queue. -/
def Led.freeSlot (l : Led) : Option Nat := (List.range 8).find? fun i => (l.slot i).isNone

/-- Slots whose last pulse has fired or been suppressed are free again (R504). -/
def Led.freeDone (l : Led) : Led :=
  { l with slots := l.slots.filter fun e =>
      match e.2 with
      | some t => Nat.blt t.due t.count || l.dues.any fun d => d.slot == e.1
      | none => false }

/-- Pulses may fire: the driver is present, enabled and not interlocked (R512, R518). -/
def State.ledOn (s : State) : Bool := s.hasLed && F.LED_CTL_EN.is s && !(F.MON_ILK_LED.is s)

/-- The row switch of a row is on: LROW is low (R502, R503, Table 2-3). -/
def State.rowAsserted (s : State) (r : Nat) : Bool := s.hasLed && !s.pins.forcing && s.led.rowOn && s.led.row == r

/-- The current that a column sinks in 1/17 mA: 10 mA + code × 240/255 mA, or the 5 mA of a diagnostic pulse (R184, R502, R517, Table
2-3). -/
def State.sinkCurrent (s : State) (k : Nat) : Nat :=
  if s.hasLed && !s.pins.forcing then
    match s.led.col k with
    | some p => if p.diag then 85 else 170 + 16 * p.code
    | none => 0
  else 0

/-! ### Ceilings and heat -/

/-- The peak-current ceiling in mA, by the fused code (Table 18-1). -/
def ledImax (code : Nat) : Nat :=
  match code with
  | 0 => 50 | 1 => 75 | 2 => 100 | 3 => 125 | 4 => 150 | 5 => 175 | 6 => 200 | _ => 250

/-- The charge ceiling of a column and orbit in pC, by the fused code (Table 18-1). -/
def ledQmax (code : Nat) : Nat :=
  match code with
  | 0 => 500000 | 1 => 1000000 | 2 => 2000000 | 3 => 5000000 | 4 => 10000000 | 5 => 25000000 | 6 => 50000000
  | _ => 250000000

/-- The largest current code within the fused ceiling: 10 mA + code × 240/255 mA (R184, R509). -/
def State.ledCap (s : State) : Nat := (ledImax ((s.shadowWord 0x0A).toNat % 8) - 10) * 255 / 240

/-- The charge ceiling in 1/34 pC. -/
def State.ledCharge (s : State) : Nat := 34 * ledQmax ((s.shadowWord 0x0A).toNat / 8 % 8)

/-- The charge of a pulse in 1/34 pC: its current times its width, in quarters of a ns (R509). -/
def pulseCharge (code quarters : Nat) : Nat := (85 + 8 * code) * quarters

/-- The scale k of the lamp-board temperature (R510, R511). -/
def State.ledScale (s : State) : Nat :=
  if F.LED_TSTAT_VALID.is s then
    let t := F.LED_TSTAT_T.int s
    let der := F.LED_HEAT_TDER.int s
    let cut := F.LED_HEAT_TCUT.int s
    if cut ≤ t then 0
    else if cut ≤ der then 256
    else if t ≤ der then 256
    else (256 * (cut - t) / (cut - der)).toNat
  else if F.LED_HEATCFG_REQ.is s then 0 else 256

/-! ### Rows -/

/-- BP from now to the next occurrence of a BCID, at least 1. -/
def State.bpTo (s : State) (bcid : Nat) : Nat :=
  if s.bcid < bcid then bcid - s.bcid else Nat.max 1 (bcid + s.nb - s.bcid)

/-- The BP at which a train's next pulse falls due; none when all have (R504). DEDUCED (log 52). -/
def State.nextDue (s : State) (t : Train) : Option Nat :=
  if t.count ≤ t.due then none
  else if t.due = 0 ∨ t.spacing = 0 then some (s.bp + s.bpTo t.bcid)
  else some (t.first + t.due * t.spacing)

/-- A pulse that waits or is to come: its BP, its train's place in the order of acceptance, and its lamp. -/
structure NextPulse where
  bp : Nat
  order : Nat
  lamp : Nat

/-- The pulses that wait or come next, a granted diagnostic pulse among them (R507). -/
def State.nextPulses (s : State) : List NextPulse :=
  (s.led.dues.map fun d => ⟨d.bp, d.order, d.lamp⟩) ++
  (s.led.slots.filterMap fun e =>
    match e.2 with
    | some t => (s.nextDue t).map fun b => ⟨b, t.order, t.lamp⟩
    | none => none) ++
  (match s.led.diag with | some l => [⟨s.bp, s.led.accepted, l⟩] | none => [])

/-- The pulse due first, the oldest slot on ties (R507). -/
def firstPulse : List NextPulse → Option NextPulse
  | [] => none
  | a :: r =>
    match firstPulse r with
    | none => some a
    | some b => some (if a.bp < b.bp ∨ (a.bp = b.bp ∧ a.order ≤ b.order) then a else b)

/-- Whenever no column sinks, the row of the next pulse is made ready; with nothing queued the row is released (R503,
R507). DEDUCED (log 52). -/
def nextRow (s : State) : State :=
  if !(s.ledOn && (s.group 10).st == .active && s.led.cols.isEmpty) then s
  else match firstPulse s.nextPulses with
    | none => modLed (fun l => { l with rowOn := false, blanking := false }) s
    | some p =>
      if s.led.blanking || (s.led.rowOn && s.led.row == lampRow p.lamp) then s
      else modLed (fun l => { l with rowOn := false, row := lampRow p.lamp, blanking := true }) s

/-- The analog lane's LED service has ended its pulse: the quiet time runs (R463). DEDUCED (log 53). -/
def ledServiceEnd (s : State) : State :=
  match s.gap.lane with
  | .led _ => { s with gap := { s.gap with lane := .quiet } }
  | _ => s

/-- Every row is released and every column is off, and pulses in progress end at once; a diagnostic pulse that ends so has not run
(R487, R512). DEDUCED (log 53). -/
def ledKill (s : State) : State :=
  let s := if s.led.cols.any fun e => match e.2 with | some p => p.diag | none => false then
      ledServiceEnd (F.LED_DSTAT_RUNNING.wr 0 s)
    else s
  modLed (fun l => { l with rowOn := false, blanking := false, cols := [] }) s

/-! ### Firing -/

/-- Pulses are suppressed while the driver is off (R512). DEDUCED (log 53). -/
def suppressOff (n : Nat) (s : State) : State := F.LED_PSTAT3_SUPPOFF.count n s

/-- A pulse whose BP boundary has come at a free column of the asserted row: capped, derated, charged and fired, or suppressed
(R505, R509, R510). DEDUCED (log 52). -/
def firePulse (d : DuePulse) (s : State) : State :=
  let s := modLed (fun l => { l with dues := l.dues.filter fun x => !(x == d) }) s
  let k := lampCol d.lamp
  let capped := Nat.min d.code s.ledCap
  let s := if capped < d.code then raiseFlag 0xD008 1 s else s
  let scale := s.ledScale
  if scale = 0 then raiseFlag 0xD008 5 (F.LED_PSTAT2_SUPPCUT.count 1 s)
  else
    let code := capped * scale / 256
    let q := sget (fun _ => 0) s.led.charge k + pulseCharge code d.quarters
    if s.ledCharge < q then raiseFlag 0xD008 2 (F.LED_PSTAT2_SUPPQ.count 1 s)
    else
      let s := if code < capped then raiseFlag 0xD008 4 (F.LED_PSTAT1_DERATED.count 1 s) else s
      let s := if d.bp < s.bp then raiseFlag 0xD008 3 (F.LED_PSTAT1_LATE.count 1 s) else s
      let s := F.LED_PSTAT0_FIRED.count 1 s
      modLed (fun l => { l.setCol k (some ⟨d.lamp, code, d.quarters, d.slow, false⟩) with charge := sput (fun _ => 0) k q l.charge }) s

/-- Every due pulse of the asserted row whose column is free fires at this boundary, the oldest slot first (R505, R506, Table
18-2). DEDUCED (log 52). -/
def fireRow (row : Nat) (l : List DuePulse) (s : State) : State :=
  l.foldl (fun s d =>
    if lampRow d.lamp == row && (s.led.col (lampCol d.lamp)).isNone then firePulse d s else s) s

/-- Insert a due pulse in order of acceptance, then of its BP (R506). -/
def dueInsert (d : DuePulse) : List DuePulse → List DuePulse
  | [] => [d]
  | a :: r => if d.order < a.order ∨ (d.order = a.order ∧ d.bp ≤ a.bp) then d :: a :: r else a :: dueInsert d r

/-- Due pulses fire, wait or are suppressed at a BP boundary (R505, R506, R512). R507 has chosen the row that is asserted.
DEDUCED (log 52). -/
def fireLeds (s : State) : State :=
  if s.coreOn && s.hasLed && !s.led.dues.isEmpty && !s.stoppedAt 24 s.bp then
    if s.ledOn then
      let s := if (s.group 10).st == .active && s.led.rowOn && !s.led.blanking then
          fireRow s.led.row (s.led.dues.foldr dueInsert []) s
        else s
      nextRow (modLed Led.freeDone s)
    else modLed (fun l => Led.freeDone { l with dues := [] }) (suppressOff s.led.dues.length s)
  else s

/-- Due pulses fire at a BP boundary (R505): at its first core cycle. DEDUCED (logs 6, 52). -/
def execLedPulseFire (s : State) : Host.Outcome State Fault Refusal := .next (if s.cyc = 0 then fireLeds s else s)

/-- A pulse's width ends: its column is free, and a row change may start (R503, R508); after a diagnostic pulse the quiet
time of its service runs. -/
def execLedPulseEnd (col : Fin 16) (s : State) : Host.Outcome State Fault Refusal :=
  .next (match s.led.col col with
    | some p =>
      let s := modLed (Led.setCol col none) s
      let s := if p.diag then
          ledServiceEnd (F.LED_DSTAT_DUE.wr 0 (F.LED_DSTAT_SINCE.wr 0 (F.LED_DSTAT_RUNNING.wr 0 (F.LED_PSTAT3_DIAG.count 1 s))))
        else s
      nextRow s
    | none => s)

/-- The blanking time ends: the row is asserted and its columns may sink; where another row's pulse has come to be next, its change
starts (R503, R507). DEDUCED (log 53). -/
def execBlankingEnd (s : State) : Host.Outcome State Fault Refusal :=
  .next (if s.led.blanking then nextRow (modLed (fun l => { l with blanking := false, rowOn := true }) s) else s)

/-- A granted diagnostic pulse sinks 5 mA for 400 ns through its lamp, at a BP boundary after its grant; it obeys the rules of a
commanded pulse (R509, R510, R512, R517). DEDUCED (log 53). -/
def fireDiag (s : State) : State :=
  match s.led.diag with
  | some lamp =>
    if !s.coreOn || s.stoppedAt 24 s.bp || Nat.ble s.bp s.led.diagBp then s
    else
      let k := lampCol lamp
      let gone := fun (s : State) => ledServiceEnd (modLed (fun l => { l with diag := none }) s)
      if !s.ledOn then suppressOff 1 (gone s)
      else if s.ledScale = 0 then raiseFlag 0xD008 5 (F.LED_PSTAT2_SUPPCUT.count 1 (gone s))
      else if (s.group 10).st == .active && s.led.rowOn && !s.led.blanking && s.led.row == lampRow lamp && (s.led.col k).isNone then
        let q := sget (fun _ => 0) s.led.charge k + 34 * 2000
        if s.ledCharge < q then raiseFlag 0xD008 2 (F.LED_PSTAT2_SUPPQ.count 1 (gone s))
        else
          let s := F.LED_DSTAT_RUNNING.wr 1 (F.LED_DSTAT_LAMP.wr lamp s)
          modLed (fun l => { l.setCol k (some ⟨lamp, 0, 1600, false, true⟩) with
            diag := none, lastDiag := lamp, charge := sput (fun _ => 0) k q l.charge }) s
      else nextRow s
  | none => s

/-- The diagnostic pulse starts at a BP boundary (R517): at its first core cycle. DEDUCED (log 6). -/
def execLedDiagPulse (s : State) : Host.Outcome State Fault Refusal := .next (if s.cyc = 0 then fireDiag s else s)

/-- The status field of a lamp (R519). -/
def lampFld (lamp : Nat) : Fld := ⟨(F.LED_STATUS_STATUS (lamp / 16)).addr, 2 * (lamp % 16) + 1, 2 * (lamp % 16)⟩

/-- 300 ns into a pulse that still sinks its lamp is judged: OPEN before SHORT before GOOD (R515, R516). DEDUCED (log 53). -/
def execDiagResult (lamp : Fin 128) (unregulated : Bool) (volts : BitVec 8) (s : State) :
    Host.Outcome State Fault Refusal :=
  .next (match s.led.col (lampCol lamp) with
    | some p =>
      if p.lamp == lamp && (p.slow || p.diag) then
        let r := if unregulated then 2 else if F.LED_DIAG_VSH.rd s < volts.toNat then 3 else 1
        let s := (lampFld lamp).wr r s
        let s := modLed (fun l => { l with goodAge := sput (fun _ => 0) lamp 0 l.goodAge }) s
        let s := refreshed 24 lamp s
        if r = 1 then s else raiseFlag 0xD008 0 s
      else s
    | none => s)

/-- The lamp-board temperature expires without a new result (R511). -/
def execLedTempStale (s : State) : Host.Outcome State Fault Refusal := .next (F.LED_TSTAT_VALID.wr 0 s)

/-- A monitor result in 2^-16 °C becomes the lamp-board temperature in 0.25 °C, rounding half to even (R495, R510). -/
def handTemp (r : Int) (s : State) : State :=
  if s.hasLed then F.LED_TSTAT_VALID.wr 1 (F.LED_TSTAT_T.wrInt (max (-0x8000) (min (rne r 16384) 0x7FFF)) s) else s

/-- Every slot of the queue is emptied; a pulse in progress is completed (R504). -/
def flushLed (s : State) : State := nextRow (modLed (fun l => { l with slots := [], dues := [] }) s)

/-- Pulses not yet fired or suppressed. -/
def Led.remaining (l : Led) : Nat :=
  (l.slots.map fun e => match e.2 with | some t => t.count - t.due | none => 0).sum + l.dues.length

/-! ### What a BP boundary and an orbit start do -/

/-- The pulses of a train that a BP has reached, each at its BP; pulse 0, and every pulse of a train with spacing 0, falls at
the train's BCID, which `hit` gives when it has come (R504). -/
def Train.pull (bp : Nat) (hit : Option Nat) : Nat → Train → Train × List Nat
  | 0, t => (t, [])
  | n + 1, t =>
    if t.count ≤ t.due then (t, [])
    else if t.due = 0 ∨ t.spacing = 0 then
      match hit with
      | some b =>
        let r := Train.pull bp none n { t with due := t.due + 1, first := if t.due = 0 then b else t.first }
        (r.1, b :: r.2)
      | none => (t, [])
    else
      let b := t.first + t.due * t.spacing
      if b ≤ bp then
        let r := Train.pull bp none n { t with due := t.due + 1 }
        (r.1, b :: r.2)
      else (t, [])

/-- Pulses of the queued trains become due up to a BP; `hit` gives the BP at which a BCID has come. -/
def pullTrains (bp : Nat) (hit : Nat → Option Nat) (s : State) : State :=
  s.led.slots.foldl (fun s e =>
    match e.2 with
    | none => s
    | some t =>
      let r := t.pull bp (hit t.bcid) (t.count - t.due)
      if r.2.isEmpty then s
      else
        modLed (fun l => { l.setSlot e.1 (some r.1) with
          dues := l.dues ++ r.2.map fun b => (⟨e.1, t.order, t.lamp, t.code, t.quarters, t.slow, b⟩ : DuePulse) }) s) s

/-- Trains whose next pulse falls in the BP that begins: it becomes due (R504). -/
def scheduleLeds (s : State) : State := pullTrains s.bp (fun k => if k = s.bcid then some s.bp else none) s

/-- The pulses that fall due in the next n − 1 BP of this orbit become due at their BP (R504). -/
def skipLeds (n : Nat) (s : State) : State :=
  pullTrains (s.bp + n - 1) (fun k => if s.bcid < k ∧ k < s.bcid + n then some (s.bp + (k - s.bcid)) else none) s

/-- A lamp in use whose status is other than GOOD. -/
def State.lampDue (s : State) (lamp : Nat) : Bool :=
  natBit ((F.LED_USE_USE (lamp / 32)).rd s) (lamp % 32) && !((lampFld lamp).rd s == 1)

/-- The lamp that the next diagnostic pulse serves: the first one after the lamp served last, wrapping (R517). -/
def State.diagLamp (s : State) : Option Nat :=
  ((List.range 128).map fun i => (s.led.lastDiag + 1 + i) % 128).find? s.lampDue

/-- The driver's part of an orbit start: charges clear, GOOD statuses age, a diagnostic pulse becomes due, which is
work for the driver (R509, R513, R516, R517). -/
def ledOrbit (s : State) : State :=
  if !s.hasLed then s
  else
    let s := modLed (fun l => { l with charge := [] }) s
    let hold := F.LED_DIAG_HOLD.rd s
    let s := overList (below 128 fun i => (lampFld i).rd s == 1) (fun i s =>
      let age := sget (fun _ => 0) s.led.goodAge i + 1
      if hold ≠ 0 ∧ hold ≤ age then (lampFld i).wr 0 (modLed (fun l => { l with goodAge := sput (fun _ => 0) i 0 l.goodAge }) s)
      else modLed (fun l => { l with goodAge := sput (fun _ => 0) i age l.goodAge }) s) s
    let s := F.LED_DSTAT_SINCE.count 1 s
    let every := F.LED_DIAG_EVERY.rd s
    if every ≠ 0 ∧ every ≤ F.LED_DSTAT_SINCE.rd s ∧ s.diagLamp.isSome then wakeFn 10 (F.LED_DSTAT_DUE.wr 1 s) else s

/-! ### LEDP -/

/-- The width of a pulse in quarters of a ns; none outside its mode's range (R184). -/
def ledQuarters (slow : Bool) (code : Nat) : Option Nat :=
  if slow then (if 1 ≤ code ∧ code ≤ 2000 then some (2000 * code) else none)
  else if code ≤ 152 then some (8 + code) else none

/-- The cost of one pulse in EU (R185, Table 5-4): ceil(I × t × 33 / 100,000) + 1. -/
def ledCost (code quarters : Nat) : Nat := ceilDiv (pulseCharge code quarters * 33) 3400000 + 1

/-- A train takes a free slot; the driver wakes (R504, R513). -/
def putTrain (slot lamp : Nat) (slow : Bool) (count : Nat) (gs ga : Word) (s : State) : State :=
  let bcid := gs.toNat % 2 ^ 13
  let t : Train := { lamp := lamp, code := ga.toNat / 2 ^ 24, quarters := (ledQuarters slow (ga.toNat % 2 ^ 24)).getD 0
                     slow := slow, spacing := gs.toNat / 2 ^ 18, bcid := if bcid < s.nb then bcid else bcid % Nat.max 1 s.nb
                     count := count, order := s.led.accepted }
  nextRow (wakeFn 10 (modLed (fun l => { l.setSlot slot (some t) with accepted := l.accepted + 1 }) s))

end Sys2Proof.Machine
end

