-- ==== Sys2Proof/Machine/Gaps.lean ====
section
/-!
DEFINITION. Sys2Proof/Machine/Gaps.lean: the gaps and their services (chapter 16): the TDC run, the analog lane, scrubbing and
the reference pulse; region temperatures; the grant of hardware requests (R141, R144, R263 to R265, R409, R460 to R470).
-/
namespace Sys2Proof.Machine

/-- Change the gap. -/
def modGap (f : Gap → Gap) (s : State) : State := { s with gap := f s.gap }

/-! ### Temperatures and due slices -/

/-- The trigger amount of background recalibration in 0.25 °C (R247, Table 8-6). -/
def State.trigAmount (s : State) : Nat := Nat.min (Nat.max ((F.ADC_CFG0_TRIG).rd s) 2) 32

/-- How far a slice's quadrant is from the temperature of its stamp; none without a reading (R244, R470). -/
def State.tempOff (s : State) (c : Nat) : Option Nat :=
  if (F.ERR_TEMP_VALID (c / 64)).is s then
    some ((F.ERR_TEMP_T (c / 64)).int s - (F.ADC_STAMP_TEMP c).int s).natAbs
  else none

/-- A slice is due for background recalibration (R247). -/
def State.due (s : State) (c : Nat) : Bool :=
  s.hasChan c && F.ADC_CFG0_BGEN.is s && (F.ADC_STAMP_VALID c).is s &&
    (match s.tempOff c with | some d => Nat.blt s.trigAmount d | none => false)

/-- `RST.STATUS.ADCCAL`: every present slice's stamp is valid and within temperature (R79, R81, R244). -/
def State.adcOk (s : State) : Bool :=
  s.chans.all fun c => (F.ADC_STAMP_VALID c).is s &&
    (match s.tempOff c with | some d => Nat.ble d s.trigAmount | none => false)

/-- How many points of the grid of readings have come since the core clock's release: one every 1024 BP (R470). -/
def State.tempPoint (s : State) : Nat := (s.bp - s.tempBase) / 1024

/-- A region sensor gives the reading of a grid point, of which each gives one (R21, R470). DESIGN CHOICE (log 5). -/
def execTempReading (r : Fin 6) (t : BitVec 16) (s : State) : Host.Outcome State Fault Refusal :=
  .next (if s.coreOn && Nat.blt (sget (fun _ => 0) s.tempSeen r) s.tempPoint then
      { (F.ERR_TEMP_VALID r).wr 1 ((F.ERR_TEMP_T r).wr t.toNat s) with tempSeen := sput (fun _ => 0) r s.tempPoint s.tempSeen }
    else s)

/-- The slices that are due, of those whose stamp is held. -/
def State.dueList (s : State) : List Nat :=
  ((s.regs.filter fun e => Nat.ble 0x3000 e.1 && Nat.blt e.1 0x4000 && e.1 % 16 == 5).map fun e => (e.1 - 0x3000) / 16).filter s.due

/-- TEMP is raised for each quadrant that has a slice which becomes due at this BP boundary (R247, Table 5-3). -/
def raiseTemp (s : State) : State :=
  let l := s.dueList
  let new := l.filter fun c => !s.dueSeen.contains c
  overList (below 4 fun q => new.any fun c => c / 64 == q) (fun _ => raiseEv (.all .temp)) { s with dueSeen := l }

/-! ### The TDC run -/

/-- One role move in a cell's roles LEAD, TRAIL and SPARE: first the spare becomes LEAD, then the new spare becomes TRAIL
(Table 9-1). -/
def moveRole (k : Nat) (r : Nat × Nat × Nat) : Nat × Nat × Nat :=
  if k = 0 then (r.2.2, r.2.1, r.1) else (r.1, r.2.2, r.2.1)

/-- The role move of a slice: the interpolator that it relieves times the edges that find it busy (R262). DEDUCED (log 54). -/
def moveSlice (k c : Nat) (s : State) : State :=
  let r := moveRole k ((F.TDC_ROLE_LEAD c).rd s, (F.TDC_ROLE_TRAIL c).rd s, (F.TDC_ROLE_SPARE c).rd s)
  let lead := k == 0
  let old := s.roleOf c lead
  let s := (F.TDC_ROLE_LEAD c).wr r.1 ((F.TDC_ROLE_TRAIL c).wr r.2.1 ((F.TDC_ROLE_SPARE c).wr r.2.2 s))
  match (s.slice c).timedAt lead with
  | some t => if s.bp * 1024 < t + 95 then s.modSlice c fun x => { x with relieved := some (lead, old) } else s
  | none => s

/-- One role move of a run: its slices and the trigger-bus cells (R262, R276). DEDUCED (log 54). -/
def moveRoles (k : Nat) (quads : BitVec 4) (s : State) : State :=
  let s := overList (s.chans.filter fun c => quads.getLsbD (c / 64)) (moveSlice k) s
  overList (List.range 4) (fun n s =>
    let x := s.tbCell n
    let r := moveRole k (x.lead, x.trail, x.spare)
    { s with tbCells := sput (fun _ => {}) n { x with lead := r.1, trail := r.2.1, spare := r.2.2 } s.tbCells }) s

/-- The role moves of the run that are due: at 16 and at 32 BP after its start (Table 9-1). -/
def tdcMoves (s : State) : State :=
  match s.gap.tdc with
  | none => s
  | some r =>
    if r.ended then s
    else
      let go := fun (k : Nat) (s : State) =>
        match s.gap.tdc with
        | some r =>
          if r.moved = k ∧ r.start + 16 * (k + 1) ≤ s.bp then
            modGap (fun g => { g with tdc := some { r with moved := k + 1 } }) (moveRoles k r.quads s)
          else s
        | none => s
      go 1 (go 0 s)

/-- The run of the orbit starts at the first BP of its gap (R263, R461). -/
def startTdcRun (s : State) : State :=
  if F.TDC_CALCTL_EN.is s && !s.gap.ran && s.gap.number == F.ERR_GAPCFG_TDCGAP.rd s then
    let l := below 4 fun q => s.hasQuad q && (s.quadState q == .active || s.quadState q == .idle)
    let r : TdcRun := { quads := BitVec.ofNat 4 ((l.map fun q => 2 ^ q).sum)
                        groups := BitVec.ofNat 16 ((l.map fun q => 15 * 2 ^ (4 * q)).sum)
                        start := s.bp, moved := 0, ended := false }
    F.TDC_CALSTAT_RUNNING.wr 1 (modGap (fun g => { g with tdc := some r, ran := true }) s)
  else s

/-- The run is accepted (R265): its results take effect at the next orbit start. -/
def acceptTdc (r : TdcRun) (s : State) : State :=
  let r := match s.gap.tdcAccepted with | some o => { r with groups := r.groups ||| o.groups } | none => r
  F.TDC_CALSTAT_ACCEPTED.wr 1 (F.TDC_CALSTAT_RUNS.wrap (modGap (fun g => { g with tdc := none, tdcAccepted := some r }) s))

/-- A run that has completed is accepted once its gap has lasted 64 BP (R265). -/
def acceptDue (s : State) : State :=
  match s.gap.tdc with
  | some r => if r.ended ∧ s.gap.inGap = true ∧ s.gap.start + 64 ≤ s.bp then acceptTdc r s else s
  | none => s

/-- The run has had its 48 BP (R263, Table 9-1). -/
def endTdcRun (s : State) : State :=
  match (tdcMoves s).gap.tdc with
  | some r =>
    if !r.ended && Nat.ble (r.start + 48) s.bp then
      F.TDC_CALSTAT_RUNNING.wr 0 (modGap (fun g => { g with tdc := some { r with ended := true } }) (tdcMoves s))
    else s
  | none => s

/-- A calibration run ends after 48 BP (R263, R264). DESIGN CHOICE (log 5). -/
def execTdcRunEnd (s : State) : Host.Outcome State Fault Refusal := .next (if s.coreOn then endTdcRun s else s)

/-- A completed run is accepted (R265). -/
def execTdcRunAccept (s : State) : Host.Outcome State Fault Refusal := .next (if s.coreOn then acceptDue s else s)

/-- The gap ends: a run that has completed in a gap of 64 BP is accepted, any other one is discarded (R265). -/
def gapEndTdc (s : State) : State :=
  match (acceptDue (endTdcRun s)).gap.tdc with
  | some _ =>
    raiseFlag 0x4802 1 (F.TDC_CALSTAT_RUNNING.wr 0 (modGap (fun g => { g with tdc := none }) (acceptDue (endTdcRun s))))
  | none => acceptDue (endTdcRun s)

/-! ### The analog lane -/

/-- The end of a service of n BP that starts at the next BP boundary is within both limits of the lane (R463). -/
def State.laneFits (s : State) (n : Nat) : Bool :=
  let e := s.bp + 1 + n - s.gap.start
  let m := F.ERR_GAPCFG_LANEBP.rd s
  Nat.ble e s.gap.predicted && (m == 0 || Nat.ble e m)

/-- The LED service fits. Its 400 ns are 12 to 19 BP over the range of R10, and a row change adds its blanking time; in
between the outcome is open. DESIGN CHOICE (log 19). -/
def State.ledFits (s : State) (lamp : Nat) : Bool :=
  let quiet := F.ERR_GAPCFG_QUIET.rd s
  let change := !(s.led.rowOn && s.led.row == lampRow lamp)
  let blank := if change then ceilDiv (23 * F.LED_CFG_BLANK.rd s) 10 + 1 else 0
  s.laneFits (19 + quiet + blank) || (s.laneFits (12 + quiet) && Config.freeBit s.free)

/-- The better of two due slices: the greater difference, then the one that comes first above the slice served last
(R464). -/
def betterSlice (last : Nat) (a b : Nat × Nat) : Nat × Nat :=
  let place := fun c => (c + 255 - last) % 256
  if a.2 < b.2 ∨ (a.2 = b.2 ∧ place b.1 < place a.1) then b else a

/-- The due slice that the lane selects (R464). DEDUCED (log 54). -/
def State.dueSlice (s : State) : Option Nat :=
  let l := s.chans.filterMap fun c =>
    if s.due c && s.quadState (c / 64) == .active && !(s.bgDone.any fun d => d.1 == c) then
      (s.tempOff c).map fun d => (c, d)
    else none
  match l with
  | [] => none
  | a :: r => some (r.foldl (betterSlice (F.ERR_DUE_LAST.rd s)) a).1

/-- The analog lane makes a choice and raises its request (R463). -/
def laneChoose (s : State) : State :=
  let idle := modGap (fun g => { g with lane := .idle }) s
  if !s.gap.inGap then idle
  else
    let drawn := s.drew 1
    let adc := match s.dueSlice with
      | some c => if s.laneFits 48 then raiseHw (.recal c) 500 (modGap (fun g => { g with lane := .waiting }) drawn)
                  else State.drew 1 idle
      | none => State.drew 1 idle
    match s.diagLamp with
    | some lamp =>
      if s.hasLed && F.LED_DSTAT_DUE.is s && !s.gap.diagRan && s.ledFits lamp then
        raiseHw (.ldiag lamp) 2 (modGap (fun g => { g with lane := .waiting }) drawn)
      else adc
    | none => adc

/-- An ADC background run ends after its 48 BP: its results wait for the next orbit start with the temperature of now, and
the lane chooses again (R248, R250). A run whose quadrant has left ACTIVE gives nothing.
DESIGN CHOICE (log 5), DEDUCED (log 54). -/
def execBackgroundRunEnd (s : State) : Host.Outcome State Fault Refusal :=
  .next (match s.gap.lane with
    | .adc c start =>
      if s.coreOn && Nat.ble (start + 48) s.bp then
        let s := if s.quadState (c / 64) == .active then
            { s with bgDone := s.bgDone ++ [(c, (F.ERR_TEMP_T (c / 64)).rd s)] }
          else s
        laneChoose s
      else s
    | _ => s)

/-- The quiet time after a diagnostic pulse ends, and the lane chooses again (R463). -/
def execQuietTimeEnd (s : State) : Host.Outcome State Fault Refusal :=
  .next (if s.coreOn && s.gap.lane == .quiet then laneChoose s else s)

/-! ### Gaps begin and end -/

/-- A pending reference pulse is due 8 BP after the GAP_BEGIN (R330). -/
def alignDue (s : State) : State :=
  overList (below 4 fun n => (s.line n).align)
    (fun n => modLine n fun x => { x with align := false, alignDue := some (s.bp + 8) }) s

/-- A gap begins in this BP (R409, R461 to R463). -/
def beginGap (s : State) : State :=
  let g := s.gap
  let s := modGap (fun g => { g with inGap := true, start := s.bp, number := g.begun, begun := g.begun + 1, carried := 0
                                     predicted := (g.prevLens[g.begun]?).getD 8192, diagRan := false, scrub := false }) s
  let s := startTdcRun (alignDue (raiseEv (.all .gapBegin) s))
  let s := if F.ERR_GAPCFG_SCRUBEN.is s then raiseHw .scrub 30 s else s
  if g.lane = .idle then laneChoose s else s

/-- GAP_BEGIN acts in the first BP of a gap; during a gap it is ignored (R409). DEDUCED (log 59). -/
def execGapBegin (side : Side) (s : State) : Host.Outcome State Fault Refusal :=
  .next (if s.coreOn && s.clk.ref == some side then
      if s.gap.inGap then raiseFlag 0xB645 1 s else beginGap s
    else s)

/-- A request that holds only within its gap (R141). -/
def HwWork.gapBound : HwWork → Bool
  | .recal _ | .ldiag _ | .scrub => true
  | _ => false

/-- Requests of the gap that were not granted are withdrawn (R141). -/
def withdrawRequests (s : State) : State :=
  let n := (s.hwreqs.filter fun r => r.work.gapBound).length
  overList (List.range n) (fun _ => raiseFlag 0x430 3) { s with hwreqs := s.hwreqs.filter fun r => !r.work.gapBound }

/-- The analog service that runs is cut short: an ADC run is discarded, a diagnostic pulse stops and stays due (R465). -/
def cutLane (s : State) : State :=
  let idle := modGap (fun g => { g with lane := .idle }) s
  match s.gap.lane with
  | .idle | .waiting => idle
  | .adc _ _ | .quiet => raiseFlag 0x1F09 0 idle
  | .led _ =>
    let l := (s.led.cols.filter fun e => match e.2 with | some p => p.diag | none => false).map Prod.fst
    let s := overList l (fun k => modLed (Led.setCol k none)) (modLed (fun l => { l with diag := none }) idle)
    nextRow (raiseFlag 0x1F09 0 (F.LED_DSTAT_RUNNING.wr 0 s))

/-- A reference pulse that has not been driven stays pending (R467). -/
def alignBack (s : State) : State :=
  overList (below 4 fun n => (s.line n).alignDue.isSome)
    (fun n => modLine n fun x => { x with align := true, alignDue := none }) s

/-- The gap ends: this BP is the first one after it (R141, R265, R409, R465, R467, R469). -/
def endGap (s : State) : State :=
  let s := gapEndTdc s
  let g := s.gap
  let len := s.bp - g.start
  let s := F.LNK_GAP_LAST.wr (Nat.min len 0xFFFF) s
  let s := alignBack (withdrawRequests (cutLane s))
  let s := modGap (fun g => { g with
    inGap := false, scrub := false, long64 := g.long64 || (Nat.ble 64 len && Nat.blt s.orbStart (g.start + 64))
    lens := if g.carried = 0 then g.lens ++ [len] else g.lens
    prevLens := if g.carried = 1 then g.prevLens ++ [len] else g.prevLens }) s
  raiseEv (.all .gapEnd) s

/-- GAP_END acts in the first BP after a gap; outside a gap it is ignored (R409). DEDUCED (log 59). -/
def execGapEnd (side : Side) (s : State) : Host.Outcome State Fault Refusal :=
  .next (if s.coreOn && s.clk.ref == some side then
      if s.gap.inGap then endGap s else raiseFlag 0xB645 1 s
    else s)

/-! ### The orbit start's part -/

/-- The gap's part of an orbit start (R461, R463, R469, Table 16-6). -/
def gapOrbit (s : State) : State :=
  let g := s.gap
  let long := g.long64 || (g.inGap && Nat.ble (g.start + 64) s.bp && Nat.blt s.orbStart (g.start + 64))
  let open_ := if g.inGap && g.carried == 0 then [s.bp - g.start] else []
  let longest := (g.lens ++ open_).foldl Nat.max 0
  let s := F.ERR_GAPSTAT_GAPS.wr (Nat.min g.begun 255) (F.ERR_GAPSTAT_LONGEST.wr (Nat.min longest 0xFFFF) s)
  let s := if long then s else raiseFlag 0x1F09 1 s
  modGap (fun g => { g with begun := 0, lens := [], prevLens := g.lens, carried := g.carried + 1, ran := false, long64 := false }) s

/-! ### Grants to hardware requesters -/

/-- The first request of a requester is taken from the list. -/
def takeRequest (idx : Nat) : List HwReq → Option (HwReq × List HwReq)
  | [] => none
  | r :: l =>
    if r.work.idx = idx then some (r, l)
    else match takeRequest idx l with
      | some x => some (x.1, r :: x.2)
      | none => none

/-- A granted requester's work starts (R140, R462, R463, R493). -/
def startWork (w : HwWork) (s : State) : State :=
  match w with
  | .lwake g => if s.mode = .doze ∨ s.mode = .deep then s else startExit g .active s
  | .mon => { s with mon := { s.mon with paid := true } }
  | .recal c => F.ERR_DUE_LAST.wr c (modGap (fun g => { g with lane := .adc c (s.bp + 1) }) s)
  | .ldiag lamp =>
    nextRow (wakeFn 10 (modLed (fun l => { l with diag := some lamp, diagBp := s.bp }) (modGap (fun g => { g with lane := .led lamp, diagRan := true }) s)))
  | .scrub => modGap (fun g => { g with scrub := true }) s

/-- The head of the wait order is a hardware request, the debt is zero and its cost is available: it is granted and pays
(R144, R465). -/
def execHwRequestGrant (s : State) : Host.Outcome State Fault Refusal :=
  .next (if s.coreOn then
      match s.grantable with
      | some w =>
        match takeRequest w.idx s.hwreqs with
        | some x => startWork x.1.work (deduct x.1.cost { s with hwreqs := x.2 })
        | none => s
      | none => s
    else s)

end Sys2Proof.Machine
end

