-- ==== Sys2Proof/Machine/Monitor.lean ====
section
/-!
DEFINITION. Sys2Proof/Machine/Monitor.lean: the monitor front end (chapter 17): entries and their checks, sequences, results,
comparators and interlocks, and its self-calibration.
-/
namespace Sys2Proof.Machine

/-- Change the monitor. -/
def modMon (f : Mon → Mon) (s : State) : State := { s with mon := f s.mon }

/-- LEN, with a value above 32 taken as 32 (Table 17-7). -/
def State.monLen (s : State) : Nat := Nat.min (F.MON_CTL_LEN.rd s) 32

/-- ILEN, with a value above 8 taken as 8. -/
def State.monIlen (s : State) : Nat := Nat.min (F.MON_CTL_ILEN.rd s) 8

/-- The entries of both sequences (R490, R491). -/
def State.monEntries (s : State) : List Nat := List.range s.monLen ++ (List.range s.monIlen).map fun k => 32 + k

/-- The gains in use, as a mask (R496). -/
def State.gainsInUse (s : State) : Nat := (below 8 fun k => s.monEntries.any fun e => (F.MON_CONV_GAIN e).rd s == k).foldl (fun a k => a + 2 ^ k) 0

/-- `MON.CALSTAMP.VALID`: no gain is in use, or a calibration has completed and every gain in use is calibrated (R496). -/
def State.monValid (s : State) : Bool :=
  s.gainsInUse == 0 ||
    (F.MON_CALSTAMP_VALID.is s && Nat.land s.gainsInUse (F.MON_STAT_GAINCAL.rd s) == s.gainsInUse)

/-- `RST.STATUS.MCALOK`: the stamp is valid and region C is within 8.0 °C of it (R79, R81, R496). -/
def State.monOk (s : State) : Bool :=
  s.gainsInUse == 0 ||
    (s.monValid && (F.ERR_TEMP_VALID 5).is s &&
      Nat.ble ((F.ERR_TEMP_T 5).int s - F.MON_CALSTAMP_TEMP.int s).natAbs 32)

/-! ### Entries -/

/-- The current of an excitation code in µA (Table 17-2). -/
def excCurrent (code : Nat) : Nat :=
  match code with
  | 1 => 10 | 2 => 50 | 3 => 100 | 4 => 250 | 5 => 500 | 6 => 1000 | _ => 0

/-- The ceiling per pin in µA, by the fused code (Table 17-5). -/
def excCeiling (code : Nat) : Nat :=
  match code with
  | 0 => 100 | 1 => 150 | 2 => 200 | 3 => 250 | 4 => 400 | 5 => 500 | 6 => 750 | _ => 1000

/-- The largest code at or below the fused ceiling (R480, R498). -/
def State.excCode (s : State) (code : Nat) : Nat :=
  let top := excCeiling ((s.shadowWord 9).toNat % 8)
  (below 7 fun k => Nat.ble k code && Nat.ble (excCurrent k) top).foldl Nat.max 0

/-- The monitor's pins and sources can be on: its group is ACTIVE, and the hub is neither in HOLD nor in SAFE (R476). -/
def State.monOn (s : State) : Bool := s.coreOn && s.mode.runs && (s.group 9).st == .active

/-- The currents that the two sources drive now, in µA (R476, R480, R481). -/
def State.sourceDrive (s : State) : Nat × Nat :=
  match s.mon.cur with
  | some r =>
    if s.monOn && F.MON_CTL_EXCEN.is s && !(F.MON_ILK_EXC.is s) then
      let i := excCurrent (s.excCode ((F.MON_CONV_EXC 0).of r.conv))
      (i, if (F.MON_CONV_WIRE 0).of r.conv = 1 then i else 0)
    else (0, 0)
  | none => (0, 0)

/-- The output rates of Table 17-1. -/
def monRate (code : Nat) : Nat :=
  match code with
  | 0 => 10 | 1 => 25 | 2 => 30 | 3 => 50 | 4 => 60 | 5 => 100 | 6 => 500 | _ => 1000

/-- The cost of one conversion of an entry with excitation, from the commanded code (R182, R493, Table 5-4). -/
def State.monCost (s : State) (e : Nat) : Nat :=
  let code := (F.MON_CONV_EXC e).rd s
  if code = 0 then 0
  else
    let i := excCurrent code * (if (F.MON_CONV_WIRE e).rd s = 1 then 2 else 1)
    ceilDiv (i * 330) (monRate ((F.MON_CONV_RATE e).rd s)) + 1

/-- An entry is with excitation. -/
def State.excited (s : State) (e : Nat) : Bool := !((F.MON_CONV_EXC e).rd s == 0)

/-- A role that names a pin. -/
def assigned (pin : Nat) : Bool := Nat.blt pin 16

/-- The MON pins that are connected now: those that the running entry names; every other one is off (R475, R476). -/
def State.monPins (s : State) : List Nat :=
  match s.mon.cur with
  | some r =>
    if s.monOn then
      ([F.MON_PINS_POS 0, F.MON_PINS_NEG 0, F.MON_PINS_EXCA 0, F.MON_PINS_EXCB 0, F.MON_PINS_BIAS 0].map fun f => f.of r.pins).filter
        assigned
    else []
  | none => []

/-- The rules of the crosspoint (R475). -/
def rolesOk (pos neg exca excb bias wire exc : Nat) : Bool :=
  let pins := [pos, neg, excb, bias].filter assigned
  assigned pos && assigned neg && decide pins.Nodup &&
    (!(assigned exca) || !(pins.contains exca) || (wire == 0 && exca == pos && !(pins.filter fun p => p != pos).contains exca)) &&
    (exc == 0 || assigned exca) && (assigned excb == (wire == 1))

/-- An entry is valid (R475, R480 to R482, R484, R485). -/
def State.entryOk (s : State) (e : Nat) : Bool :=
  let wire := (F.MON_CONV_WIRE e).rd s
  let exc := (F.MON_CONV_EXC e).rd s
  let curve := (F.MON_LIN_CURVE e).rd s
  rolesOk ((F.MON_PINS_POS e).rd s) ((F.MON_PINS_NEG e).rd s) ((F.MON_PINS_EXCA e).rd s) ((F.MON_PINS_EXCB e).rd s)
      ((F.MON_PINS_BIAS e).rd s) wire exc &&
    !(wire == 3) && !(exc == 7) && Nat.ble curve 9 && Nat.ble ((F.MON_LIN_POLY e).rd s) 4 &&
    (!(curve == 9) || (!((F.MON_PAR_BETA e).rd s == 0) && !((F.MON_PAR_R0 e).rd s == 0)))

/-- The results that a run of an entry delivers; 0 is taken as 1 (R490). -/
def State.monCount (s : State) (e : Nat) : Nat := Nat.max 1 ((F.MON_CONV_NCONV e).rd s)

/-- Conversions are skipped under the excitation interlock (R488). -/
def skipConvs (e n : Nat) (s : State) : State := (F.MON_ECNT_SKIP e).count n s

/-- The decimation ratio of a conversion under the `TIM.INC` in effect (R478); an INC of 0 gives none, and a free value
stands for it. -/
def State.monRatio (s : State) (e : Nat) : Nat :=
  let inc := F.TIM_INC_INC.rd s
  if inc = 0 then (s.freeNow 0).toNat
  else (rne (2 ^ 26 * 10 ^ 9 : Nat) (128 * inc * monRate ((F.MON_CONV_RATE e).rd s))).toNat

/-- A run of an entry begins under its fields of now. -/
def beginRun (kind : MonKind) (e n : Nat) (s : State) : State :=
  let s := (F.MON_CMP_BAD e).wr 0 s
  let exc := (F.MON_CONV_EXC e).rd s
  let s := if s.excCode exc < exc then raiseFlag 0xC003 4 s else s
  let r : MonRun := { kind := kind, entry := e, left := n, pins := s.word (F.MON_PINS_POS e).addr
                      conv := s.word (F.MON_CONV_EXC e).addr, lin := s.word (F.MON_LIN_CURVE e).addr
                      par := s.word (F.MON_PAR_BETA e).addr, lo := s.word (F.MON_LO_LO e).addr
                      hi := s.word (F.MON_HI_HI e).addr, cmp := s.word (F.MON_CMP_HYST e).addr, ratio := s.monRatio e }
  State.drew 1 (modMon (fun m => { m with cur := some r }) s)

/-- What the check of an entry at its start comes to (R488, R489). -/
inductive Start where
  | bad | skip | run
  deriving DecidableEq, Repr

/-- The check of an entry at its start. -/
def State.startCheck (s : State) (e : Nat) : Start :=
  if !s.entryOk e then .bad else if F.MON_ILK_EXC.is s && s.excited e then .skip else .run

/-- An invalid entry is skipped (R489). -/
def badEntry (e : Nat) (s : State) : State := (F.MON_CMP_BAD e).wr 1 (raiseFlag 0xC003 3 s)

/-! ### Sequences -/

/-- The injected sequence goes on to its next entry, runs once more, or ends (R491). -/
def nextInjected (k : Nat) (s : State) : State :=
  if k + 1 < s.monIlen then modMon (fun m => { m with inj := some (k + 1) }) s
  else if s.mon.injPend ∧ 0 < s.monIlen then modMon (fun m => { m with inj := some 0, injPend := false }) s
  else modMon (fun m => { m with inj := none, injPend := false }) s

/-- The regular sequence goes on to its next entry (R490). -/
def nextRegular (s : State) : State := modMon (fun m => { m with next := m.next + 1, paid := false }) s

/-- The injected entry of place k starts; an injected entry with excitation is charged and never waits (R491, R493).
DEDUCED (log 56). -/
def startInjected (k : Nat) (s : State) : State :=
  if s.monIlen ≤ k then nextInjected k s
  else
    let e := 32 + k
    let n := s.monCount e
    match s.startCheck e with
    | .bad => nextInjected k (badEntry e s)
    | .skip => nextInjected k (skipConvs e n s)
    | .run => beginRun .injected e n (if s.excited e then chargeExempt (n * s.monCost e) s else s)

/-- The next regular entry starts, or raises the request for its energy (R490, R493). -/
def startRegular (s : State) : State :=
  let wrap := Nat.ble s.mon.len s.mon.next || s.mon.next == 0
  let s := if wrap then modMon (fun m => { m with next := 0, len := s.monLen }) s else s
  if s.mon.len = 0 then s
  else
    let e := s.mon.next
    let n := s.monCount e
    match s.startCheck e with
    | .bad => nextRegular (badEntry e s)
    | .skip => nextRegular (skipConvs e n s)
    | .run =>
      if s.excited e && !s.mon.paid then
        if s.hwreqs.any fun r => r.work == .mon then s else raiseHw .mon (n * s.monCost e) s
      else beginRun .regular e n (modMon (fun m => { m with paid := false }) s)

/-- A run of an entry with excitation. -/
def MonRun.excited (r : MonRun) : Bool := !((F.MON_CONV_EXC 0).of r.conv == 0)

/-- A run ends, and its sequence goes on to its next entry (R490, R491). -/
def leaveRun (r : MonRun) (s : State) : State :=
  let s := modMon (fun m => { m with cur := none }) s
  match r.kind with
  | .regular => if s.mon.seqOn then nextRegular s else s
  | .injected => nextInjected (r.entry - 32) s
  | .extra => s

/-- The results that a run still had to deliver are skipped (R488). -/
def skipRest (r : MonRun) (s : State) : State := leaveRun r (skipConvs r.entry r.left s)

/-- An interrupted run resumes with a fresh settle; under the excitation interlock its conversions are skipped (R479, R488,
R491). -/
def resumeRun (r : MonRun) (l : List MonRun) (s : State) : State :=
  let s := modMon (fun m => { m with stopped := l }) s
  if F.MON_ILK_EXC.is s && r.excited then skipRest r s else modMon (fun m => { m with cur := some r }) s

/-- The sequences may run: the monitor group is ACTIVE, squares run, and no self-calibration runs (R476, R496, R499). -/
def State.monRuns (s : State) : Bool :=
  s.coreOn && s.mode.runs && (s.group 9).st == .active && s.mon.cal.isNone && !s.stoppedAt 23 s.bp

/-- The next entry is checked and starts (R489 to R493): injected entries first, then an extra conversion, then the regular
sequence. -/
def execMonEntryStart (s : State) : Host.Outcome State Fault Refusal :=
  .next (if !s.monRuns || s.mon.cur.isSome then s
    else match s.mon.inj with
      | some k =>
        match s.mon.stopped with
        | r :: l => if r.kind = .injected then resumeRun r l s else startInjected k s
        | [] => startInjected k s
      | none =>
        match s.mon.extra with
        | e :: l =>
          let s := modMon (fun m => { m with extra := l }) s
          match s.startCheck e with
          | .bad => badEntry e s
          | .skip => skipConvs e 1 s
          | .run => beginRun .extra e 1 s
        | [] =>
          match s.mon.stopped with
          | r :: l => resumeRun r l s
          | [] => if s.mon.seqOn then startRegular s else s)

/-- Work for the monitor wakes its group (R111, R499). -/
def wakeMonitor (s : State) : State := wakeFn 9 s

/-- RUN is written: 1 starts the regular sequence at entry 0, 0 stops it at the end of the result in progress (R490).
DEDUCED (log 56). -/
def monRun (run : Bool) (s : State) : State :=
  if F.MON_CTL_RUN.is s == run then s
  else
    let s := F.MON_CTL_RUN.put run s
    let reg := fun (r : MonRun) => decide (r.kind = .regular)
    let s := modMon (fun m => { m with
      seqOn := run, next := 0, paid := false, stopped := m.stopped.filter fun r => !reg r
      cur := m.cur.map fun r => if reg r then { r with left := 1 } else r }) s
    if run then wakeMonitor s else { s with hwreqs := s.hwreqs.filter fun r => !(r.work == .mon) }

/-! ### Results -/

/-- A result in the unit of its curve, with the mark of a saturated one. -/
structure MonVal where
  v : Int
  sat : Bool
  deriving DecidableEq, Repr

/-- The greatest and the least result. -/
def monMax : Int := 0x7FFFFFFF
/-- The least result. -/
def monMin : Int := -0x80000000

/-- A value that leaves the 32-bit range is saturated (R482). -/
def monClip (v : Int) : MonVal :=
  if monMax < v then ⟨monMax, true⟩ else if v < monMin then ⟨monMin, true⟩ else ⟨v, false⟩

/-- The current of a resistance in units of 2^-17 µA: source 1's trimmed value, or the mean of both in three-wire mode
(R481). -/
def State.monCurrent (s : State) (r : MonRun) : Nat :=
  let i := (excCurrent (s.excCode ((F.MON_CONV_EXC 0).of r.conv)) : Int)
  let t1 := F.MON_EXCTRIM_SRC1.int s
  let t2 := F.MON_EXCTRIM_SRC2.int s
  (i * (if (F.MON_CONV_WIRE 0).of r.conv = 1 then 131072 + t1 + t2 else 131072 + 2 * t1)).toNat

/-- The range of a temperature curve in °C (Table 17-3). -/
def curveRange (curve : Nat) : Int × Int :=
  match curve with
  | 2 | 3 => (-200, 850)
  | 4 => (-210, 1200)
  | 5 => (-270, 1372)
  | 6 => (-270, 400)
  | 7 => (-270, 1000)
  | 8 => (-270, 1300)
  | _ => (-55, 200)

/-- A saturated result at the end that a sign tells. DEDUCED (log 56). -/
def monSat (high : Bool) : MonVal := ⟨if high then monMax else monMin, true⟩

/-- A temperature of a curve, saturated outside the curve's range. DEDUCED (log 55). -/
def inRange (curve : Nat) (v : Int) : MonVal :=
  let r := curveRange curve
  if v < r.1 * 65536 then monSat false else if r.2 * 65536 < v then monSat true else ⟨v, false⟩

/-- The curve's result (R477, R482 to R484): V is code × 1.2 V / (G × 2^23), and R is V / I. A resistance without current has
no value at V = 0, and a free choice of the ends stands for it; so it does for a thermocouple without a cold junction.
DESIGN CHOICE (log 21), DEDUCED (log 56). -/
def State.curveResult (s : State) (r : MonRun) (code : Int) : MonVal :=
  let g := 2 ^ (F.MON_CONV_GAIN 0).of r.conv
  let curve := (F.MON_LIN_CURVE 0).of r.lin
  if code = 2 ^ 23 - 1 then monSat true
  else if code = -(2 ^ 23) then monSat false
  else if curve = 0 then monClip (rne (code * 1200) (128 * g))
  else if 4 ≤ curve ∧ curve ≤ 8 then
    if (F.ERR_TEMP_VALID 5).is s then
      inRange curve (Config.sensorCurve curve (code * 12) (10 * g * 2 ^ 23) ((F.ERR_TEMP_T 5).int s))
    else monSat (Config.freeBit s.free)
  else
    let i := s.monCurrent r
    let num := code * 1200000
    let den := 64 * g * i
    if den = 0 then monSat (if code = 0 then Config.freeBit s.free else decide (0 < code))
    else if num < 0 then monSat false
    else if (8380000 : Int) * (den : Int) < num then monSat true
    else if curve = 1 then monClip (rne (num * 256) den)
    else if curve = 9 then
      let p := (F.MON_PAR_BETA 0).of r.par * 65536 + (F.MON_PAR_R0 0).of r.par
      inRange curve (Config.sensorCurve curve num den (p : Int))
    else inRange curve (Config.sensorCurve curve num den 0)

/-- The result of a conversion: its curve and its polynomial (R482, R485). DESIGN CHOICE (log 21), DEDUCED (log 55). -/
def State.monValue (s : State) (r : MonRun) (code : Int) : MonVal :=
  let v := s.curveResult r code
  let p := (F.MON_LIN_POLY 0).of r.lin
  if v.sat ∨ p = 0 then v
  else
    let tent := (F.MON_LIN_TENT 0).of r.lin
    let t : Int :=
      if tent = 0x3F then (F.ERR_TEMP_T 5).int s * 16384
      else match sget (fun _ => none) s.mon.latest tent with
        | some w => w.toInt
        | none => 0
    let c := (List.range 16).map fun k => s.word (F.MON_POLYC_C (16 * (p - 1) + k)).addr
    monClip (Config.polynomial c v.v t)

/-- A result enters its entry's accumulator block (R494). DEDUCED (log 55). -/
def monAccumulate (e : Nat) (v : Int) (s : State) : State :=
  if (F.MON_ACC0_SAT e).is s then s
  else
    let n := (F.MON_ACC0_COUNT e).rd s + 1
    let sum := signedOf 48 (joinWords ((F.MON_ACC2_SUMH e).rd s) ((F.MON_ACC1_SUML e).rd s)) + v
    if n < 2 ^ 30 ∧ -(2 ^ 47) ≤ sum ∧ sum < 2 ^ 47 then
      let s := (F.MON_ACC0_COUNT e).wr n s
      let s := (F.MON_ACC1_SUML e).wr (wrapTo 48 sum) ((F.MON_ACC2_SUMH e).wr (wrapTo 48 sum / 2 ^ 32) s)
      let s := (F.MON_ACC3_MIN e).wrInt (min ((F.MON_ACC3_MIN e).int s) v) s
      (F.MON_ACC4_MAX e).wrInt (max ((F.MON_ACC4_MAX e).int s) v) s
    else (F.MON_ACC0_SAT e).wr 1 s

/-- An interlock latches, and cuts what it acts on (R487, R488). DEDUCED (log 56). -/
def latchIlk (exc : Bool) (e : Nat) (s : State) : State :=
  let f := if exc then F.MON_ILK_EXC else F.MON_ILK_LED
  let s := if f.is s then s else raiseFlag 0xC003 0 (f.wr 1 s)
  let s := F.MON_ILK_ENTRY.wr e s
  if exc then (match s.mon.cur with | some r => if r.excited then skipRest r s else s | none => s) else ledKill s

/-- What results of the BP that has ended bring at this BP boundary: interlocks latch, and the lamp-board temperature is handed to the LED
driver (R487, R495). -/
def monTurn (s : State) : State :=
  let l := s.mon.ilkDue
  let t := modMon (fun m => { m with ilkDue := [], handDue := none }) s
  let t := match s.mon.handDue with | some v => handTemp v t | none => t
  l.foldl (fun s x => latchIlk x.1 x.2 s) t

/-- A check starts the injected sequence, or asks for it once more (R491). DEDUCED (log 56). -/
def startInjectedSeq (s : State) : State :=
  if s.monIlen = 0 then s
  else match s.mon.inj with
    | some _ => modMon (fun m => { m with injPend := true }) s
    | none => wakeMonitor (modMon (fun m => { m with inj := some 0 }) s)

/-- The comparator takes a result; a move to OUT with an action is a check (R486). -/
def monCompare (r : MonRun) (v : Int) (s : State) : State :=
  let lo := r.lo.toInt
  let hi := r.hi.toInt
  let hyst := 256 * ((F.MON_CMP_HYST 0).of r.cmp : Int)
  let action := (F.MON_CMP_ACTION 0).of r.cmp
  let out := (F.MON_CMP_OUT r.entry).is s
  if v < lo ∨ hi < v then
    if out then s
    else
      let s := (F.MON_CMP_OUT r.entry).wr 1 s
      if action = 0 then s
      else
        let s := startInjectedSeq (raiseFlag 0xC003 2 (raiseEv (.all .check) s))
        if action < 2 then s else modMon (fun m => { m with ilkDue := m.ilkDue ++ [(action == 3, r.entry)] }) s
  else if lo + hyst ≤ v ∧ v ≤ hi - hyst then (F.MON_CMP_OUT r.entry).wr 0 s
  else s

/-- The run in progress after a result: it goes on, is interrupted, or ends; a self-calibration that waits for it begins (R490 to
R492, R496). -/
def afterResult (r : MonRun) (s : State) : State :=
  let s := if s.mon.cal.isSome then modMon (fun m => { m with calStart := some s.bp }) s else s
  let r' := { r with left := r.left - 1 }
  if r'.left = 0 then leaveRun r s
  else if s.mon.cal.isSome || (r.kind == .regular && s.mon.inj.isSome) then
    modMon (fun m => { m with cur := none, stopped := r' :: m.stopped }) s
  else modMon (fun m => { m with cur := some r' }) s

/-- A conversion delivers its result (R482, R486, R494, R495). DEDUCED (log 55). -/
def execMonResult (code : BitVec 24) (s : State) : Host.Outcome State Fault Refusal :=
  .next (match s.mon.cur with
    | some r =>
      if s.coreOn && s.mode.runs && (s.group 9).st == .active && !s.drained 23 then
        let v := s.monValue r code.toInt
        let s := State.drew 1 s
        let s := if v.sat then raiseFlag 0xC003 1 ((F.MON_ECNT_RANGE r.entry).count 1 s) else s
        let s := modMon (fun m => { m with latest := sput (fun _ => none) r.entry (some (BitVec.ofInt 32 v.v)) m.latest }) s
        let s := if r.kind = .regular then refreshed 23 r.entry s else s
        let s := monCompare r v.v (monAccumulate r.entry v.v s)
        let s := if F.MON_CTL_LEDTEN.is s && F.MON_CTL_LEDT.rd s == r.entry then modMon (fun m => { m with handDue := some v.v }) s else s
        afterResult r s
      else s
    | none => s)

/-- A write of 1 to a latch clears it while no entry of its action is OUT (R487). -/
def clearIlk (w : Nat) (s : State) : State :=
  let held := fun (action : Nat) => (List.range 40).any fun e => (F.MON_CMP_ACTION e).rd s == action && (F.MON_CMP_OUT e).is s
  let s' := if natBit w 0 && !held 2 then F.MON_ILK_LED.wr 0 s else s
  nextRow (if natBit w 1 && !held 3 then F.MON_ILK_EXC.wr 0 s' else s')

/-! ### Self-calibration -/

/-- The self-calibration of the monitor has had its 1,600,000 BP for each gain since the result in progress ended (R496).
DESIGN CHOICE (log 5). -/
def State.monCalOver (s : State) (mask : BitVec 8) : Bool :=
  match s.mon.calStart with
  | some b => Nat.ble (b + 1600000 * (below 8 mask.getLsbD).length) s.bp
  | none => false

/-- The self-calibration of the monitor ends: the measured factors are free values (R496, R497). DESIGN CHOICE (log 18). -/
def execMonSelfcalDone (s : State) : Host.Outcome State Fault Refusal :=
  .next (match s.mon.cal with
    | some mask =>
      if s.coreOn && s.monCalOver mask then
        let one := fun (k : Nat) (s : State) =>
          let s := (F.MON_CALG_OFF k).wr (s.freeNow 0).toNat ((F.MON_CALG_QUAL k).wr (s.freeNow 1).toNat s)
          State.drew 3 ((F.MON_CALGG_GAIN k).wr (s.freeNow 2).toNat s)
        let s := overList (below 8 fun k => mask.getLsbD k) one s
        let s := State.drew 2 (F.MON_EXCTRIM_SRC1.wr (s.freeNow 0).toNat (F.MON_EXCTRIM_SRC2.wr (s.freeNow 1).toNat s))
        let s := F.MON_CALSTAMP_VALID.wr 1 (F.MON_CALSTAMP_TEMP.wr ((F.ERR_TEMP_T 5).rd s) s)
        let s := F.MON_STAT_GAINCAL.wr (Nat.lor (F.MON_STAT_GAINCAL.rd s) mask.toNat) s
        let s := raiseEv (.all .calDone) (modMon (fun m => { m with cal := none, calStart := none }) s)
        calReport false true s
      else s
    | none => s)

end Sys2Proof.Machine
end

