-- ==== Sys2Proof/Machine/Devices.lean ====
section
/-!
DEFINITION. Sys2Proof/Machine/Devices.lean: the device instructions but for RESTART (R180 to R193, Tables 4-3 and 6-7), the
mode transitions that POWER and CAL ask for (R94 to R101), waits that end, and the events of the board (R127, R132 to R146).
-/
namespace Sys2Proof.Machine

/-! ### Checks -/

/-- The claim rule: the side's effective rating equals the highest live claim; program squares are never checked (R423). -/
def State.claimOk (s : State) : Issuer → Bool
  | .prog _ => true
  | .host side _ => s.rating side == s.topClaim

/-- `CONV` of a quadrant is legal. -/
def Mode.convOk : Mode → Bool
  | .idle | .test => true
  | _ => false

/-- `CAL` is legal. -/
def Mode.calOk : Mode → Bool
  | .idle | .calibrate => true
  | _ => false

/-- `LEDP` is legal. -/
def Mode.ledpOk : Mode → Bool
  | .idle | .stream | .capture | .test => true
  | _ => false

/-- `RESTART` is legal. -/
def Mode.restartOk : Mode → Bool
  | .idle | .calibrate | .stream | .capture | .test => true
  | _ => false

/-- A discretionary instruction pays, waits or is refused (R143 to R146). -/
def payThen (i cost : Nat) (s : State) (k : State → Outc) : Outc :=
  match pay i cost s with
  | .refused t => refuse .budget t
  | .waits t => .stay t
  | .paid t => k t

/-! ### Held instructions -/

/-- An accepted instruction holds its square (R127): it is RUNNING, and its F flag is clear (R162).
DESIGN CHOICE (logs 5, 65). -/
def hold (by_ : Issuer) (h : Hold) (s : State) : Outc :=
  let s := clearF by_ true s
  let s := s.modSquare by_.idx fun q => { q with held := some h }
  .stay (match by_ with
    | .prog q => s.modSquare (q.val + 1) fun x => { x with state := .running }
    | .host side id => { s with a1 := { s.a1 with running := some ⟨side, id, 0, 0⟩ } })

/-- A square's held instruction completes; a STOP or FREE that waited for it takes effect (R127). DESIGN CHOICE (log 65). -/
def finishHeld (i : Nat) (gd : Word) (s : State) : State :=
  if i = 0 then
    let s := s.modSquare 0 fun q => { q with held := none }
    match s.a1.running with
    | some c => ackHost c.side c.id gd { s with a1 := { s.a1 with running := none } }
    | none => s
  else
    s.modSquare i fun q =>
      let q := { q with held := none, pc := q.pc + 1 }
      match q.deferred with
      | .none => { q with state := .ready }
      | .stop => q.leave .halted
      | .free => q.leave .free

/-! ### CONV and CAL -/

/-- `CONV` naming a quadrant (R181, R229): it runs g[ga] BP from the next BP boundary at which the quadrant is ACTIVE; a running one
takes the new count. -/
def execConvQuadrant (by_ : Issuer) (ga : Reg) (quad : BitVec 2) (s : State) : Host.Outcome State Fault Refusal :=
  .next (issue by_ 0x30 true (fun s =>
    let q := quad.toNat
    let n := (s.reg by_.idx ga).toNat
    if !s.hasQuad q then refuse .absent s
    else if !s.mode.convOk then refuse .state s
    else if n = 0 ∨ 2 ^ 24 < n ∨ (List.range 4).all (fun i => streamsFit (fun f => f.rd s) (4 * q + i)) = false then
      refuse .range s
    else
      let r : QuadRun := match s.quadConv q with
        | some r =>
          if r.first.isSome && !r.ended then { r with stop := s.bp + 1 + n }
          else { count := n, prev := if r.ended then some (r.first.getD 0, r.stop) else r.prev }
        | none => { count := n }
      .done 0 (wakeFn (5 + q) (setQuadConv q (some r) s))) s)

/-- The `CONV` of each ACTIVE quadrant that waits for its start begins in this BP, and ended ones whose last samples have been
delivered are forgotten (R181). -/
def startConvs (s : State) : State :=
  overList (List.range 4) (fun q s =>
    match s.quadConv q with
    | some r =>
      if r.ended then (if r.stop + 4 < s.bp then setQuadConv q none s else s)
      else if r.first.isNone && s.quadState q == .active then
        setQuadConv q (some { r with first := some s.bp, stop := s.bp + r.count }) s
      else s
    | none => s) s

/-- A quadrant's `CONV` has run its BP: the quadrant no longer works for it (R181). -/
def execConvCountEnd (quad : Fin 4) (s : State) : Host.Outcome State Fault Refusal :=
  .next (match s.quadConv quad with
    | some r =>
      if s.coreOn && r.first.isSome && Nat.ble r.stop s.bp then setQuadConv quad (some { r with ended := true }) s else s
    | none => s)

/-- `CONV` naming the monitor (R182): with excitation it is discretionary and under the claim rule; it holds its square until
the monitor accepts it. -/
def execConvMonitor (by_ : Issuer) (entry : BitVec 5) (s : State) : Host.Outcome State Fault Refusal :=
  .next (issue by_ 0x30 true (fun s =>
    let e := entry.toNat
    if s.mon.cal.isSome then refuse .state s
    else if s.monLen ≤ e ∨ (F.MON_CONV_EXC e).rd s = 7 then refuse .range s
    else if s.excited e then
      if s.claimOk by_ then payThen by_.idx (s.monCost e) s fun t => hold by_ (.conv entry) (wakeMonitor t)
      else refuse .claim s
    else hold by_ (.conv entry) (wakeMonitor s)) s)

/-- The monitor accepts a waiting `CONV` at the end of the conversion in progress; a regular run that still has results to
deliver follows it (R182, R492). -/
def execMonConvAccepted (sq : Fin 64) (s : State) : Host.Outcome State Fault Refusal :=
  .next (match (s.square sq).held with
    | some (.conv e) =>
      if s.monRuns then
        let s := modMon (fun m => { m with extra := m.extra ++ [e.toNat] }) s
        let s := match s.mon.cur with
          | some r => if r.kind = .regular then modMon (fun m => { m with cur := none, stopped := r :: m.stopped }) s else s
          | none => s
        finishHeld sq 0 s
      else s
    | _ => s)

/-- A `CONV` of a quadrant ends with the BP that runs; its last samples are still on their way. -/
def QuadRun.cut (bp : Nat) (r : QuadRun) : Option QuadRun :=
  if r.first.isSome then some { r with stop := Nat.min r.stop (bp + 1), ended := true }
  else r.prev.map fun p => { count := 0, first := some p.1, stop := p.2, ended := true }

/-- Every `CONV` of a quadrant ends, and background recalibrations are abandoned (R246). DEDUCED (log 54). -/
def endConversions (s : State) : State :=
  let s := { s with quadRun := smap (fun _ => none) (fun r => r.bind (QuadRun.cut s.bp)) s.quadRun, bgDone := [] }
  let s := { s with hwreqs := s.hwreqs.filter fun r => match r.work with | .recal _ => false | _ => true }
  match s.gap.lane with
  | .adc _ _ => laneChoose s
  | .waiting => if s.hwreqs.any fun r => r.work.gapBound && r.work != .scrub then s else laneChoose s
  | _ => s

/-- A `CAL` with target 0 is accepted: it takes effect at the next BP boundary (R245, R246). -/
def askAdcCal (s : State) : State := { endConversions s with adcAsk := true }

/-- The self-calibration of the converters takes effect at a BP boundary: it is BUSY, every stamp is invalid, and the
discriminators are inactive (Table 8-5, R245). DEDUCED (log 54). -/
def startAdcCal (s : State) : State :=
  if s.adcAsk then
    let s := overList s.chans (fun c => (F.ADC_STAMP_VALID c).wr 0) (F.ADC_CFG0_BUSY.wr 1 (endConversions s))
    let s := settleDiscs true { s with adcAsk := false, adcCal := true, adcStart := s.bp }
    overList ((List.range 4).filter s.hasQuad) (fun q => wakeFn (5 + q)) s
  else s

/-- `CAL` with target 0 (R183, R245). -/
def execCalConverters (by_ : Issuer) (s : State) : Host.Outcome State Fault Refusal :=
  .next (issue by_ 0x31 true (fun s =>
    if !s.mode.calOk || s.adcCal || s.adcAsk then refuse .state s
    else payThen by_.idx 2700000 s fun t => .done 0 (askAdcCal t)) s)

/-- The number of gains in a mask. -/
def maskCount (m : Nat) : Nat := (below 8 (natBit m)).length

/-- `CAL` with target 1 (R183, R496): a mask of 0 takes every gain in use. -/
def execCalMonitor (by_ : Issuer) (mask : BitVec 8) (s : State) : Host.Outcome State Fault Refusal :=
  .next (issue by_ 0x31 true (fun s =>
    let m := if mask = 0 then s.gainsInUse else mask.toNat
    if !s.mode.calOk || s.mon.cal.isSome then refuse .state s
    else if m = 0 then refuse .range s
    else payThen by_.idx (400000 * maskCount m) s fun t =>
      let t := modMon (fun x => { x with cal := some (BitVec.ofNat 8 m), calStart := if x.cur.isNone then some t.bp else none }) (F.MON_CALSTAMP_VALID.wr 0 t)
      .done 0 (wakeMonitor t)) s)

/-- One slice takes the measured factors of a self-calibration, which are free values, and its stamp (R241 to R245).
DESIGN CHOICE (log 18). -/
def newFactors (c temp : Nat) (bg : Bool) (s : State) : State :=
  let v := fun k => (s.freeNow (8 * c + k)).toNat
  let s := (F.ADC_CALA_OFF c).wr (v 0) ((F.ADC_CALA_GAIN c).wr (v 1) s)
  let s := (F.ADC_CALB_OFF c).wr (v 2) ((F.ADC_CALB_GAIN c).wr (v 3) s)
  let s := (F.ADC_RQ_K c).wr (v 4) ((F.ADC_RQ_QA c).wr (v 5) ((F.ADC_RQ_QB c).wr (v 5 / 256) s))
  let s := if bg then (F.ADC_STAMP_RUNS c).count 1 ((F.ADC_STAMP_BG c).wr 1 s)
    else (F.ADC_WSEL_A c).wr (v 6) ((F.ADC_WSEL_B c).wr (v 6 / 65536) ((F.ADC_STAMP_RUNS c).wr 0 ((F.ADC_STAMP_BG c).wr 0 s)))
  (F.ADC_STAMP_VALID c).wr 1 ((F.ADC_STAMP_TEMP c).wr temp s)

/-- The self-calibration of the converters ends after 720,000 BP: factors, quality figures and stamps are written together, CALDONE is raised
and the report is sent (R243, Table 8-5, R245). DESIGN CHOICE (logs 5, 18). -/
def execAdcSelfcalDone (s : State) : Host.Outcome State Fault Refusal :=
  .next (if s.coreOn && s.adcCal && Nat.ble (s.adcStart + 720000) s.bp then
      let s := overList s.chans (fun c s => newFactors c ((F.ERR_TEMP_T (c / 64)).rd s) false s) s
      let s := raiseEv (.all .calDone) { F.ADC_CFG0_BUSY.wr 0 (s.drew 2048) with adcCal := false }
      calReport false false s
    else s)

/-! ### LEDP, MARK, ARM and EMIT -/

/-- The slot that the LED driver takes a train into; a driver in restart takes none (R85, R185). -/
def State.ledSlot (s : State) : Option Nat := if s.stoppedAt 24 s.bp then none else s.led.freeSlot

/-- `LEDP` (R184, R185): the whole cost is charged at acceptance, and the square is held while no slot is free. -/
def execLedp (by_ : Issuer) (gs ga : Reg) (lamp : BitVec 7) (slow : Bool) (count : BitVec 10) (s : State) :
    Host.Outcome State Fault Refusal :=
  .next (issue by_ 0x32 true (fun s =>
    let i := by_.idx
    let vs := s.reg i gs
    let va := s.reg i ga
    let code := va.toNat / 2 ^ 24
    if !s.hasLed then refuse .absent s
    else if !s.mode.ledpOk then refuse .state s
    else match ledQuarters slow (va.toNat % 2 ^ 24), decide (count = 0) with
      | some w, false =>
        if s.claimOk by_ then
          payThen i (count.toNat * ledCost code w) s fun t =>
            match t.ledSlot with
            | some k => .done 0 (putTrain k lamp.toNat slow count.toNat vs va t)
            | none => hold by_ (.ledp lamp slow count vs va) t
        else refuse .claim s
      | _, _ => refuse .range s) s)

/-- A slot of the LED queue is free, and a waiting `LEDP` completes (R185). -/
def execLedpSlotFreed (sq : Fin 64) (s : State) : Host.Outcome State Fault Refusal :=
  .next (match (s.square sq).held, s.ledSlot with
    | some (.ledp lamp slow count gs ga), some k =>
      if s.mode.runs then finishHeld sq 0 (putTrain k lamp.toNat slow count.toNat gs ga s) else s
    | _, _ => s)

/-- `MARK` (R186, R330): the mark record of the current BP, whose BCID goes to gd. -/
def execMark (by_ : Issuer) (gd : Reg) (openWin : Bool) (tag : BitVec 16) (s : State) :
    Host.Outcome State Fault Refusal :=
  .next (issue by_ 0x33 true (fun s =>
    if s.mode = .stream then
      result by_.idx gd (BitVec.ofNat 32 s.bcid) (fireDrivers 1 (makeMark .instr 0 0 tag openWin s.tag s))
    else refuse .state s) s)

/-- `ARM` (R187, R325, R326): the effective window is fixed and shown, and the capture area is asked for. DEDUCED (log 47). -/
def execArm (by_ : Issuer) (timeout : BitVec 16) (s : State) : Host.Outcome State Fault Refusal :=
  .next (issue by_ 0x34 true (fun s =>
    let busy := match s.cap.st with | .waitRel | .armed | .post => true | _ => false
    if s.mode ≠ .capture ∨ busy = true then refuse .state s
    else
      let w := s.capEff
      let short := decide (w.1 < F.ACQ_CAPWIN_POST.rd s) || decide (w.2 < F.ACQ_CAPWIN_PRE.rd s)
      let s := F.ACQ_CAPEFF_POST.wr w.1 (F.ACQ_CAPEFF_PRE.wr w.2 s)
      let s := if short then raiseFlag 0x9031 3 s else s
      .done 0 (allocCapture { s with cap := { s.cap with st := .waitRel, post := w.1, pre := w.2, timeout := timeout.toNat,
                                                          buf := [] } })) s)

/-- The words that an `EMIT` reads; an uncorrectable word is found, and what it reads as is a free value (R188, R520).
DESIGN CHOICE (log 57). -/
def emitWords (a : Nat) : Nat → State → List Word × State
  | 0, s => ([], s)
  | n + 1, s =>
    let bad := s.scratchBad.contains a
    let w := if bad then s.freeNow 0 else Memory.read s.scratch a
    let r := emitWords (a + 1) n (if bad then foundBad 3 a (s.drew 1) else s)
    (w :: r.1, r.2)

/-- The program record of an `EMIT` (kind 0x03, Tables 11-11 and 11-12), of this moment. -/
def State.emitRecord (s : State) (i : Nat) (tag : BitVec 6) (words : List Word) : Waiting :=
  { region := regionC, cls := .m, tag := s.tag, stale := false, hold := false, aged := false, part := false,
    r := .m 3 i s.mode.code s.bcid tag words }

/-- The class M queue takes a program record, where it can (R188). -/
def emitNow (i : Nat) (tag : BitVec 6) (words : List Word) (s : State) : Option State :=
  if s.ringFills || s.portBlocked regionC .m then none
  else
    let r := tryEnter (s.emitRecord i tag words) s
    if r.2 then some r.1 else none

/-- `EMIT` (R188). -/
def execEmit (by_ : Issuer) (ga : Reg) (tag : BitVec 6) (n : BitVec 12) (s : State) : Host.Outcome State Fault Refusal :=
  .next (issue by_ 0x35 true (fun s =>
    let i := by_.idx
    let a := (s.reg i ga).toNat
    let k := n.toNat
    if k = 0 ∨ 2040 < k ∨ 4096 < a + k then refuse .range s
    else
      let r := emitWords a k s
      match emitNow i tag r.1 r.2 with
      | some t => .done 0 t
      | none => hold by_ (.emit tag r.1) r.2) s)

/-- The class M queue can take the record of a waiting `EMIT`, which completes (R188). -/
def execEmitQueueAccept (sq : Fin 64) (s : State) : Host.Outcome State Fault Refusal :=
  .next (match (s.square sq).held with
    | some (.emit tag words) =>
      if s.mode.runs then
        match emitNow sq tag words s with
        | some t => finishHeld sq 0 t
        | none => s
      else s
    | _ => s)

/-! ### POWER -/

/-- Every group of the quadrants, lanes and trigger ports that the part has. -/
def State.heldGroups (s : State) : List Nat := (List.range 9).filter s.hasFn

/-- A packet of another class than M waits for a lane group's side. -/
def State.urgentFor (s : State) (side : Side) : Bool :=
  s.packets.any fun p => p.st == .complete && !(p.sent.get side) && !(p.cls == .m)

/-- The groups held by DOZE or DEEP start their exit; waking a quadrant or the trigger ports is charged, and waking a lane group
where packets of classes H, W or S wait for it (Table 4-2, R110, R139, Table 5-4). DEDUCED (log 40). -/
def wakeHeld (s : State) : State :=
  overList s.heldGroups (fun n s => if n < 4 ∧ s.urgentFor (lgSide n) = false then startExit n .active s else wakeFn n s) s

/-- A capture window is being filled (R101). -/
def State.filling (s : State) : Bool := s.cap.st == .post

/-- A capture that waits for its trigger is disarmed (R101). -/
def disarmIfArmed (s : State) : State :=
  match s.cap.st with
  | .armed | .waitRel => disarm s
  | _ => s

/-- `POWER` with target IDLE, by the mode it finds: it cancels a pending entry, or asks for the exit (R94, R95, R100, R101, Table
4-2); none where it is refused. -/
def powerIdle (s : State) : Option State :=
  match s.target with
  | some .idle => none
  | some _ => some { s with target := none }
  | none =>
    match s.mode with
    | .stream | .capture | .test => some { s with target := some .idle }
    | .doze | .deep => some (wakeHeld { s with target := some .idle })
    | _ => none

/-- The ADC stamp is valid (R244). -/
def State.stampsValid (s : State) : Bool := s.chans.all fun c => (F.ADC_STAMP_VALID c).is s

/-- The calibration conditions of R79. -/
def State.calibrated (s : State) : Bool := s.adcOk && s.monOk

/-- The exits of the quadrants that an entry needs start. -/
def wakeQuads (s : State) : State := overList s.neededQuads wakeFn s

/-- `POWER` with another target is pending from its acceptance (R94, R95, R98, R99, R101); none where it is refused.
DEDUCED (log 39). -/
def powerTo (m : Mode) (s : State) : Option State :=
  if s.target.isSome then none
  else
    let asked := { s with target := some m }
    match m, s.mode with
    | .stream, .idle => if F.PWR_ADM_ADMITTED.is s && s.calibrated then some (wakeFn 4 (wakeQuads asked)) else none
    | .capture, .idle => if s.stampsValid then some (wakeQuads asked) else none
    | .doze, .idle | .deep, .idle | .deep, .doze => some asked
    | .test, .idle => if s.pins.testen then some asked else none
    | _, _ => none

/-- A self-calibration runs. -/
def State.calibrates (s : State) : Bool := s.adcCal || s.mon.cal.isSome

/-- IDLE ends at this BP boundary for a self-calibration that has been accepted, which cancels a pending request, or for a pending
entry whose groups are ready; an entry into STREAM waits for an orbit start (R93, R96, R101, Table 4-2). -/
def leaveIdle (s : State) : State :=
  if s.calibrates then enterMode .calibrate (cancelPending s)
  else match s.target with
    | some .capture => if s.allActive s.neededQuads then enterMode .capture s else s
    | some .doze => enterMode .doze s
    | some .deep => enterMode .deep s
    | some .test => enterMode .test s
    | _ => s

/-- The mode transitions of a BP boundary (R93, R96, R101, Table 4-2). DEDUCED (log 39). -/
def modeTurn (s : State) : State :=
  let asked := s.target == some .idle
  match s.mode with
  | .idle => leaveIdle s
  | .calibrate => if s.calibrates then s else enterMode .idle (cancelPending s)
  | .capture => if asked && !s.filling then enterMode .idle (disarmIfArmed s) else s
  | .doze =>
    if s.target == some .deep then enterMode .deep s
    else if asked && s.allActive s.heldGroups then enterMode .idle s else s
  | .deep => if asked && s.allActive s.heldGroups then enterMode .idle s else s
  | .test =>
    if (asked || s.testEnd) && !s.fusing then enterMode .idle (if s.testEnd then cancelPending s else s) else s
  | _ => s

/-- `POWER` (R94, R95, R190): gd receives the mode code in effect at its issue. -/
def execPower (by_ : Issuer) (gd : Reg) (target : BitVec 4) (s : State) : Host.Outcome State Fault Refusal :=
  .next (issue by_ 0x37 true (fun s =>
    let code := BitVec.ofNat 32 s.mode.code
    match Mode.ofCode target.toNat with
    | none => refuse .range s
    | some m =>
      match (if m = .idle then powerIdle s else powerTo m s) with
      | some t => result by_.idx gd code t
      | none => refuse .state s) s)

/-! ### SPEND, ADMIT and FUSE -/

/-- `SPEND` (R191): gd receives the whole EU left in the bucket. -/
def execSpend (by_ : Issuer) (gd ga : Reg) (eu : BitVec 18) (s : State) : Host.Outcome State Fault Refusal :=
  .next (issue by_ 0x38 true (fun s =>
    let i := by_.idx
    let c := (s.reg i ga).toNat + eu.toNat
    if 2 ^ 24 < c then refuse .range s
    else payThen i c s fun t => result i gd (BitVec.ofNat 32 (t.bucket / 256)) t) s)

/-- `ADMIT` (R148, R192). -/
def execAdmit (by_ : Issuer) (gd : Reg) (operand : BitVec 18) (s : State) : Host.Outcome State Fault Refusal :=
  .next (issue by_ 0x39 true (fun s =>
    let std := operand.toNat % 2
    if s.mode ≠ .idle then refuse .state s
    else if 1 < operand.toNat then refuse .range s
    else match s.admitFails std with
      | some f => .refuse .range f.1 f.2 s
      | none =>
        let t := F.PWR_ADM_ADMITTED.wr 1 (F.PWR_ADM_STD.wr std { s with admDirty := false })
        result by_.idx gd (BitVec.ofNat 32 s.declComing) t) s)

/-- `FUSE` (R193, R545): it programs for 10 µs a bit, and holds its square until it ends. DEDUCED (log 58). -/
def execFuse (by_ : Issuer) (gd ga : Reg) (offset : BitVec 8) (s : State) : Host.Outcome State Fault Refusal :=
  .next (issue by_ 0x3B true (fun s =>
    let off := offset.toNat
    if off = 10 ∧ s.isB = true then refuse .absent s
    else if s.mode ≠ .test then refuse .state s
    else if off < 8 ∨ 13 < off ∨ natBit (s.fuseWord 12).toNat (off - 8) = true then refuse .range s
    else hold by_ (.fuse offset (s.reg by_.idx ga) gd) s) s)

/-- A `FUSE` ends: of the requested bits those in `burned` programmed; gd and Z take the ones that did not (R106, R193, R557).
Of several, that of the square with the lowest index ends first. DEDUCED (log 58). -/
def execFuseProgramDone (burned : Word) (s : State) : Host.Outcome State Fault Refusal :=
  .next (match if s.mode = .test then s.squareList.find? fun e => e.2.fusing else none with
    | some e =>
      match e.2.held with
      | some (.fuse offset bits gd) =>
        let off := offset.toNat
        let s := burnFuses off (bits &&& burned) s
        let left := bits &&& ~~~(s.fuseWord off)
        let s := (setReg e.1 gd left s).modSquare e.1 fun q => { q with z := left == 0 }
        finishHeld e.1 (ackValue gd left) s
      | _ => s
    | none => s)

/-! ### Grants and refills -/

/-- The head of the wait order is a square: its cost is held as a reservation and it becomes READY (R144). -/
def execBudgetGrant (s : State) : Host.Outcome State Fault Refusal :=
  .next (if s.coreOn then
      match s.grantable with
      | some w =>
        if w.idx < 64 then s.modSquare w.idx fun q => { q with state := .ready, resv := some w.cost } else s
      | none => s
    else s)

/-- The refill of one BP (R136, R137). -/
def execBucketRefill (s : State) : Host.Outcome State Fault Refusal := .next (if s.coreOn then refillBucket s else s)

/-! ### Events -/

/-- A square latches an event (R132, R134, R135). -/
def Square.latch (q : Square) (bit : Nat) : Square :=
  if q.evmask.getLsbD bit then
    let m := BitVec.ofNat 13 (2 ^ bit)
    let q := if q.evpend.getLsbD bit then { q with evovr := if q.evovr = 0xFFFF then q.evovr else q.evovr + 1 }
      else { q with evpend := q.evpend ||| m }
    if q.state = .waitEvent ∧ q.waitMask &&& m ≠ 0 then { q with state := .ready, waitMask := 0 } else q
  else q

/-- The bit of a raised event. -/
def Raised.bit : Raised → Nat
  | .all e => e.bit
  | .one e _ => e.bit
  | .group _ => Event.tev.bit

/-- A raised event is meant for a square (Table 5-3). -/
def Raised.hits (r : Raised) (i : Nat) (q : Square) : Bool :=
  match r with
  | .all _ => true
  | .one _ j => i == j
  | .group g => q.tevg.getLsbD g

/-- The oldest raised event is latched into the pending sets of the squares whose event mask has its bit (R132 to R135).
DESIGN CHOICE (log 8). -/
def execEventLatch (s : State) : Host.Outcome State Fault Refusal :=
  .next (match s.raised with
    | r :: l =>
      if s.mode.runs then
        let f := fun (s : State) (i : Nat) =>
          if !(i == 0) && r.hits i (s.square i) then s.modSquare i (fun q => q.latch r.bit) else s
        (List.range 64).foldl f { s with raised := l }
      else s
    | [] => s)

/-- A square's BP timer has stepped from 1 to 0 and raises TIMER (R133). -/
def raiseTimer (sq : Nat) (s : State) : State :=
  if (s.square sq).timerDue then raiseEv (.one .timer sq) (s.modSquare sq fun q => { q with timerDue := false }) else s

/-- A square's BP timer has stepped from 1 to 0 at the last BP boundary and raises TIMER (R133). -/
def execTimerExpiry (sq : Fin 64) (s : State) : Host.Outcome State Fault Refusal :=
  .next (if s.coreOn then raiseTimer sq s else s)

/-- The BCID equals a square's enabled BUNCH value: BUNCH is raised once in that BP (R132, Table 5-3). -/
def execBunchMatch (sq : Fin 64) (s : State) : Host.Outcome State Fault Refusal :=
  .next (
    let q := s.square sq
    if s.coreOn && q.bunchEn && q.bunch.toNat == s.bcid && !(q.bunchBp == some s.bp) then
      raiseEv (.one .bunch sq) (s.modSquare sq fun q => { q with bunchBp := some s.bp })
    else s)

/-! ### Power groups -/

/-- A group completes its exit (R109, R113, R115, R398): out of DEEP it is a returning unit, its transmitters start, and a lamp
driver chooses its row. -/
def execGroupExitComplete (g : Fin 11) (s : State) : Host.Outcome State Fault Refusal :=
  .next (match (s.group g).exit with
    | some t =>
      if s.coreOn then
        let was := (s.group g).st
        let s := takeState g t s
        let s := if was = .deep then fnReturned g s else s
        let s := if t = .active then startLines g (was == .idle) s else s
        if g.val = 10 then nextRow s else s
      else s
    | none => s)

/-- A group that has been idle for 64 consecutive BP moves to the deepest state its tolerance allows (R110, R111).
DEDUCED (log 40). -/
def execGroupIdleTimeout (g : Fin 11) (s : State) : Host.Outcome State Fault Refusal :=
  .next (
    let t := s.restState g
    if s.coreOn && s.hasFn g && s.fnIdle g && Nat.ble ((s.group g).since + 64) s.bp && (s.group g).exit.isNone &&
        !((s.group g).st == .off) && Nat.blt (s.group g).st.code t.code then takeState g t s
    else s)

/-- The state that a group is in or on its way to. -/
def GroupSt.bound (x : GroupSt) : PState := x.exit.getD x.st

/-- A latency tolerance is written: a group whose state no longer meets it starts moving at once, one that is on its way to a
state that does not meets it changes its aim, and a raised tolerance counts its 64 BP of idleness from here (R112).
DEDUCED (log 40). -/
def writeTolerance (g : Nat) (value : Nat) (s : State) : State :=
  let v := value % 2 ^ 24
  let raised := Nat.blt ((F.PWR_LTOL_NS g).rd s) v
  let s := (F.PWR_LTOL_NS g).wr v s
  let x := s.group g
  let slow := match x.bound with
    | .idle => decide (v < exitIdle g)
    | .deep => decide (v < exitDeep g)
    | _ => false
  let t := s.restState g
  if s.coreOn && s.hasFn g then
    if slow && Nat.blt t.code x.bound.code then s.setGroup g { x with exit := some t }
    else if raised then s.setGroup g { x with since := s.bp }
    else s
  else s

/-- A write to `PWR.LTOLn` (R112). -/
def execPwrLtolWrite (g : Fin 11) (value : Word) (s : State) : Host.Outcome State Fault Refusal :=
  .next (if s.accessible then writeTolerance g value.toNat s else s)

end Sys2Proof.Machine
end

