-- ==== Sys2Proof/Machine/BufferCmds.lean ====
section
/-!
DEFINITION. Sys2Proof/Machine/BufferCmds.lean: the commands of the frame buffer and the compression block: records that wait,
compression jobs, framers and gambits, release, dead sides and scrubbing (R334 to R369, R428 to R431, R462).
-/
namespace Sys2Proof.Machine

/-- A record that waits at its region's write port obtains its page and descriptor (R339, R340). -/
def execRecordSpaceGrant (r : Fin 6) (s : State) : Host.Outcome State Fault Refusal :=
  .next (if s.coreOn then grantRegion r s else s)

/-! ### Words that are corrected or poisoned -/

/-- A read of a bank corrects a word; only the first correction sets CORR (R348). -/
def correctedWord (bank : Nat) (s : State) : State := raiseFirst 0xA00A 0 ((F.BUF_ECC_CE bank).count 1 s)

/-- An uncorrectable word is counted and reported (R349, R520, R521). DEDUCED (log 30). -/
def badWord (bank : Nat) (detail : Word) (s : State) : State :=
  faultReport 1 1 31 bank detail (raiseFlag F.ERR_STICKY_CELLUE.addr 0 ((F.BUF_ECC_UE bank).count 1 s))

/-- An uncorrectable word of a packet is poisoned (R349). An open packet has no sequence number yet, and a free value stands
for it. DEDUCED (log 30). -/
def poisonWord (bank : Nat) (p : Packet) (s : State) : State :=
  let seq := if p.st = .opened then s.freeNow 0 else p.seq
  let s := if p.st = .opened then s.drew 1 else s
  let s := s.modPacket p.pid fun p => { p with poisoned := true }
  badWord bank seq (F.BUF_POISONSEQ_SEQ.wr seq.toNat (raiseFlag 0xA00A 1 s))

/-- What is wrong with a stored word. -/
def State.errAt (s : State) (k : Nat) : Option WordErr := sget (fun _ => none) s.bufErr k

/-- An upset strikes a stored word; a word that cannot be corrected stays so until it is written (R348, R349). -/
def strike (k : Nat) (flips : Option (BitVec 64)) (s : State) : State :=
  let e : WordErr := match flips, s.errAt k with
    | some m, _ => .double m
    | none, some e => e
    | none, none => .single
  { s with bufErr := sput (fun _ => none) k (some e) s.bufErr }

/-- Upsets strike words among the first n of a chain. DEDUCED (log 28). -/
def strikeWords (chain : List Nat) (n : Nat) (l : List Upset) (s : State) : State :=
  l.foldl (fun s (u : Upset) =>
    match placeOfWord chain u.word with
    | some k => if u.word < n then strike k u.flips s else s
    | none => s) s

/-- A read of a stored word of a packet, with what its check finds (R348, R349); the word stays as it is.
DEDUCED (logs 28, 30). -/
def readWord (pid k : Nat) (s : State) : State :=
  match s.errAt k, s.packet pid with
  | some .single, _ => correctedWord (bankOf k) s
  | some (.double _), some p => poisonWord (bankOf k) p s
  | _, _ => s

/-- The first n words of a chain are read. -/
def readWords (pid : Nat) (chain : List Nat) (n : Nat) (s : State) : State :=
  overList ((List.range n).filterMap (placeOfWord chain)) (readWord pid) s

/-- The data bits of a stored word that read flipped. -/
def State.flipsAt (s : State) (k : Nat) : Nat :=
  match s.errAt k with
  | some (.double m) => m.toNat
  | _ => 0

/-- The bytes of a packet as reads of the banks deliver them: those of an uncorrectable word as read (R349). -/
def State.readBytes (s : State) (p : Packet) : List Byte :=
  if s.bufErr.isEmpty then p.held
  else p.held.zipIdx.map fun e =>
    match placeOfWord p.heldIn (e.2 / 8) with
    | some k => e.1 ^^^ BitVec.ofNat 8 (s.flipsAt k / 2 ^ (8 * (7 - e.2 % 8)))
    | none => e.1

/-! ### Compression jobs -/

/-- A sequence number is older than another: compared by signed 32-bit difference (R344). -/
def olderSeq (a b : Word) : Bool := decide ((a - b).toInt < 0)

/-- The packet of a list with the oldest sequence number. -/
def oldestPacket : List Packet → Option Packet
  | [] => none
  | a :: r =>
    match oldestPacket r with
    | none => some a
    | some b => some (if olderSeq b.seq a.seq then b else a)

/-- The packet whose job an engine runs. -/
def State.jobOf (s : State) (e : Nat) : Option Packet :=
  match s.jobs.find? fun j => j.1 == e with
  | some j => s.packet j.2
  | none => none

/-- The lowest-numbered engine that is enabled, not quarantined and free (R357). -/
def State.freeEngine (s : State) : Option Nat :=
  (List.range 8).find? fun e => s.engineUp e && !(s.jobs.any fun j => j.1 == e)

/-- With no engine enabled and unquarantined, every packet that waits for one leaves in stored form (R368, R369). -/
def storeQueued (s : State) : State :=
  if (below 8 s.engineUp).isEmpty then
    (s.packets.filter fun p => p.st == .queued).foldl (fun s p =>
      notice p.cls (s.modPacket p.pid fun p => { p with st := .complete, form := .stored 4 0 0 0 0 })) s
  else s

/-- The packet closed first of those that wait takes a free engine, once the pages of its output slot can be allocated (R357,
R363, R367). -/
def startJob (s : State) : State :=
  match oldestPacket (s.packets.filter fun p => p.st == .queued), s.freeEngine with
  | some p, some e =>
    let n := pagesOf p.slot
    if s.pagesFor p.cls n then
      let t := s.takePages n
      { t.2.modPacket p.pid (fun p => { p with st := .job e, slotChain := t.1 }) with jobs := s.jobs ++ [(e, p.pid)] }
    else s
  | _, _ => s

/-- A job starts (R357); a restart of the compression block starts none (R367). -/
def execCompressionJobStart (s : State) : Host.Outcome State Fault Refusal :=
  .next (if s.coreOn && !s.stoppedAt 22 s.bp then startJob (storeQueued s) else s)

/-- An ended job is counted: its input and the payload that will be sent (Table 12-7). -/
def countJob (inp out : Nat) (s : State) : State := F.CMP_BYTESIN_BYTES.count inp (F.CMP_BYTESOUT_BYTES.count out s)

/-- A job ends within its slot: the packet is complete in compressed form and keeps its output slot; its input pages are freed
(R342, R343, R354, R357, R358). -/
def succeedJob (e : Nat) (p : Packet) (s : State) : State :=
  let bytes := p.compressed
  let s := { s with jobs := s.jobs.filter fun j => !(j.1 == e) }
  let s := s.modPacket p.pid fun p =>
    { p with st := .complete, form := .compressed bytes, chain := if p.capt then p.chain else [] }
  notice p.cls (countJob p.ilen bytes.length (F.CMP_JOBS_COUNT.count 1 s))

/-- The first word of a packet's input that cannot be corrected (R350). -/
def State.badInput (s : State) (p : Packet) : Option Nat :=
  (List.range (wordsOf p.ilen)).find? fun i =>
    match placeOfWord p.chain i with
    | some k => (match s.errAt k with | some (.double _) => true | _ => false)
    | none => false

/-- A job ends within its slot, with every word of its input read and none beyond correction (R348, R350, R357, R363); while a
capture ring is filled, jobs pause (R336). -/
def execCompressionJobSuccess (e : Fin 8) (s : State) (upsets : List Upset := []) : Host.Outcome State Fault Refusal :=
  .next (match s.jobOf e with
    | some p =>
      let n := wordsOf p.ilen
      let t := strikeWords p.chain n upsets s
      if s.coreOn && !s.ringFills && Nat.ble p.compressed.length p.slot && (t.badInput p).isNone then
        succeedJob e p (readWords p.pid p.chain n t)
      else s
    | none => s)

/-- A send that ends early has read a number of its packet's words that is not stated: of the output of a running job, else of the
bytes that leave (R348). DESIGN CHOICE (log 74). -/
def partRead (pid : Nat) (s : State) : State :=
  match s.packet pid with
  | some p =>
    let job := match p.st with | .job _ => true | _ => false
    let chain := if job then p.slotChain else p.heldIn
    let n := wordsOf (if job then Nat.min p.compressed.length p.slot else p.held.length)
    readWords pid chain ((s.freeNow 0).toNat % (n + 1)) (s.drew 1)
  | none => s

/-- The gambits of a packet that are in progress are aborted, and each side sends the packet next, flagged resent (R355,
R430). DEDUCED (log 32). -/
def abortGambits (pid : Nat) (s : State) : State :=
  (s.sends.filter fun x => x.pid == pid).foldl (fun s x =>
    let s := sendAbort x.port (partRead pid { s with sends := s.sends.filter fun y => !(y == x) })
    F.BUF_GSTAT_ABORTS.count 1 (s.modPacket pid fun p =>
      { p with resent := p.resent.set x.side true, first := p.first.set x.side (some x.port) })) s

/-- A job ends in stored form with a reason, after a number of output bytes (R355, R357, R363, R364).
DEDUCED (log 27), DESIGN CHOICE (log 31). -/
def failJob (e : Nat) (p : Packet) (reason obytes : Nat) (s : State) : State :=
  let s := abortGambits p.pid { s with jobs := s.jobs.filter fun j => !(j.1 == e) }
  let s := s.modPacket p.pid fun p =>
    { p with st := .complete, form := .stored reason p.b e obytes p.slot, slotChain := [] }
  let s := raiseFlag 0xA806 0 (F.CMP_FAILS_COUNT.count 1 s)
  notice p.cls (countJob p.ilen (p.ilen + 16) s)

/-- The output bytes of a job that ended before its end: not stated, a free value within what it could have written.
DESIGN CHOICE (log 31). -/
def State.bytesSoFar (s : State) (p : Packet) : Nat :=
  (s.freeNow 0).toNat % (Nat.min p.compressed.length p.slot + 1)

/-- How many input bytes an engine has taken when its code words first need more than `room` bits: w is the code of the string held, d
the dictionary, k the code words written, `used` their bits, i the bytes taken (R359, R360, R363). -/
def overflowAt (room : Nat) : List Byte → Nat → List (Nat × Nat) → Nat → Nat → Nat → Option Nat
  | [], _, _, k, used, i => if room < used + codeWidth (k + 1) + codeWidth (k + 2) then some i else none
  | b :: r, w, d, k, used, i =>
    match dictFind w b.toNat d with
    | some c => overflowAt room r c d k used (i + 1)
    | none =>
      let used := used + codeWidth (k + 1)
      if room < used then some (i + 1)
      else overflowAt room r b.toNat (if 258 + d.length ≤ 4095 then (w, b.toNat) :: d else d) (k + 1) used (i + 1)

/-- The input words that a job has read when its output exceeds its slot (R363). -/
def Packet.slotEnd (p : Packet) : Option Nat :=
  if p.slot < 8 then some 0
  else match p.engineInput with
    | b :: r => (overflowAt (8 * (p.slot - 8)) r b.toNat [] 0 0 1).map wordsOf
    | [] => none

/-- How a job fails, and how many words of its input it has read: at the first uncorrectable one, or when its output exceeds its slot,
whichever comes first (R350, R363). DESIGN CHOICE (log 31). -/
def State.jobEnd (s : State) (p : Packet) : Option (Nat × Nat) :=
  match p.slotEnd, s.badInput p with
  | some n, some i => if i < n then some (2, i + 1) else some (1, n)
  | some n, none => some (1, n)
  | none, some i => some (2, i + 1)
  | none, none => none

/-- An engine is quarantined, which counts as the quarantine of a cell (R366, R523, Table 19-3). DEDUCED (log 42). -/
def quarantineEngine (e : Nat) (s : State) : State :=
  let f : Fld := ⟨F.CMP_STAT_ENGQ.addr, 24 + e, 24 + e⟩
  if f.is s then s
  else storeQueued (eventReport 6 e 0 (raiseFlag F.ERR_STICKY_QUAR.addr 2 (raiseFlag 0xA806 2 (f.wr 1 s))))

/-- An uncorrectable dictionary word ends a job, at some point before any other end of it, and the engine is quarantined (R366).
DEDUCED (log 27). -/
def faultJob (e : Nat) (p : Packet) (s : State) : State :=
  let last := match s.jobEnd p with | some x => x.2 - 1 | none => wordsOf p.ilen
  let s := readWords p.pid p.chain ((s.freeNow 1).toNat % (last + 1)) s
  let s := failJob e p 3 (s.bytesSoFar p) (s.drew 2)
  quarantineEngine e (faultReport 2 4 22 e p.seq s)

/-- A job fails: an uncorrectable dictionary word, an uncorrectable word of its input, or an output beyond its slot (R350,
R363, R366). -/
def execCompressionJobFail (e : Fin 8) (upsets : List Upset) (fault : Bool) (s : State) : Host.Outcome State Fault Refusal :=
  .next (match s.jobOf e with
    | some p =>
      let t := strikeWords p.chain (wordsOf p.ilen) upsets s
      if !s.coreOn || s.ringFills then s
      else if fault then faultJob e p t
      else match t.jobEnd p with
        | some x =>
          let t := readWords p.pid p.chain x.2 t
          if x.1 = 2 then raiseFlag 0xA806 1 (failJob e p 2 (t.bytesSoFar p) (t.drew 1)) else failJob e p 1 p.slot t
        | none => s
    | none => s)

/-! ### Framers -/

/-- The order of the classes at a framer (R344). -/
def turnOf : Cls → Nat
  | .s => 0
  | .m => 1
  | .h => 2
  | .w => 3

/-- A packet comes before another in a framer's order: one to be sent again after an abort, then by class and by sequence
number (R344, R355, R392). -/
def Packet.ahead (side : Side) (a b : Packet) : Bool :=
  match (a.first.get side).isSome, (b.first.get side).isSome with
  | true, false => true
  | false, true => false
  | _, _ => Nat.blt (turnOf a.cls) (turnOf b.cls) || (turnOf a.cls == turnOf b.cls && olderSeq a.seq b.seq)

/-- A packet comes before another for a side: one that has come back to life begins with the oldest packet (R344, R346). -/
def State.ahead (s : State) (side : Side) (a b : Packet) : Bool :=
  if s.revived.get side then olderSeq a.seq b.seq else a.ahead side b

/-- The packet that comes first in an order. -/
def firstPacket (before : Packet → Packet → Bool) : List Packet → Option Packet
  | [] => none
  | a :: r =>
    match firstPacket before r with
    | none => some a
    | some b => some (if before b a then b else a)

/-- A job runs in the packet. -/
def Packet.inJob (p : Packet) : Bool := match p.st with | .job _ => true | _ => false

/-- A side has not sent the packet and is not sending it. -/
def State.unsentBy (s : State) (side : Side) (p : Packet) : Bool :=
  !(p.sent.get side) && !(s.sends.any fun x => x.side == side && x.pid == p.pid)

/-- The packets that are ready for a framer: complete, or to be sent again by gambit (R342, R344, R430). DEDUCED (log 32). -/
def State.readyFor (s : State) (side : Side) : List Packet :=
  s.packets.filter fun p => s.unsentBy side p && (p.st == .complete || (p.inJob && (p.first.get side).isSome))

/-- The place of a port among the bonds and ports that send: the first port of its group in a bond, itself in the single-lane
configuration (R429). -/
def State.placeOf (s : State) (p : Nat) : Nat :=
  if isData p then (if (F.LNK_LGSTAT_SINGLE (lgOf p)).is s then p else 2 + 4 * lgOf p) else p

/-- The bonds and ports of a side in service (R390, R429). -/
def State.places (s : State) (side : Side) : List Nat :=
  (((List.range 4).filter fun g => lgSide g == side && s.hasLg g && !s.stoppedAt (16 + g) s.bp).flatMap fun g =>
    (groupPorts g).filter s.inService |>.map s.placeOf).dedup

/-- The free bonds and ports of a side in service. -/
def State.freePlaces (s : State) (side : Side) : List Nat :=
  (s.places side).filter fun p => !(s.sends.any fun x => x.port == p)

/-- The place that a packet is given: that of an aborted send where it is in service and free, else the one with the lowest
port number (R429, R430). -/
def State.placeFor (s : State) (side : Side) (p : Packet) : Option Nat :=
  match p.first.get side with
  | some q => if (s.freePlaces side).contains q then some q else (s.freePlaces side).head?
  | none => (s.freePlaces side).head?

/-- The framer of a side sends: its side is not dead, and neither the hub nor its block is stopped (R346, R429). -/
def State.framerUp (s : State) (side : Side) : Bool := s.coreOn && !s.dead side && !s.stoppedAt (20 + side.code) s.bp

/-- A packet is there for a lane group that sleeps: it starts its exit at once, charged as debt; work of class M alone asks for a
grant (R111, R113, R142, Table 5-4). In DOZE and DEEP it stays asleep (R114). -/
def wakeLane (side : Side) (g : Nat) (p : Packet) (s : State) : State :=
  let held := s.mode == .doze || s.mode == .deep
  let x := s.group g
  if held || x.st == .active || x.exit == some .active then s
  else if (p :: s.readyFor side).all fun p => p.cls == .m then
    if s.hwreqs.any fun r => r.work == .lwake g then s else raiseHw (.lwake g) (wakeCost g (x.st == .deep)) s
  else wakeFn g s

/-- The place that a framer's next packet is given; where its group sleeps, nothing is sent yet. -/
def State.nextSend (s : State) (side : Side) : Option (Packet × Nat) :=
  match firstPacket (s.ahead side) (s.readyFor side) with
  | some p => (s.placeFor side p).map fun q => (p, q)
  | none => none

/-- Lane groups that sleep and have work start their exits. -/
def wakeLanes (s : State) : State :=
  let one := fun (side : Side) (s : State) =>
    if s.framerUp side then (match s.nextSend side with | some x => wakeLane side (lgOf x.2) x.1 s | none => s) else s
  one .q (one .k s)

/-- A framer starts a packet (R353, R429, R431). -/
def startSend (side : Side) (port : Nat) (p : Packet) (s : State) : State :=
  let s := { s with sends := s.sends ++ [(⟨side, port, p.pid, p.inJob, p.resent.get side⟩ : Send)]
                    revived := s.revived.set side false }
  let s := s.modPacket p.pid fun p => { p with first := p.first.set side none }
  if p.inJob then F.BUF_GSTAT_GAMBITS.count 1 s else s

/-- A packet is given to its place, or wakes it. -/
def giveTo (side : Side) (port : Nat) (p : Packet) (s : State) : State :=
  if (s.group (lgOf port)).st == .active then startSend side port p s else wakeLane side (lgOf port) p s

/-- A framer starts the next ready packet (R344, R429). -/
def execFramerSendStart (side : Side) (s : State) : Host.Outcome State Fault Refusal :=
  .next (if s.framerUp side then
      match s.nextSend side with
      | some x => giveTo side x.2 x.1 s
      | none => s
    else s)

/-- The cut-through threshold in bytes; none where gambits are disabled (R352). -/
def State.cutBytes (s : State) : Option Nat :=
  let n := Nat.min (F.BUF_CFG_CUT.rd s) 32
  if n = 0 then none else some (256 * n)

/-- A job can produce the threshold before it ends (R352). DEDUCED (log 32). -/
def State.mayGambit (s : State) (p : Packet) : Bool :=
  match s.cutBytes with
  | some n => Nat.ble n p.slot && Nat.ble n p.compressed.length
  | none => false

/-- A framer starts a packet whose job has produced the threshold, in the packet's turn (R352, R353). -/
def execGambitStart (side : Side) (e : Fin 8) (s : State) : Host.Outcome State Fault Refusal :=
  .next (match s.jobOf e with
    | some p =>
      if s.framerUp side && s.mayGambit p && s.unsentBy side p && ((s.readyFor side).all fun r => !(s.ahead side r p)) then
        match s.placeFor side p with
        | some q => giveTo side q p s
        | none => s
      else s
    | none => s)

/-- The bytes of a packet go out at a place: in characters across the columns of a bond, or in words. A gambit may have been held open
with fill, of which the amount and the place are open (R353, R354, R382, R383, R388). DESIGN CHOICE (log 33). -/
def sendPacket (place : Nat) (gambit : Bool) (bytes : List Byte) (s : State) : State :=
  let v := (s.freeNow 0).toNat
  let n := if gambit then v / 65536 % 256 else 0
  let s := s.drew 1
  if s.single (lgOf place) then
    let l := packetWords gambit bytes
    sendWords place [] (withFill (1 + v % l.length) n idleWord l) s
  else
    let l := packetChars gambit bytes
    sendBond (lgOf place) (withFill (1 + v % l.length) n .k285 l) s

/-- A side has sent a packet whole: its bytes as read have gone out, it is counted, and it is released when no side has to send
it any more (R345, R348, R349, R353, R431). DESIGN CHOICE (logs 15, 33). -/
def finishSend (x : Send) (p : Packet) (s : State) : State :=
  let bytes := p.wire x.side x.gambit (s.readBytes p)
  let s := sendPacket x.port x.gambit bytes { s with sends := s.sends.filter fun y => !(y == x) }
  let s := s.modPacket p.pid fun p => { p with sent := p.sent.set x.side true }
  let s := (F.LNK_PKTS_COUNT x.port).wrap s
  releasePackets (if x.resent then (F.LNK_RESENT_COUNT x.port).count 1 s else s)

/-- A side finishes a packet (R345), while its lane group is ACTIVE (R114), with every word of it read; a gambit ends only after its
job (R354). -/
def execPacketSent (side : Side) (port : Port) (upsets : List Upset) (s : State) : Host.Outcome State Fault Refusal :=
  .next (match s.sends.find? fun x => x.side == side && x.port == s.placeOf port with
    | some x =>
      match s.packet x.pid with
      | some p =>
        if s.coreOn && p.st == .complete && (s.group (lgOf x.port)).st == .active then
          let n := wordsOf p.held.length
          let s := readWords x.pid p.heldIn n (strikeWords p.heldIn n upsets s)
          match s.packet x.pid with
          | some p => finishSend x p s
          | none => s
        else s
      | none => s
    | none => s)

/-- Sends in progress that satisfy a test do not count as sent; the packets stay and are sent again whole, flagged resent
(R88, R347, R393, R431). `first` puts them ahead of every other packet (R392). DEDUCED (log 32). -/
def interruptSends (first : Bool) (f : Send → Bool) (s : State) : State :=
  (s.sends.filter f).foldl (fun s x =>
    let s := partRead x.pid { s with sends := s.sends.filter fun y => !(y == x) }
    s.modPacket x.pid fun p =>
      { p with resent := p.resent.set x.side true
               first := if first then p.first.set x.side (some x.port) else p.first }) s

/-! ### Dead sides -/

/-- A side is dead for a reason other than the timeout: declared dead, held, or disabled (R346, R420, R526). -/
def State.declaredDead (s : State) (side : Side) : Bool :=
  (match side with | .k => F.BUF_DEAD_OFFK.is s | .q => F.BUF_DEAD_OFFQ.is s) || s.sid.held.get side || s.rating side == 0

/-- No lane of the side has been in service for the timeout (R346). -/
def State.timedDead (s : State) (side : Side) : Bool :=
  !(F.BUF_DEAD_BP.rd s == 0) && Nat.ble (F.BUF_DEAD_BP.rd s) (s.deadCnt.get side)

/-- The dead bit of a side. -/
def deadBit (side : Side) : Fld := ⟨F.BUF_SIDE_DEAD.addr, side.code, side.code⟩

/-- A side becomes dead or comes back to life (R345 to R347, Table 19-3). DEDUCED (log 34). -/
def judgeDead (now : Bool) (side : Side) (s : State) : State :=
  let was := (deadBit side).is s
  if now && !was then
    let s := raiseFlag 0xA00A (2 + side.code) ((deadBit side).wr 1 s)
    releasePackets (eventReport 4 side.code 0 (interruptSends false (fun x => x.side == side) s))
  else if was && !now then eventReport 5 side.code 0 ((deadBit side).wr 0 { s with revived := s.revived.set side true })
  else s

/-- Both cases of R346 are judged. DEDUCED (log 34). -/
def refreshDead (side : Side) (s : State) : State := judgeDead (s.declaredDead side || s.timedDead side) side s

/-- The part of n BP boundaries: a side without a lane in service is counted, and a dead side may come back to life; only its own
command makes a side dead by the timeout (R346). DEDUCED (log 34). -/
def countDead (n : Nat) (s : State) : State :=
  let one := fun (side : Side) (s : State) =>
    let lit := ((List.range 16).map fun i => i + 2).any fun p => portSide p == side && s.inService p
    let s := { s with deadCnt := s.deadCnt.set side (if lit then 0 else s.deadCnt.get side + n) }
    judgeDead (s.declaredDead side || ((deadBit side).is s && s.timedDead side)) side s
  one .q (one .k s)

/-- A side has had no lane in service for the timeout (R346). DEDUCED (log 34). -/
def execSideDeadTimeout (side : Side) (s : State) : Host.Outcome State Fault Refusal :=
  .next (if s.coreOn then refreshDead side s else s)

/-! ### Scrubbing -/

/-- The scrubber checks a word: it writes a corrected word back, while a capture ring is filled once that has ended; one that cannot be
corrected poisons the packet whose page it lies in, or is only counted in a free page (R336, R349, R351). DEDUCED (log 30). -/
def scrubWord (k : Nat) (s : State) : State :=
  match s.errAt k with
  | none => s
  | some .single =>
    let s := correctedWord (bankOf k) s
    if s.ringFills then { s with scrubBack := s.scrubBack ++ [k] } else { s with bufErr := sput (fun _ => none) k none s.bufErr }
  | some (.double _) =>
    match s.packets.find? fun p => (p.chain ++ p.slotChain).contains (k / 32) with
    | some p => poisonWord (bankOf k) p s
    | none => badWord (bankOf k) 0xFFFFFFFF s

/-- The words of the 16 banks that the scrubber checks in this BP (R351). -/
def State.scrubWords (s : State) : List Nat := (List.range 16).map fun b => 16 * F.BUF_SCRUB_POS.rd s + b

/-- Upsets strike words of the banks that the scrubber checks. DEDUCED (log 30). -/
def strikeBanks (l : List Upset) (s : State) : State :=
  l.foldl (fun s (u : Upset) => match s.scrubWords[u.word]? with | some k => strike k u.flips s | none => s) s

/-- An uncorrectable word is found in program memory: PMVALID clears (R82, R462). -/
def foundBadProg (a : Nat) (s : State) : State :=
  let l := if s.progBad.contains a then s.progBad else s.progBad ++ [a]
  foundBad 2 a (F.RST_STATUS_PMVALID.wr 0 { s with progBad := l })

/-- The scrubber's word of program memory (R462, R522). DESIGN CHOICE (log 38). -/
def scrubProg (found : Scrubbed) (s : State) : State :=
  let a := s.scrubProg
  let s := if found = .uncorrectable ∨ s.progBad.contains a = true then foundBadProg a s
    else if found = .corrected then (F.ERR_VOTE_CE 5).count 1 s else s
  { s with scrubProg := (a + 1) % 16384 }

/-- The scrubber's word of scratch memory, left in place where it is uncorrectable (R462, R522). DESIGN CHOICE (log 38). -/
def scrubScratch (found : Scrubbed) (s : State) : State :=
  let a := s.scrubScratch
  let l := if s.scratchBad.contains a then s.scratchBad else s.scratchBad ++ [a]
  let s := if found = .uncorrectable ∨ s.scratchBad.contains a = true then foundBad 3 a { s with scratchBad := l }
    else if found = .corrected then (F.ERR_VOTE_CE 5).count 1 s else s
  { s with scrubScratch := (a + 1) % 4096 }

/-- The scrubber's place moves to the next word of each bank; 49,152 words make a pass (R351, Table 12-6).
DESIGN CHOICE (log 38). -/
def scrubNext (s : State) : State :=
  if 49151 ≤ F.BUF_SCRUB_POS.rd s then F.BUF_SCRUB_PASSES.wrap (F.BUF_SCRUB_POS.wr 0 s)
  else F.BUF_SCRUB_POS.wr (F.BUF_SCRUB_POS.rd s + 1) s

/-- One BP of scrubbing under a grant (R351, R462). -/
def execScrubPass (upsets : List Upset) (prog scratch : Scrubbed) (s : State) : Host.Outcome State Fault Refusal :=
  .next (if s.coreOn && s.gap.inGap && s.gap.scrub then
      let s := strikeBanks upsets s
      let s := overList s.scrubWords scrubWord s
      scrubNext (scrubScratch scratch (scrubProg prog s))
    else s)

end Sys2Proof.Machine
end

