-- ==== Sys2Proof/Machine/Lanes.lean ====
section
/-!
DEFINITION. Sys2Proof/Machine/Lanes.lean: the receivers and bonds of the serial ports (R381 to R396): lock, failure, re-bonding,
rejoining, the lane configuration, markers and adaptation.
-/
namespace Sys2Proof.Machine

/-! ### Receivers -/

/-- The receiver of a port is powered: enabled, its side not disabled, and its group neither OFF nor in DEEP without an exit (R398,
R420). -/
def State.powered (s : State) (p : Nat) : Bool :=
  s.hasPort p && (Nat.blt p 2 || ((F.LNK_PCFG_EN p).is s && !(s.rating (portSide p) == 0))) &&
    (if isData p || (Nat.ble 18 p && Nat.ble p 21) then
      let g := s.group (if isData p then lgOf p else 4)
      !(g.st == .off) && (!(g.st == .deep) || g.exit.isSome)
    else true)

/-- A side with a lane in service is not dead by the timeout (R346). DEDUCED (log 34). -/
def laneLives (p : Nat) (s : State) : State :=
  if s.inService p then
    let side := portSide p
    judgeDead (s.declaredDead side) side { s with deadCnt := s.deadCnt.set side 0 }
  else s

/-- A receiver acquires code-group sync, word alignment or its frames (R378, R385, R388). -/
def execLaneLock (p : Port) (s : State) : Host.Outcome State Fault Refusal :=
  .next (if s.coreOn && Nat.ble 2 p && s.powered p && !((F.LNK_PSTAT_LOCKED p).is s) then
      let s := (F.LNK_PSTAT_LOCKED p).wr 1 ((F.LNK_PSTAT_CDR p).wr 1 s)
      laneLives p (s.setLane p { s.lane p with changeBp := s.bp })
    else s)

/-- The code errors that end a receiver's lock: 4 invalid code groups or disparity errors, 16 invalid prefixes, or 4 failed frames; none
where its activity has stopped, and none beyond the frames that a partner port has reported already (R378, R385, R388).
DEDUCED (log 35). -/
def State.lossErrors (s : State) (p : Nat) (stop : Bool) : Nat :=
  if isData p then (if s.single (lgOf p) then 16 else 4)
  else if Nat.ble 18 p && Nat.ble p 21 && !stop then 4 else 0

/-- A receiver loses sync or alignment (R378, R385, R388). Whether its clock is still recovered is not stated, and a free value
stands for it. DEDUCED (log 35). -/
def execLaneUnlock (p : Port) (s : State) (stop : Bool := false) : Host.Outcome State Fault Refusal :=
  .next (if s.coreOn && Nat.ble 2 p && (F.LNK_PSTAT_LOCKED p).is s then
      let n := s.lossErrors p stop
      let s := (F.LNK_PSTAT_LOCKED p).wr 0 (s.setLane p { s.lane p with changeBp := s.bp })
      let s := State.drew 1 ((F.LNK_PSTAT_CDR p).put (Config.freeBit s.free) s)
      overList (List.range n) (fun _ => raiseFlag (F.LNK_STICKY_CODEERR p).addr 1) (raiseFlag (F.LNK_STICKY_UNLOCK p).addr 0 s)
    else s)

/-- A port's receiver restarts its acquisition without a loss of lock (R379, R389). -/
def reacquire (p : Nat) (s : State) : State :=
  let s := if (F.LNK_PSTAT_LOCKED p).is s then s.setLane p { s.lane p with changeBp := s.bp } else s
  (F.LNK_PSTAT_LOCKED p).wr 0 ((F.LNK_PSTAT_CDR p).wr 0 s)

/-! ### Markers -/

/-- A marker is due at a place: 4096 columns of a bond, which are 160 BP, have passed since the last one, or 4096 words of a single lane,
which take at least 544 BP (R384, R388). -/
def State.markerDue (s : State) (p : Nat) : Bool :=
  Nat.ble ((s.lane p).markBp + if s.single (lgOf p) then 544 else 160) s.bp

/-- No packet is in progress at a place. -/
def State.idleAt (s : State) (p : Nat) : Bool := !(s.sends.any fun x => x.port == p)

/-- A lane-alignment marker that is due is sent in columns that would be idle, ALIGN in place of an IDLE word (R384, R388). -/
def execAlignMarker (lg : Fin 4) (s : State) : Host.Outcome State Fault Refusal :=
  .next (if s.single lg then
      overList ((s.loners lg).filter fun p => s.markerDue p && s.idleAt p)
        (fun p s => noteMarker p (sendWords p [] [s.alignWord p] s)) s
    else if (s.members lg).any s.sendsOwn && s.markerDue (2 + 4 * lg.val) && s.idleAt (2 + 4 * lg.val) then sendMarkers lg false s
    else s)

/-! ### Failure and re-bonding -/

/-- A bond re-forms on its members at a packet boundary: a packet in progress is aborted with K30.7 and goes first again, EPOCH
counts, and a marker is sent at once (R384, R392, R430, Table 19-3). DEDUCED (log 36). -/
def rebond (g : Nat) (s : State) : State :=
  let ends := !s.idleAt (2 + 4 * g)
  let s := interruptSends true (fun x => x.port == 2 + 4 * g) s
  let s := raiseFlag (F.LNK_LGSTICKY_REBOND g).addr 0 ((F.LNK_LGSTAT_EPOCH g).wrap s)
  sendMarkers g ends (eventReport 3 g ((F.LNK_LGSTAT_EPOCH g).rd s * 16 + (F.LNK_LGSTAT_MEMBERS g).rd s) s)

/-- A lane's bit of `LNK.LGSTAT.MEMBERS`. -/
def memberBit (p : Nat) : Fld := let a := (F.LNK_LGSTAT_MEMBERS (lgOf p)).addr; ⟨a, laneBit p, laneBit p⟩

/-- A lane is marked as failed (R391, R393). DEDUCED (log 36). -/
def markFailed (p : Nat) (s : State) : State :=
  let s := raiseFlag (F.LNK_STICKY_FAIL p).addr 2 ((F.LNK_PSTAT_FAILED p).wr 1 s)
  let s := eventReport 1 p 0 ((memberBit p).wr 0 (s.setLane p { s.lane p with rejoin := false }))
  if (F.LNK_LGSTAT_SINGLE (lgOf p)).is s then interruptSends false (fun x => x.port == p) s else s

/-- A failed lane has been asked back and been locked for 256 BP (R394). -/
def State.backDue (s : State) (p : Nat) : Bool :=
  s.hasPort p && (s.lane p).rejoin && (F.LNK_PSTAT_FAILED p).is s && (F.LNK_PSTAT_LOCKED p).is s &&
    Nat.ble ((s.lane p).changeBp + 256) s.bp

/-- A lane is a member again (R90, R391, R394, Table 19-3). -/
def takeBack (p : Nat) (s : State) : State :=
  let g := lgOf p
  let s := (F.LNK_PSTAT_FAILED p).wr 0 ((memberBit p).wr 1 (s.setLane p { s.lane p with rejoin := false, freshBp := s.bp }))
  laneLives p (eventReport 2 p 0 (returned (16 + g) (raiseFlag (F.LNK_LGSTICKY_REJOIN g).addr 1 s)))

/-- Lanes of one group fail together; with them the lanes come back that are due at that packet boundary, in one re-bond (R391 to
R394). -/
def failLanes (g : Nat) (l : List Nat) (s : State) : State :=
  let l := l.filter fun p => s.hasPort p && !((F.LNK_PSTAT_FAILED p).is s)
  if l.isEmpty then s
  else if s.single g then overList l markFailed s
  else rebond g (overList ((groupPorts g).filter s.backDue) takeBack (overList l markFailed s))

/-- A lane fails: it has been unlocked for `LNK.LOSSBP` BP, counted from 250 µs after the release, an exit from DEEP or a rejoining on,
which are at least 7500 BP; a sleeping group counts nothing (R10, R391, Table 13-9). DEDUCED (log 36). -/
def State.failDue (s : State) (p : Nat) : Bool :=
  isData p && s.hasPort p && (F.LNK_PCFG_EN p).is s && !((F.LNK_PSTAT_LOCKED p).is s) && !((F.LNK_PSTAT_FAILED p).is s) &&
    (s.group (lgOf p)).st == .active && !s.loopOn p &&
    Nat.ble (Nat.max (s.lane p).changeBp ((s.lane p).freshBp + 7500) + Nat.max 1 ((F.LNK_LOSSBP_BP p).rd s)) s.bp

/-- A lane fails, and with it every lane of its group that is due (R391, R394). -/
def execLaneFail (p : Port) (s : State) : Host.Outcome State Fault Refusal :=
  .next (if s.coreOn && s.failDue p then failLanes (lgOf p) ((groupPorts (lgOf p)).filter s.failDue) s else s)

/-- A failed lane is asked back (R394). -/
def askRejoin (p : Nat) (s : State) : State :=
  if s.hasPort p && (F.LNK_PSTAT_FAILED p).is s then s.setLane p { s.lane p with rejoin := true } else s

/-- A lane that is due comes back at a packet boundary, and with it every other lane of its group: EPOCH counts once, and a bond
re-forms (R394). DEDUCED (log 36). -/
def execLaneRejoin (p : Port) (s : State) : Host.Outcome State Fault Refusal :=
  .next (
    let g := lgOf p
    let ready := fun q => s.backDue q && s.idleAt (s.placeOf q)
    if s.coreOn && isData p && ready p then
      let t := overList ((groupPorts g).filter ready) takeBack s
      if s.single g then (F.LNK_LGSTAT_EPOCH g).wrap t else rebond g t
    else s)

/-! ### Configuration -/

/-- A write to `LNK.LGCFG` (R389, R391, R394): a write of SINGLE counts in IDLE and TEST only; DROP fails lanes, and REJOIN asks for
those that DROP does not name. A word that fails lanes or asks them back, and leaves SINGLE as it is, is no write of SINGLE.
DEDUCED (log 36). -/
def writeLgcfg (g : Nat) (v : Word) (s : State) : State :=
  let single := natBit v.toNat 12
  let s :=
    if (F.LNK_LGCFG_SINGLE g).is s == single && !(v.toNat % 256 == 0) then s
    else if s.mode = .idle ∨ s.mode = .test then (F.LNK_LGCFG_SINGLE g).put single s
    else raiseFlag (F.LNK_LGSTICKY_CFGIGN g).addr 2 s
  let drop := (groupPorts g).filter fun p => natBit v.toNat (laneBit p)
  let back := (groupPorts g).filter fun p => natBit v.toNat (4 + laneBit p) && !natBit v.toNat (laneBit p)
  overList back askRejoin (failLanes g drop s)

/-- A write of SINGLE takes effect at the BP boundary, and the group's ports restart acquisition (R389). Packets in progress
are sent again. DEDUCED (log 36). -/
def applySingle (s : State) : State :=
  overList ((List.range 4).filter fun g => s.hasLg g && (F.LNK_LGCFG_SINGLE g).is s != (F.LNK_LGSTAT_SINGLE g).is s)
    (fun g s =>
      let s := interruptSends false (fun x => isData x.port && lgOf x.port == g) s
      startLines g false (overList (groupPorts g) reacquire ((F.LNK_LGSTAT_SINGLE g).wr ((F.LNK_LGCFG_SINGLE g).rd s) s))) s

/-- A port is disabled: its transmitter and its receiver are off (Table 13-9). -/
def portOff (p : Nat) (s : State) : State := (F.LNK_EYE_VALID p).wr 0 (darken p (reacquire p s))

/-- A data port is enabled again: its transmitter starts with idle (R397). -/
def portOn (p : Nat) (s : State) : State :=
  if !isData p || !s.sendsOwn p then s
  else if s.single (lgOf p) then sendWords p [] [idleWord] s
  else if (s.members (lgOf p)).contains p then
    (putLine p (Line.ofBits (codeGroups (Config.freeBit s.free) [.k285])) s).drew 1
  else s

/-! ### Adaptation -/

/-- A receiver's adaptation converges: its eye figures are valid, and the coefficients in use are those found (R395). -/
def execAdaptationConverged (p : Port) (width : BitVec 7) (height : BitVec 9) (coef : BitVec 28) (s : State) :
    Host.Outcome State Fault Refusal :=
  .next (if s.powered p then
      let s := s.setWord (F.LNK_EQ_CTLE p).addr (coef.zeroExtend 32)
      (F.LNK_EYE_VALID p).wr 1 ((F.LNK_EYE_WIDTH p).wr (Nat.min width.toNat 64) ((F.LNK_EYE_HEIGHT p).wr height.toNat s))
    else s)

end Sys2Proof.Machine
end

