-- ==== Sys2Proof/Machine/Timing.lean ====
section
/-!
DEFINITION. Sys2Proof/Machine/Timing.lean: network time (chapter 15): the counter and its steps, the stamps and corrections of
time messages, the receive ring, sending and forwarding, and the compare units.
-/
namespace Sys2Proof.Machine

/-! ### The counter -/

/-- Units of 2^-26 ns in a second. -/
def secUnits : Nat := 10 ^ 9 * 2 ^ 26

/-- The counter moved by a number of 2^-26 ns, forward or back, and normalised (R439, R440, R447). -/
def Time.plus (t : Time) (d : Int) : Time :=
  let v : Int := ((t.ns * 2 ^ 26 + t.frac : Nat) : Int) + d
  let r := (v % (secUnits : Int)).toNat
  { sec := t.sec + BitVec.ofInt 48 (v / (secUnits : Int)), ns := r / 2 ^ 26, frac := r % 2 ^ 26 }

/-- The visible upper 16 bits of the fraction (R439). -/
def Time.frac16 (t : Time) : Nat := t.frac / 2 ^ 10

/-- Change the time unit. -/
def modTim (f : Tim → Tim) (s : State) : State := { s with tim := f s.tim }

/-- The increment in effect (R441). -/
def State.inc (s : State) : Nat := F.TIM_INC_INC.rd s

/-- The counter adds INC at each of a number of core-clock ticks (R440). -/
def timTicks (n : Nat) (s : State) : State := modTim (fun t => { t with now := t.now.plus (n * s.inc : Nat) }) s

/-- How far the counter is past a compare's target, in ns (R455). -/
def State.pastTarget (s : State) (n : Nat) : Int :=
  let d := signedOf 32 (s.tim.now.sec.toNat % 2 ^ 32 + 2 ^ 32 - (F.TIM_CMPSEC_CSEC n).rd s)
  d * 10 ^ 9 + (s.tim.now.ns : Int) - ((F.TIM_CMPNS_CNS n).rd s : Int)

/-- Ticks until a compare first finds its target reached: the next one where it is past already (R455). -/
def State.ticksToTarget (s : State) (n : Nat) : Option Nat :=
  let d := s.pastTarget n
  if 0 ≤ d then some 1
  else if s.inc = 0 then none
  else some (ceilDiv (d.natAbs * 2 ^ 26 - s.tim.now.frac) s.inc)

/-- The tick at which an armed compare has reached its target, and has not fired yet. -/
def State.cmpTag (s : State) (n : Nat) : Option Tag := sget (fun _ => none) s.tim.cmpDue n

/-- Note or drop the tick at which a compare has reached its target. -/
def setCmp (n : Nat) (t : Option Tag) (s : State) : State := modTim (fun x => { x with cmpDue := sput (fun _ => none) n t x.cmpDue }) s

/-- An armed compare whose target has been reached fires: it disarms and records that tick (R455). -/
def fireCompare (n : Nat) (s : State) : State :=
  match s.cmpTag n with
  | some t =>
    let s := setCmp n none ((F.TIM_CMPST_ARMED n).wr 0 ((F.TIM_CMPST_BCID n).wr t.bcid ((F.TIM_CMPORB_ORBIT n).wr t.orbit.toNat s)))
    raiseFlag 0x140C (4 + n) s
  | none => s

/-- The tag of the compare's tick, where it comes within n ticks of the tick `off` of the BP (R455). -/
def State.tickTag (s : State) (off n k : Nat) : Option Tag :=
  match s.ticksToTarget k with
  | some i => if i ≤ n then some ⟨s.bp + (off + i) / 8, s.bcid + (off + i) / 8, s.orbit⟩ else none
  | none => none

/-- The compares that reach their targets within n ticks; the counter now shows the tick `off` of the BP (R455). -/
def compareTicks (off n : Nat) (s : State) : State :=
  overList ((List.range 2).filter fun k => (F.TIM_CMPST_ARMED k).is s && (s.cmpTag k).isNone)
    (fun k s => setCmp k (s.tickTag off n k) s) s

/-- n core-clock ticks of the time unit from the tick `off` of the BP: a compare that has reached its target fires at the latest
before the next one (R440, R455). DEDUCED (log 6). -/
def coreTicks (off n : Nat) (s : State) : State := timTicks n (compareTicks off n (fireCompare 1 (fireCompare 0 s)))

/-- The compares at the tick of this BP boundary, after a step or a change of the orbit (R455). -/
def compareNow (s : State) : State :=
  overList ((List.range 2).filter fun k =>
      (F.TIM_CMPST_ARMED k).is s && (match s.cmpTag k with | some t => t.bp == s.bp | none => true))
    (fun k s => setCmp k (if 0 ≤ s.pastTarget k then some s.tag else none) s) s

/-- What takes effect at a BP boundary before its tick: a written increment and UNSYNC (R441, R444). -/
def timBoundary (s : State) : State :=
  let s := match s.tim.incNew with
    | some w => modTim (fun t => { t with incNew := none }) (F.TIM_INC_INC.wr w.toNat s)
    | none => s
  if s.tim.unsync then goUnsynced (modTim (fun t => { t with unsync := false }) s) else s

/-- The counter's value at the tick of the BP boundary is noted. DEDUCED (log 24). -/
def timBase (s : State) : State := modTim (fun t => { t with base := t.now }) s

/-- The step of the four step fields in 2^-16 ns (R445). -/
def State.stepFields (s : State) : Int :=
  let sec := signedOf 48 (joinWords (F.TIM_STEPSECH_SEC.rd s) (F.TIM_STEPSECL_SEC.rd s))
  (sec * 10 ^ 9 + F.TIM_STEPNS_NS.int s) * 65536 + (F.TIM_STEPFRAC_FRAC.rd s : Nat)

/-- The time unit takes no new input: its restart is in progress (R85). -/
def State.timStopped (s : State) : Bool := s.stoppedAt 26 s.bp

/-- GO makes the step of now pending, in place of one that is (R445). -/
def stepGo (s : State) : State := if s.timStopped then s else modTim (fun t => { t with step := some (s.stepFields, s.bp) }) s

/-- A pending step is due at the BP boundary that has come (R446). -/
def State.stepDue (s : State) : Bool := match s.tim.step with | some (_, b) => Nat.blt b s.bp | none => false

/-- A pending step of an earlier BP is judged, and an accepted one is added to the counter (R446, R447). DEDUCED (log 24). -/
def judgeStep (s : State) : State :=
  match s.tim.step with
  | some (d, _) =>
    if s.stepDue then
      let s := modTim (fun t => { t with step := none }) s
      if s.synced && decide (F.TIM_THR_NS.rd s * 65536 < d.natAbs) then raiseFlag 0x140C 0 s
      else
        let s := raiseFlag 0x140C 1 (F.TIM_CTL_STATE.wr 1 s)
        compareNow (modTim (fun t => { t with now := t.now.plus (d * 1024), base := t.base.plus (d * 1024) }) s)
    else s
  | none => s

/-- A write of GO (R445). -/
def execStepGo (s : State) : Host.Outcome State Fault Refusal := .next (if s.accessible then stepGo s else s)

/-- The pending step is judged at the BP boundary (R446, R447). -/
def execStepJudgement (s : State) : Host.Outcome State Fault Refusal :=
  .next (if s.coreOn && s.cyc == 0 then judgeStep s else s)

/-- A write of UNSYNC waits for the BP boundary (R444). -/
def askUnsync (s : State) : State := modTim (fun t => { t with unsync := true }) s

/-- A write of UNSYNC (R444). -/
def execUnsync (s : State) : Host.Outcome State Fault Refusal := .next (if s.accessible then askUnsync s else s)

/-- A read of `TIM.NOWNS` copies SEC and FRAC (R442). -/
def latchNow (s : State) : State :=
  let n := s.tim.now
  F.TIM_NOWSECH_SEC.wr (n.sec.toNat / 2 ^ 32) (F.TIM_NOWSECL_SEC.wr n.sec.toNat (F.TIM_NOWFRAC_FRAC.wr n.frac16 s))

/-- A read of `TIM.NOWNS` (R442). -/
def execTimNownsRead (s : State) : Host.Outcome State Fault Refusal := .next (if s.accessible then latchNow s else s)

/-! ### Stamps -/

/-- A stamp: the counter at a tick and the bins after it, rounded half to even to 2^-16 ns (R449). -/
def stampAt (t : Time) (inc bins : Nat) : BitVec 48 × Nat × Nat :=
  let v := (rne (((t.ns * 2 ^ 26 + t.frac) * 128 + bins * inc : Nat) : Int) (2 ^ 17)).toNat
  let u := 10 ^ 9 * 65536
  (t.sec + BitVec.ofNat 48 (v / u), v % u / 65536, v % 65536)

/-- The stamp of an instant of this or an earlier BP: the tick of cycle `cyc` of the BP `ago` BP before, and the bins after it
(R449). -/
def State.stampOf (s : State) (ago cyc bins : Nat) : BitVec 48 × Nat × Nat :=
  if ago = 0 then stampAt (s.tim.base.plus (cyc * s.inc : Nat)) s.inc bins
  else match (s.bpHist.take ago).getLast? with
    | some r => stampAt (r.base.plus (cyc * r.inc.toNat : Nat)) r.inc.toNat bins
    | none => stampAt s.tim.base s.inc bins

/-- A link's asymmetry in 2^-16 ns (R450). -/
def State.asym (s : State) (p : Nat) : Int := rne ((F.LNK_TASYM_ASYM p).int s * 65536) 1000

/-- The messageType of a message: Sync is 0 and Delay_Req is 1. -/
def msgType (l : List Byte) : Nat := match l with | b :: _ => b.toNat % 16 | [] => 15

/-- An amount is added to the correctionField of a message; a message shorter than 16 bytes is not altered, and a sum beyond 64
signed bits becomes the greatest value (R450, R454). DEDUCED (log 37). -/
def addCorrection (d : Int) (l : List Byte) : List Byte :=
  if l.length < 16 then l
  else
    let v := signedOf 64 (bytesNat ((l.drop 8).take 8)) + d
    let v := if v < -(2 ^ 63) ∨ 2 ^ 63 ≤ v then 2 ^ 63 - 1 else v
    l.take 8 ++ natBytes 8 (wrapTo 64 v) ++ l.drop 16

/-! ### Ports that carry time messages -/

/-- The bit of a port in `TIM.RXEN` (Table 15-2). -/
def rxBit (p : Nat) : Option Nat :=
  if p = 0 then some 0 else if p = 1 then some 1 else if p = 22 then some 2 else if p = 23 then some 3 else none

/-- The egress port of a forwarding path and the path's bit (R435). -/
def forwardTo (p : Nat) : Option (Nat × Nat) :=
  if p = 0 then some (22, 0) else if p = 22 then some (0, 1) else if p = 1 then some (23, 2) else if p = 23 then some (1, 3) else none

/-- The egress queue of a port. -/
def State.egress (s : State) (p : Nat) : List TmMsg := sget (fun _ => []) s.tm.egress p

/-- Give a port an egress queue. -/
def setEgress (p : Nat) (l : List TmMsg) (s : State) : State := { s with tm := { s.tm with egress := sput (fun _ => []) p l s.tm.egress } }

/-- A message enters an egress queue of four; false where it is dropped (R435). -/
def enqueue (p : Nat) (m : TmMsg) (s : State) : State × Bool :=
  if (s.egress p).length < 4 then (setEgress p (s.egress p ++ [m]) s, true)
  else (raiseFlag (F.LNK_LSTICKY_TMDROP p).addr 2 s, false)

/-- The words of a message, from bit 31 down, padded with zeros to sixteen. -/
def msgWords (l : List Byte) : List Nat := (List.range 16).map fun j => chunkBytes 4 (l.drop (4 * j))

/-- A message is stored in the slot NEXT of the receive ring, or lost where that slot is held (R451). -/
def storeMessage (p : Nat) (l : List Byte) (t : BitVec 48 × Nat × Nat) (s : State) : State :=
  let n := F.TIM_RXCTL_NEXT.rd s
  if (F.TIM_SLOTST_VALID n).is s then raiseFlag 0x140C 2 s
  else
    let s := overList (List.range 16) (fun j s => (F.TIM_SLOT_BYTES n j).wr ((msgWords l).getD j 0) s) s
    let s := (F.TIM_SLOTST_VALID n).wr 1 ((F.TIM_SLOTST_PORT n).wr p ((F.TIM_SLOTST_LEN n).wr (l.length - 1) s))
    let s := (F.TIM_SLOTSECH_SEC n).wr (t.1.toNat / 2 ^ 32) ((F.TIM_SLOTSECL_SEC n).wr t.1.toNat s)
    let s := (F.TIM_SLOTNS_NS n).wr t.2.1 ((F.TIM_SLOTFRAC_FRAC n).wr t.2.2 s)
    F.TIM_RXCTL_NEXT.wr (n + 1) s

/-- A whole time message at a port: stamped, corrected, stored where the port is enabled, and forwarded where its path is
(R435, R448 to R451, R453). -/
def execTimeMessageReceived (p : Port) (bytes : List Byte) (ago : Nat) (cyc : Fin 8) (bin : BitVec 7) (s : State) :
    Host.Outcome State Fault Refusal :=
  .next (match rxBit p with
    | some k =>
      if s.coreOn && s.hasPort p && Nat.ble 1 bytes.length && Nat.ble bytes.length 64 && (Nat.blt 0 ago || Nat.ble cyc s.cyc) then
        let s := (F.LNK_TRX_COUNT p).wrap s
        let l := if msgType bytes = 0 then addCorrection (s.asym p) bytes else bytes
        let s := if natBit (F.TIM_RXEN_PORTS.rd s) k && !s.timStopped then storeMessage p l (s.stampOf ago cyc bin.toNat) s else s
        match forwardTo p with
        | some (e, path) =>
          if natBit (F.LNK_TCFWD_PATHS.rd s) path && s.hasPort e then
            (enqueue e ⟨l, some ((s.bp - ago) * 1024 + cyc * 128 + bin.toNat)⟩ s).1
          else s
        | none => s
      else s
    | none => s)

/-- The correction of R450 at a sending port: subtracted from every Delay_Req. -/
def State.egressFix (s : State) (p : Nat) (l : List Byte) : Int := if msgType l = 1 then -(s.asym p) else 0

/-- A port begins to send a message. -/
def beginMessage (p : Nat) (l : List Byte) (rest : List TmMsg) (s : State) : State :=
  let s := setEgress p rest s
  (F.LNK_TFWD_COUNT p).wrap { s with tm := { s.tm with sending := sput (fun _ => none) p (some ⟨l, 0⟩) s.tm.sending } }

/-- A port can begin a message: its transmitter sends its own stream, its side is not disabled, and no message is on its way
(R418, R420, R433). -/
def State.portFree (s : State) (p : Nat) : Bool := s.sendsOwn p && !(s.rating (portSide p) == 0) && (s.sendingAt p).isNone

/-- The residence of a number of TDC bins in 2^-16 ns (R453). -/
def residence (n inc : Nat) : Nat := (rne ((n * inc : Nat) : Int) (2 ^ 17)).toNat

/-- A forwarded message leaves; a Sync and a Delay_Req carry its residence (R450, R453, R454). DEDUCED (log 37). -/
def execTimeMessageForward (p : Port) (bin : BitVec 7) (s : State) : Host.Outcome State Fault Refusal :=
  .next (match s.egress p with
    | ⟨l, some t⟩ :: rest =>
      if s.portFree p then
        if msgType l = 0 ∨ msgType l = 1 then
          let r := residence (s.nowBins + bin.toNat - t) s.inc
          beginMessage p (addCorrection ((r : Int) + s.egressFix p l) l) rest
            (if l.length < 16 then s else (F.LNK_TRES_RES p).wr (Nat.min r 0xFFFFFFFF) s)
        else beginMessage p l rest s
      else s
    | _ => s)

/-! ### Sending a message of the hub -/

/-- The message in `TIM.TXBUF` (Table 15-2). -/
def State.txMessage (s : State) (n : Nat) : List Byte :=
  ((List.range 16).flatMap fun j => natBytes 4 ((F.TIM_TXBUF_BYTES j).rd s)).take n

/-- A write of SEND queues the message in `TIM.TXBUF` for its port, or sets TXBAD (R452, R457). DEDUCED (log 37). -/
def sendTim (s : State) : State :=
  let p := F.TIM_TXCTL_PORT.rd s
  let n := F.TIM_TXCTL_LEN.rd s
  if s.timStopped then s
  else if F.TIM_TXCTL_BUSY.is s || (rxBit p).isNone || !s.hasPort p || s.rating (portSide p) == 0 || n == 0 || Nat.blt 64 n then
    raiseFlag 0x140C 3 s
  else
    let r := enqueue p ⟨s.txMessage n, none⟩ s
    if r.2 then F.TIM_TXCTL_BUSY.wr 1 r.1 else r.1

/-- A message of the hub leaves: its egress stamp is written, and the copy sent carries the correction of R450 (R452).
DEDUCED (log 37). -/
def execTimTxEgress (p : Port) (bin : BitVec 7) (s : State) : Host.Outcome State Fault Refusal :=
  .next (match s.egress p with
    | ⟨l, none⟩ :: rest =>
      if s.portFree p then
        let t := stampAt s.tim.now s.inc bin.toNat
        let s := F.TIM_TXSTAMP0_VALID.wr 1 (F.TIM_TXSTAMP0_SEC.wr (t.1.toNat / 2 ^ 32) (F.TIM_TXSTAMP1_SEC.wr t.1.toNat s))
        let s := F.TIM_TXSTAMP2_NS.wr t.2.1 (F.TIM_TXSTAMP3_FRAC.wr t.2.2 (F.TIM_TXCTL_BUSY.wr 0 s))
        beginMessage p (addCorrection (s.egressFix p l) l) rest s
      else s
    | _ => s)

/-! ### Compares -/

/-- A compare is armed: a target that is past already is reached at the next tick (R455); the time unit in restart takes no
arming (R85). -/
def armCompare (n : Nat) (s : State) : State := if s.timStopped then s else setCmp n none ((F.TIM_CMPST_ARMED n).wr 1 s)

/-- An armed compare fires at the first tick at or past its target; one of a BP boundary waits for the step that is judged there
(R455). -/
def execCompareFire (n : Fin 2) (s : State) : Host.Outcome State Fault Refusal :=
  .next (if s.coreOn && (F.TIM_CMPST_ARMED n).is s && !s.stepDue then fireCompare n s else s)

/-! ### The orbit start's part -/

/-- The counter's value at BCID 0 goes to `TIM.ORBSTAMP` (R456). DEDUCED (log 24). -/
def orbitStamp (s : State) : State :=
  let n := s.tim.base
  let s := F.TIM_ORBSTAMP0_SEC.wr (n.sec.toNat / 2 ^ 32) (F.TIM_ORBSTAMP1_SEC.wr n.sec.toNat (F.TIM_ORBSTAMP2_NS.wr n.ns s))
  F.TIM_ORBSTAMP3_STALE.put (!s.synced) (F.TIM_ORBSTAMP3_FRAC.wr n.frac16 (F.TIM_ORBSTAMP4_ORBIT.wr s.orbit.toNat s))

end Sys2Proof.Machine
end

