-- ==== Sys2Proof/Machine/Restart.lean ====
section
/-!
DEFINITION. Sys2Proof/Machine/Restart.lean: block restart (R84 to R90, R189): quiesce, wait and reset, what each block of
Table 3-7 loses and keeps, and its return.
-/
namespace Sys2Proof.Machine

/-- The index of the region of a block of Table 3-7, in the order of `ERR.TEMPr`: four quadrants, L and C (Table 1-1, R521). -/
def blockRegion (n : Nat) : Nat := if n < 16 then n / 4 else if n < 23 then 4 else 5

/-- A block's restart is in progress. -/
def State.restarting (s : State) (n : Nat) : Bool := s.restarts.any fun r => r.block == n

/-- Change the restart of a block. -/
def modRestart (n : Nat) (f : Restart → Restart) (s : State) : State :=
  { s with restarts := s.restarts.map fun r => if r.block = n then f r else r }

/-- A restart starts; one that is in progress takes the request in (R85, R89). DEDUCED (log 68). -/
def startRestart (n : Nat) (s : State) : State :=
  if s.restarting n then s else { s with restarts := s.restarts ++ [({ block := n, stopBp := s.bp + 1 } : Restart)] }

/-- `RESTART` (R84, R89, R189, Table 4-3). -/
def execRestart (by_ : Issuer) (block : BitVec 5) (s : State) : Host.Outcome State Fault Refusal :=
  .next (issue by_ 0x36 true (fun s =>
    let n := block.toNat
    if n < 29 ∧ s.hasBlock n = false then refuse .absent s
    else if !s.mode.restartOk || s.restarting n || (Nat.blt n 16 && (s.adcCal || s.adcAsk)) then refuse .state s
    else if 29 ≤ n then refuse .range s
    else .done 0 (startRestart n s)) s)

/-- The restarts whose quiesce begins at this BP boundary note where sampling stops (R85, R87). -/
def stopRestarts (s : State) : State :=
  { s with restarts := s.restarts.map fun r => if r.stop.isNone && Nat.ble r.stopBp s.bp then { r with stop := some s.tag } else r }

/-! ### What a block holds -/

/-- The channel of an H or W record. -/
def Rec.chan : Rec → Option Nat
  | .h c .. => some c
  | .hc c .. => some c
  | .w c .. => some c
  | _ => none

/-- A record that a channel group holds for its region's write port. -/
def Waiting.ofGroup (w : Waiting) (g : Nat) : Bool := match w.r.chan with | some c => c / 16 == g | none => false

/-- A send is in progress on a lane group. -/
def Send.onGroup (x : Send) (g : Nat) : Bool := isData x.port && lgOf x.port == g

/-- A quiescing block has nothing left to drain (R85, R367, Table 3-7). DEDUCED (log 25). -/
def State.blockDrained (s : State) (n : Nat) : Bool :=
  if n < 16 then !(s.waiting.any fun w => w.ofGroup n)
  else if n < 20 then !(s.sends.any fun x => x.onGroup (n - 16))
  else if n < 22 then !(s.sends.any fun x => x.side.code == n - 20)
  else if n = 22 then s.jobs.isEmpty
  else if n = 24 then s.led.cols.isEmpty
  else true

/-! ### A channel group stops -/

/-- A hit of a stopped group that yields no H record: HITS counts it where it is not counted yet, and SHED where hits are
enabled (R85, R324). -/
def lostHit (c : Nat) (t : Tag) (counted : Bool) (s : State) : State :=
  let hen := s.hen t.bp c
  modAcc c t.orbit (fun a => { a with hits := a.hits + b2n (!counted), shed := a.shed + b2n hen }) s

/-- Every live hit of a slice that has not yielded its record is lost (R85). -/
def lostHits (c : Nat) (s : State) : State :=
  let x := s.slice c
  let s := (x.queue ++ x.waiting).foldl (fun s h => if h.live then lostHit c h.tag true s else s) s
  match x.openHit with
  | some h => if h.live then lostHit c h.tag h.again s else s
  | none => s

/-- The accumulators of a slice close into an S record flagged partial, and the next interval begins; the records of the orbit in
which sampling stopped, whose ledger takes the restart entry, carry RST (R85, R87, R90, R317). DEDUCED (log 25). -/
def closeInterval (c : Nat) (stop : Tag) (s : State) : State :=
  let flag := fun (a : SAcc) => { a with part := true, rst := true }
  let s := s.modSlice c fun x => { x with openHit := none, queue := [], waiting := [], leads := [] }
  if s.mode = .stream ∧ s.enabled c = true then
    let x := s.slice c
    let next : SAcc := { part := true, rst := true, bad := s.quar c }
    if stop.orbit = s.orbit then
      s.setSlice c { x with acc := next, ended := x.ended ++ [(s.orbit, { flag x.acc with stale := s.staleBlock (c / 16) })] }
    else s.setSlice c { x with acc := { x.acc with part := true }, ended := updLast stop.orbit flag x.ended }
  else s.modSlice c fun x => { x with ended := updLast stop.orbit flag x.ended }

/-- The slices of a group let go of their hits and intervals. DEDUCED (log 25). -/
def closeGroup (g : Nat) (stop : Tag) (s : State) : State :=
  overList (groupChans g) (fun c s => if s.hasChan c then closeInterval c stop (lostHits c s) else s) s

/-! ### Reset of a block -/

/-- The reset of a block begins: a channel group closes its intervals, the time unit becomes UNSYNCED (R85, R444). -/
def beginReset (n : Nat) (s : State) : State :=
  let s := match s.restarts.find? fun r => r.block == n with
    | some r => if n < 16 then closeGroup n (r.stop.getD s.tag) s else s
    | none => s
  let s := if n = 26 then goUnsynced (modTim (fun t => { t with step := none }) s) else s
  modRestart n (fun r => { r with resetting := true, resetBp := s.bp, waits := false }) s

/-- The restart of a block that waits for its acknowledgement. -/
def State.quiescing (s : State) (n : Nat) : Option Restart :=
  s.restarts.find? fun r => r.block == n && r.stop.isSome && !r.resetting && !r.waits

/-- A block holds work that it can move (R525); records that wait for buffer space are none. A block of which the model holds no work
counts as holding some. DESIGN CHOICE (log 5). -/
def State.holdsWork (s : State) (n : Nat) : Bool :=
  if n < 16 then
    (groupChans n).any fun c => let x := s.slice c; x.openHit.isSome || !x.queue.isEmpty || !x.waiting.isEmpty
  else if n < 20 then (s.sends.any fun x => x.onGroup (n - 16)) || s.workFor (lgSide (n - 16))
  else if n = 20 then s.workFor .k
  else if n = 21 then s.workFor .q
  else if n = 22 then !s.jobs.isEmpty || s.packets.any fun p => p.st == .queued
  else if n = 23 then !(s.fnIdle 9)
  else if n = 24 then !(s.fnIdle 10)
  else true

/-- What a forced reset ends: held records are discarded and counted in the restart entry alone, interrupted packets are sent again, jobs end in stored
form (R86, R88, R323, R367). -/
def forceBlock (n : Nat) (s : State) : State :=
  if n < 16 then
    let l := s.waiting.filter fun w => w.ofGroup n
    let h := (l.filter fun w => w.cls == .h).length
    let s := l.foldl (fun s w =>
      match w.r with
      | .hc c _ _ => modAcc c w.tag.orbit (fun a => { a with demoted := a.demoted - 1 }) s
      | _ => s) s
    modRestart n (fun r => { r with hDisc := h, wDisc := l.length - h }) { s with waiting := s.waiting.filter fun w => !w.ofGroup n }
  else if n < 20 then interruptSends false (fun x => x.onGroup (n - 16)) s
  else if n < 22 then interruptSends false (fun x => x.side.code == n - 20) s
  else if n = 22 then
    s.jobs.foldl (fun s j =>
      match s.packet j.2 with
      | some p => failJob j.1 p 5 (s.bytesSoFar p) (s.drew 1)
      | none => s) s
  else if n = 24 then modLed (fun l => { l with cols := [] }) s
  else s

/-- The records a restart has discarded. -/
def Restart.lost (r : Restart) : Nat := r.hDisc + r.wDisc + r.mDisc

/-! ### Resuming -/

/-- The slices of a group are reset: chains, converter history and statistic blocks are cleared, edges are AGED, and sampling
resumes in this BP (R254, R268, R275, R280, R301). -/
def resetGroup (g : Nat) (s : State) : State :=
  let words := fun (c : Nat) => [(F.ADC_MM0_MINA c).addr, (F.ADC_MM1_MINB c).addr, (F.ADC_ACC0_COUNT c).addr,
    (F.ADC_ACC1_SUMAL c).addr, (F.ADC_ACC2_SUMAH c).addr, (F.ADC_ACC3_SUMBL c).addr, (F.ADC_ACC4_SQAL c).addr,
    (F.ADC_ACC5_SQAH c).addr, (F.ADC_ACC6_SQBL c).addr, (F.ADC_ACC7_SQBH c).addr, (F.TDC_HSTAT0_HITS c).addr,
    (F.TDC_HSTAT1_MERGED c).addr, (F.FLT_TSTAT0_EVENTS c).addr, (F.FLT_TSTAT1_CLIPS c).addr]
  let one := fun (c : Nat) (s : State) =>
    let s := (words c).foldl (fun s a => s.setWord a (wordReset a)) s
    s.modSlice c fun x => { x.chainClear with
      fltNew := none, conv := [], tevs := [], timedOut := false, cut := none, from_ := s.bp
      minA := 0x7FFF, maxA := -0x8000, minB := 0x7FFF, maxB := -0x8000 }
  tdcReturn g (overList ((groupChans g).filter s.hasChan) one s)

/-- The restart entry of a channel group enters the ledger of the orbit in which sampling stopped, or of the present one where
that ledger is closed (R87, R318). DEDUCED (log 25). -/
def restartEntry (r : Restart) (stop : Tag) (s : State) : State :=
  let l := match s.ledgers.find? fun l => l.orbit == stop.orbit with
    | some l => some l
    | none => s.ledgers.find? fun l => l.orbit == s.orbit
  match l with
  | some l =>
    let s := s.modLedger l.orbit fun l => { l with restarts := l.restarts + 1 }
    let body := Rec.restart r.block r.forced stop.bcid (s.bp - stop.bp) r.hDisc r.wDisc r.mDisc
    enterRecord { region := r.block / 4, cls := .s, tag := ⟨l.first, 0, l.orbit⟩, stale := s.staleBlock r.block, hold := false
                  aged := false, part := false, r := body } s
  | none => s

/-- The monitor front end is reset: its runs are dropped, and the regular sequence starts anew (R490, R499, R500). A
self-calibration that runs is abandoned, which raises CALDONE and is reported (R97, R183, Table 11-12). DEDUCED (log 26). -/
def resetMonitor (s : State) : State :=
  let cal := s.mon.cal.isSome
  let s := modMon (fun m => { m with cur := none, stopped := [], next := 0, len := 0, seqOn := F.MON_CTL_RUN.is s, paid := false
                                     inj := none, injPend := false, extra := [], cal := none, calStart := none, latest := [] }) s
  let s := monReturn { s with hwreqs := s.hwreqs.filter fun r => !(r.work == .mon) }
  if cal then calReport true true (raiseEv (.all .calDone) s) else s

/-- The LED driver is reset: its queue is emptied, the charges of the columns clear, and every lamp is UNKNOWN (R513, R516).
DEDUCED (log 26). -/
def resetLed (s : State) : State :=
  let s := suppressOff (s.led.remaining + b2n s.led.diag.isSome) s
  let s := if s.led.diag.isSome then ledServiceEnd s else s
  lampsUnknown (modLed (fun l => { l with slots := [], dues := [], charge := [], diag := none, rowOn := false, blanking := false }) s)

/-- What the reset of a block leaves (Table 3-7). DEDUCED (log 26). -/
def resetBlock (n : Nat) (s : State) : State :=
  if n < 16 then resetGroup n s
  else if n < 20 then overList (groupPorts (n - 16)) restartEq s
  else if n = 23 then resetMonitor s
  else if n = 24 then resetLed s
  else if n = 25 then
    { s with tb := smap (fun _ => {}) (fun x => { x with edges := [], dues := [], driveEnd := 0, align := false, alignDue := none }) s.tb }
  else if n = 27 then dropPart .k s
  else if n = 28 then dropPart .q s
  else s

/-- A block resumes at a BP boundary: it is stale, and its restart is reported; a channel group writes its restart entry (R85, R87,
R90, R530). -/
def resumeBlock (r : Restart) (s : State) : State :=
  let n := r.block
  let s := { s with restarts := s.restarts.filter fun x => !(x == r) }
  let s := returned n (resetBlock n s)
  let s := if n < 16 then restartEntry r (r.stop.getD s.tag) s else s
  eventReport 0x0A n (b2n r.forced) (raiseFlag 0x205 0 s)

/-! ### The steps of a restart -/

/-- The next step of a block's restart begins at a BP boundary: its reset, or its resumption (R85). -/
def nextStep (n : Nat) (s : State) : State :=
  match s.restarts.find? fun r => r.block == n with
  | some r => if r.resetting then resumeBlock r s else beginReset n s
  | none => s

/-- A step of a restart is over: the next one begins now at a BP boundary, else at the next one (R85). -/
def endStep (n : Nat) (s : State) : State :=
  if s.cyc = 0 then nextStep n s else modRestart n (fun r => { r with waits := true }) s

/-- Steps of restarts that were waiting for this BP boundary begin (R85). -/
def turnRestarts (s : State) : State :=
  overList ((s.restarts.filter Restart.waits).map Restart.block) nextStep s

/-- The block has drained what it holds and acknowledges (R85). DEDUCED (log 25). -/
def execQuiesceAck (block : BitVec 5) (s : State) : Host.Outcome State Fault Refusal :=
  .next (match s.quiescing block.toNat with
    | some _ => if s.coreOn && s.blockDrained block.toNat then endStep block.toNat s else s
    | none => s)

/-- The wait times out: the reset is forced, and the loss is counted and reported (R86, R520, R521).
DESIGN CHOICE (log 5), DEDUCED (log 25). -/
def execQuiesceTimeout (block : BitVec 5) (s : State) : Host.Outcome State Fault Refusal :=
  let n := block.toNat
  .next (match s.quiescing n with
    | some r =>
      if s.coreOn && Nat.ble (r.stopBp + F.RST_QTIMEOUT_BP.rd s) s.bp then
        let s := modRestart n (fun r => { r with forced := true }) (forceBlock n s)
        let lost := match s.restarts.find? fun r => r.block == n with | some r => r.lost | none => 0
        let s := F.RST_LASTLOSS_BLOCK.wr n (F.RST_LASTLOSS_RECORDS.wr (Nat.min lost 0xFFFF) (raiseFlag 0x205 1 s))
        endStep n (faultReport 3 9 n (blockRegion n) (BitVec.ofNat 32 lost) s)
      else s
    | none => s)

/-- The 8 BP of a block's reset have passed: it resumes (R85). DESIGN CHOICE (log 5). -/
def execBlockResetEnd (block : BitVec 5) (s : State) : Host.Outcome State Fault Refusal :=
  let n := block.toNat
  .next (match s.restarts.find? fun r => r.block == n && r.resetting && !r.waits with
    | some r => if s.coreOn && Nat.ble (r.resetBp + 8) s.bp then endStep n s else s
    | none => s)

end Sys2Proof.Machine
end

