-- ==== Sys2Proof/Machine/Faults.lean ====
section
/-!
DEFINITION. Sys2Proof/Machine/Faults.lean: the fault handlers of cells, blocks, regions and the chip (R520 to R531), and the
program-load confirmation (R82).
-/
namespace Sys2Proof.Machine

/-- A vote without majority is counted in its region and sets NOMAJ (R522, R532, Table 19-7). -/
def noMajority (region : Nat) (s : State) : State :=
  raiseFlag F.ERR_STICKY_NOMAJ.addr 1 ((F.ERR_VOTE_UE region).count 1 s)

/-- A slice's voted state has no majority: its group quarantines it (R523). -/
def sliceLost (c : Nat) (s : State) : State :=
  quarantine c 3 (faultReport 2 5 (c / 16) c (BitVec.ofNat 32 c) (noMajority (c / 64) s))

/-- A data lane's voted state has no majority: its lane group fails it as DROP does (R391, R523). -/
def laneLost (p : Nat) (s : State) : State :=
  failLanes (lgOf p) [p] (faultReport 2 5 (16 + lgOf p) p (BitVec.ofNat 32 p) (noMajority 4 s))

/-- An engine's voted state has no majority: a job that runs in it ends in stored form, and it is quarantined (R366, R523).
DEDUCED (log 27). -/
def engineLost (e : Nat) (s : State) : State :=
  let s := faultReport 2 5 22 e (BitVec.ofNat 32 e) (noMajority 4 s)
  let s := match s.jobOf e with
    | some p => failJob e p 3 (s.bytesSoFar p) (s.drew 1)
    | none => s
  quarantineEngine e s

/-- A cell's voted state has no majority, and its block quarantines it (R523). DEDUCED (log 69). -/
def execCellNoMajority (cell : CellId) (s : State) : Host.Outcome State Fault Refusal :=
  .next (if !s.coreOn then s
    else match cell with
      | .slice c => if s.hasChan c then sliceLost c s else s
      | .lane p => if isData p && s.hasPort p then laneLost p s else s
      | .engine e => if s.hasCmp then engineLost e s else s)

/-- A slice counts more parity errors in an orbit than PARMAX: its group quarantines it (R524). -/
def execParityQuarantine (c : Chan) (errors : Word) (s : State) : Host.Outcome State Fault Refusal :=
  .next (if s.coreOn && s.hasChan c && !s.quar c && Nat.blt (F.ERR_CFG_PARMAX.rd s) errors.toNat then
      quarantine c 3 (faultReport 2 6 (c / 16) c errors s)
    else s)

/-- A region's handler restarts a block, where software has left that to it; a restart in progress takes the request in (R89,
R525). DEDUCED (log 68). -/
def regionRestart (n : Nat) (s : State) : State :=
  if F.ERR_CFG_AUTO.is s then startRestart n (raiseFlag F.ERR_STICKY_ESCAL.addr 3 s) else s

/-- A block's voted state has no majority, and its region restarts it (R525). DEDUCED (log 69). -/
def execBlockNoMajority (block : BitVec 5) (s : State) : Host.Outcome State Fault Refusal :=
  let n := block.toNat
  .next (if s.coreOn && s.hasBlock n then
      regionRestart n (faultReport 3 8 n (blockRegion n) (BitVec.ofNat 32 n) (noMajority (blockRegion n) s))
    else s)

/-- A block's watchdog expires while it holds work, and its region restarts the block; a WDOG of 0 disables it (R525).
DESIGN CHOICE (log 5). -/
def execWatchdogExpiry (block : BitVec 5) (s : State) : Host.Outcome State Fault Refusal :=
  let n := block.toNat
  .next (if s.coreOn && s.hasBlock n && !(F.ERR_CFG_WDOG.rd s == 0) && s.holdsWork n then
      regionRestart n (faultReport 3 7 n (blockRegion n) (BitVec.ofNat 32 n) (raiseFlag F.ERR_STICKY_WDOG.addr 4 s))
    else s)

/-- The state code of a chip-level fault that enters SAFE, and the region that votes (R526, Table 1-1). -/
def chipCode : ChipState → Nat × Nat
  | .portBlock _ => (0, 4)
  | .clock => (1, 5)
  | .reset => (2, 5)
  | .sequencer => (3, 5)
  | .bufferTables => (4, 4)
  | .claims => (5, 5)
  | .fuseShadows => (6, 5)

/-- The fixed-latency port block of a side is lost: the side is held unhealthy and dead (R346, R421, R526). -/
def portBlockLost (side : Side) (s : State) : State :=
  let s := faultReport 4 10 31 (ctlPort side) (BitVec.ofNat 32 side.code) s
  let s := { s with sid := { s.sid with held := s.sid.held.set side true } }
  refreshDead side (judgeHealth side s)

/-- Chip-level state has no majority: the core clock stops at the next BP boundary, and the hub enters SAFE; the report waits for the
warm start (R56, R526, R527). -/
def chipStateLost (code : Nat) (s : State) : State :=
  let w0 := BitVec.ofNat 32 (packBits [(4, 4), (6, 11), (5, 31), (9, 0), (8, 0)])
  let s := F.ERR_CHIPCAUSE_VALID.wr 1 (F.ERR_CHIPCAUSE_CLASS.wr 11 (F.ERR_CHIPCAUSE_STATE.wr code s))
  { s with rst := { s.rst with chipLost := some (w0, BitVec.ofNat 32 code), chipDue := true } }

/-- The part of a BP boundary: a chip fault stops the core clock and enters SAFE (R526). DEDUCED (log 69). -/
def chipTurn (s : State) : State := if s.rst.chipDue then settled enterSafe s else s

/-- A fault of the chip level (R526, R527). DEDUCED (log 69). -/
def execChipFault (what : ChipState) (s : State) : Host.Outcome State Fault Refusal :=
  .next (if s.coreOn then
      settled (fun s =>
        let s := raiseFlag F.ERR_STICKY_CHIP.addr 5 (noMajority (chipCode what).2 s)
        match what with
        | .portBlock side => portBlockLost side s
        | _ => chipStateLost (chipCode what).1 s) s
    else s)

end Sys2Proof.Machine
end

