-- ==== Sys2Proof/Machine/Orbit.lean ====
section
/-!
DEFINITION. Sys2Proof/Machine/Orbit.lean: BP boundaries and orbit starts: what happens at each without a command of its own, and
the commands ORBIT, RESYNC and ORBIT_START (R13, R14, R90, R98 to R100, R149, R187, R250, R253, R266, R267, R290, R317, R319,
R406 to R408, R425, R456, R469).
-/
namespace Sys2Proof.Machine

/-! ### BP boundaries -/

/-- The fast commands of the side that is not the reference are compared with those of the reference side (R406).
DEDUCED (log 29). -/
def judgeFcs (s : State) : State :=
  let keep := fun (l : List (Side × BitVec 8 × Nat)) (s : State) => { s with sid := { s.sid with fcs := l } }
  match s.clk.ref with
  | none => keep [] s
  | some r =>
    let l := s.sid.fcs
    let due := l.filter fun x => x.1 != r && Nat.blt (x.2.2 + 2) s.bp
    let lone := due.filter fun x =>
      !(l.any fun y => y.1 == r && y.2.1 == x.2.1 && Nat.ble y.2.2 (x.2.2 + 2) && Nat.ble x.2.2 (y.2.2 + 2))
    let s := keep (l.filter fun x => if x.1 == r then Nat.ble s.bp (x.2.2 + 5) else Nat.ble s.bp (x.2.2 + 2)) s
    lone.foldl (fun s _ => raiseFlag 0xB645 2 s) s

/-- The discriminators at n BP boundaries: high outputs are counted (R207, R214). -/
def countHigh (n : Nat) (s : State) : State :=
  let l := (s.slices.filter fun e => e.2.high).map Prod.fst
  let s := overList l (fun c => (F.AFE_DSTAT1_HIGHBP c).count n) s
  { s with slices := smap (fun _ => {}) (fun x => { x with highRun := if x.high then x.highRun + n else 0 }) s.slices }

/-- The BP timers of the squares step at n BP boundaries; a step from 1 to 0 raises TIMER in the BP that begins, at the latest at
its end (R133). DEDUCED (log 6). -/
def stepTimers (n : Nat) (s : State) : State :=
  let s := overList (below 64 fun i => (s.square i).timerDue) raiseTimer s
  { s with squares := smap (fun _ => {}) (fun q =>
      if q.timer = 0 then q else { q with timer := BitVec.ofNat 24 (q.timer.toNat - n), timerDue := Nat.ble q.timer.toNat n }) s.squares }

/-- The channels that are quarantined. -/
def State.quarList (s : State) : List Nat :=
  ((s.regs.filter fun e => Nat.ble 0x2000 e.1 && Nat.blt e.1 0x3000 && e.1 % 16 == 5).map fun e => (e.1 - 0x2000) / 16).filter s.quar

/-- The history of the n BP that end: this one, and the ones that pass without a command. DEDUCED (log 22). -/
def State.passed (s : State) (n : Nat) (t : Tim) (inc : Word) : List BpRec :=
  let skipped := (List.range (Nat.min (n - 1) 128)).map fun k =>
    let i := n - 1 - k
    ({ tag := ⟨s.bp + i, s.bcid + i, s.orbit⟩, map := 0, mode := s.mode, base := t.base.plus (8 * (i - 1) * inc.toNat : Nat), inc := inc
       quads := s.edgeQuads, quar := s.quarList } : BpRec)
  skipped ++ [{ tag := s.tag, map := s.edges, mode := s.mode, base := s.tim.base, inc := s.word F.TIM_INC_INC.addr
                quads := s.edgeQuads, quar := s.quarList }]

/-- What is determined at a BP boundary comes at the latest at the end of its first core cycle: the pending step is judged, and due
pulses fire (R446, R505, R517). DEDUCED (log 6). -/
def restOfBoundary (s : State) : State := fireDiag (fireLeds (judgeStep s))

/-- n BP pass: time, the history and everything that counts BP boundaries. An ORBIT that did not come in BCID 0 is noted (R407,
R440, R441). -/
def passTime (n : Nat) (s : State) : State :=
  let s := if s.bcid = 0 ∧ s.orbSeen = false then raiseFlag 0xB645 4 s else s
  let s := if s.cycle0 then restOfBoundary s else s
  let u := timBase (coreTicks 7 1 (timBoundary (coreTicks s.cyc (7 - s.cyc) s)))
  let h := s.passed n u.tim (u.word F.TIM_INC_INC.addr)
  let s := timBase (coreTicks 8 (8 * (n - 1)) (skipLeds n u))
  let s := { s with bp := s.bp + n, bcid := s.bcid + n, cyc := 0, cycle0 := false, setNow := [], edges := 0, bpHist := (h ++ s.bpHist).take 128 }
  let s := { s with ledgers := s.ledgers.map fun l => if l.ended then { l with age := l.age + n } else l }
  refillCredits n (stepTimers n (countHigh n s))

/-- The quadrants that convert at the sampling edge of this BP boundary (R227, R246). -/
def latchEdge (s : State) : State :=
  { s with edgeQuads := if s.adcCal then 0 else BitVec.ofNat 4 (bitsOf ((List.range 4).map fun q => s.quadState q == .active)) }

/-- What a BP boundary brings after its time has passed, n BP after the last one: a lone side's claim, the steps of restarts, conversions, the role
moves, the frame buffer's sides, lanes, the monitor's interlocks and lamps, the mode transitions, test patterns, the idleness of the function groups,
and a chip fault's end of the core clock. -/
def atBoundary (n : Nat) (s : State) : State :=
  let s := tdcMoves (startConvs (stopRestarts (turnRestarts (loneTurn (judgeFcs s)))))
  let s := scheduleLeds (monTurn (wakeLanes (countDead n (applySingle s))))
  chipTurn (latchEdge (noteIdle (testPatterns (modeTurn (raiseTemp (startAdcCal (warmTurn s)))))))

/-- A BP boundary within an orbit. DESIGN CHOICE (logs 1, 3). -/
def nextBp (s : State) : State := atBoundary 1 (passTime 1 s)

/-- The words of sticky flags (R17, R532): each is followed by the counters of its flags. -/
def stickyWords : List Nat :=
  [0x10, 0x205, 0x302, 0x40D, 0x430, 0x814, 0x1004, 0x140C, 0x1802, 0x1F09, 0x4802, 0x5038, 0x9031, 0xA00A, 0xA806, 0xB645, 0xC003,
    0xD008] ++ ((List.range 24).flatMap fun p => [0xB005 + 64 * p, 0xB021 + 64 * p]) ++ (List.range 4).map fun g => 0xB602 + 16 * g

/-- The flags of a sticky word that have been set between two states: a flag that is new, or that has counted (R17). -/
def flagsSet (a : Nat) (before s : State) : Word :=
  if s.word a = 0 then 0
  else w32 (bitsOf ((List.range 6).map fun i =>
    natBit (s.word a).toNat i && (!(natBit (before.word a).toNat i) || s.word (a + 1 + i) != before.word (a + 1 + i))))

/-- The flags that a BP boundary has set are kept for the core cycle that begins with it (R16). DEDUCED (log 62). -/
def noteSets (before s : State) : State :=
  { s with setNow := stickyWords.foldl (fun m a => sput (fun _ => 0) a (flagsSet a before s) m) [] }

/-! ### Statistics of the orbit that ends -/

/-- The S accumulators with which a slice begins an orbit. -/
def State.freshAcc (s : State) (c : Nat) : SAcc :=
  if s.mode = .stream ∧ s.enabled c = true then { bad := s.quar c, part := s.stoppedAt (c / 16) s.bp } else {}

/-- The S records of a STREAM orbit that ends, of every channel whose enable was in effect (R317). -/
def endIntervals (s : State) : State :=
  if s.mode = .stream then
    overList (s.chans.filter s.enabled) (fun c s =>
      s.modSlice c fun x => { x with ended := x.ended ++ [(s.orbit, { x.acc with stale := s.staleBlock (c / 16) })] }) s
  else s

/-- The slices begin the intervals of the orbit that starts. -/
def beginIntervals (s : State) : State :=
  overList (s.chans.filter fun c => (s.slice c).acc != s.freshAcc c) (fun c s => s.modSlice c fun x => { x with acc := s.freshAcc c }) s

/-- The min/max blocks take the values of the ended orbit, and the trackers restart; what the blocks held before is kept for a
`TAKE` of this core cycle (R253). -/
def writeMinMax (s : State) : State :=
  let one := fun (c : Nat) (s : State) =>
    let x := s.slice c
    let a := (F.ADC_MM0_MAXA c).addr
    let old := sput (fun _ => none) a (some (s.word a)) (sput (fun _ => none) (a + 1) (some (s.word (a + 1))) s.rwoOld)
    let s := (F.ADC_MM0_MAXA c).wrInt x.maxA ((F.ADC_MM0_MINA c).wrInt x.minA { s with rwoOld := old })
    let s := (F.ADC_MM1_MAXB c).wrInt x.maxB ((F.ADC_MM1_MINB c).wrInt x.minB s)
    s.setSlice c { x with minA := 0x7FFF, maxA := -0x8000, minB := 0x7FFF, maxB := -0x8000 }
  let touched := fun (c : Nat) =>
    let x := s.slice c
    x.minA != 0x7FFF || x.maxA != -0x8000 || x.minB != 0x7FFF || x.maxB != -0x8000 ||
      s.word (F.ADC_MM0_MAXA c).addr != 0x80007FFF || s.word (F.ADC_MM1_MAXB c).addr != 0x80007FFF
  overList (s.chans.filter touched) one s

/-! ### Pending values -/

/-- A word of the field map holds nothing but admission inputs: a declared rate, or N_B (R149). -/
def isDecl (a : Nat) : Bool := (Nat.ble 0x441 a && Nat.ble a 0x444) || a == F.LNK_ORBIT_NB.addr

/-- A word is the `ADC.CFG` of a channel. -/
def isAdcCfg (a : Nat) : Bool := Nat.ble 0x3000 a && Nat.blt a 0x4000 && a % 16 == 0

/-- An admission input is pending. -/
def State.admPending (s : State) : Bool := s.rwo.any fun e => isDecl e.1 || isAdcCfg e.1

/-- Every pending write to an admission input is discarded; a level in the same word stays pending (R149).
DEDUCED (log 61). -/
def discardAdm (s : State) : State :=
  let keep := s.rwo.filter fun e => !isDecl e.1
  { s with rwo := keep.map fun e =>
      if isAdcCfg e.1 then (e.1, e.2.map fun w => BitVec.ofNat 32 (w.toNat / 4 * 4 + (s.word e.1).toNat % 4)) else e }

/-- Admission at an orbit start: in STREAM and CAPTURE the pending values are tested and may be discarded; elsewhere a write of
after the last `ADMIT` ends the admission as it takes effect (R149). DEDUCED (log 61). -/
def recheckAdm (s : State) : State :=
  if !s.admPending then s
  else if s.mode = .stream ∨ s.mode = .capture then
    match s.admitFails (F.PWR_ADM_STD.rd s) with
    | some f => hubRecord 0x0A [BitVec.ofNat 32 f.1] (raiseFlag 0x430 4 (discardAdm { s with admDirty := false }))
    | none => { s with admDirty := false }
  else if s.admDirty then F.PWR_ADM_ADMITTED.wr 0 { s with admDirty := false }
  else s

/-- A word belongs to the setting set of a channel (Table 10-9). -/
def isFltOf (c a : Nat) : Bool := Nat.ble (0x5000 + 64 * c) a && Nat.ble a (0x5013 + 64 * c)

/-- The channels whose setting set has a pending value. -/
def State.fltPending (s : State) : List Nat := s.chans.filter fun c => s.rwo.any fun e => isFltOf c e.1

/-- An invalid setting set is discarded whole (R290). -/
def checkFlt (s : State) : State :=
  overList s.fltPending (fun c s =>
    if (fltSetBy (fun f => f.coming s) c).valid then s
    else
      let s := { s with rwo := s.rwo.filter fun e => !isFltOf c e.1 }
      hubRecord 0x0B [BitVec.ofNat 32 c] (F.FLT_BADCH_CHANNEL.wr c (raiseFlag F.FLT_STICKY_BADSET.addr 1 s))) s

/-- The bits of a word that hold RWO fields. -/
def rwoMask (a : Nat) : Word := ((wordRow a).map (·.rwo)).getD 0

/-- Pending values take effect (R14); what they replace is kept for samples and edges of the orbit that ended. -/
def commitRwo (s : State) : State :=
  let l := s.rwo
  let s := { s with rwoOld := l.map fun e => (e.1, some (s.word e.1)), rwo := [] }
  l.foldr (fun e s =>
    match e.2 with
    | some w => let m := rwoMask e.1; s.setWord e.1 ((s.word e.1 &&& ~~~m) ||| (w &&& m))
    | none => s) s

/-- Channels whose enable or mode changes at this orbit start (R230). -/
def State.cfgChanges (s : State) : List Nat :=
  s.chans.filter fun c =>
    match sget (fun _ => none) s.rwo (0x3000 + 16 * c) with
    | some w => w.toNat % 4 != (s.word (0x3000 + 16 * c)).toNat % 4
    | none => false

/-- The delay of each FTO output takes effect at the orbit start, or at the first fall of an output that is high (R219). -/
def takeDelays (s : State) : State :=
  overList (below 4 fun q => (s.ftoOf q).delay != (F.TRG_FTOCFG_DELAY q).rd s) (fun q s =>
    let x := s.ftoOf q
    if x.en && !s.ftoLow q s.nowBins then (s.drew 1).setFto q { x with delayDue := true }
    else (s.drew 1).setFto q { x with delay := (F.TRG_FTOCFG_DELAY q).rd s, delayDue := false }) s

/-- The pending values of the orbit start and what depends on them: chains, delays, and quadrants that acquisition needs (R219,
R230, R280, R289). -/
def takeRwo (s : State) : State :=
  let s := checkFlt (recheckAdm s)
  let flt := s.fltPending
  let cfg := s.cfgChanges
  let s := takeDelays (commitRwo s)
  let s := overList cfg (chainStop s.bp) s
  let s := overList flt (fun c s => s.modSlice c fun x => { x with fltNew := some s.bp }) s
  if s.acquires then wakeQuads s else s

/-! ### STREAM begins and ends -/

/-- The ledger of a STREAM orbit that starts, with its time stamp (R319, R456). DEDUCED (log 24). -/
def openLedger (s : State) : State :=
  let n := s.tim.base
  let l : Ledger := { orbit := s.orbit, first := s.bp, final := 0, nb := 0, age := 0, srecs := 0, restarts := 0, pktH := 0, pktW := 0
                      pktS := 0, pktM := 0, sec := n.sec, ns := n.ns, frac := BitVec.ofNat 16 n.frac16, tstale := !s.synced
                      hold := false, last := false, ended := false }
  { s with ledgers := s.ledgers ++ [l] }

/-- The ledger of the orbit that ends (R319). -/
def endLedger (len : Nat) (s : State) : State :=
  { s with ledgers := s.ledgers.map fun l => if l.ended then l else { l with ended := true, final := s.bp - 1, nb := len, age := 0 } }

/-- STREAM ends with the last BP: open windows take no later one (R303). -/
def endWindows (s : State) : State :=
  { s with wins := (s.wins.map fun w => { w with last := Nat.min w.last (s.bp - 1) }).filter fun w => Nat.ble w.first w.last }

/-- STREAM ends at this orbit start where its exit has been accepted (R100); it begins where every group that it needs is
ACTIVE and its conditions still hold (R98, R99). DEDUCED (log 39). -/
def streamTurn (s : State) : State :=
  if s.mode = .stream then
    if s.target = some .idle then
      let k := s.ledgers.length - 1
      enterMode .idle (endWindows { s with ledgers := s.ledgers.mapIdx fun i l => if i = k then { l with last := true } else l })
    else s
  else if s.mode = .idle ∧ s.target = some .stream ∧ s.allActive (4 :: s.neededQuads) = true then
    if F.PWR_ADM_ADMITTED.is s && s.calibrated then startCredits (enterMode .stream s) else cancelPending s
  else s

/-! ### Factors and staleness -/

/-- A raw code that calibration interval j gives interpolator k of a cell: a measured value. A cell is a slice or, from 256 up, one
of the trigger bus. DESIGN CHOICE (log 18). -/
def State.rawCode (s : State) (cell k j : Nat) : Nat := (s.freeNow (256 * (3 * cell + k) + j)).toNat % 128

/-- What a run measures of an interpolator: the raw codes of its 128 one-period and its 128 two-period intervals (R264). -/
def State.rawCodes (s : State) (cell k : Nat) (two : Bool) : List Nat :=
  (List.range 128).map fun j => s.rawCode cell k (128 * b2n two + j)

/-- The factor of 128 raw codes: their mean in 1/16 raw code (R264). -/
def meanCode (l : List Nat) : Nat := (rne (l.sum : Nat) 8).toNat

/-- The quality figure of an interpolator: the greatest less the least of its one-period codes (R264). -/
def codeSpread (l : List Nat) : Nat := l.foldl Nat.max 0 - l.foldl Nat.min 127

/-- The factors C2 and C1 of an interpolator as a word (Table 9-2). -/
def State.calWord (s : State) (cell k : Nat) : Word :=
  w32 (meanCode (s.rawCodes cell k true) * 65536 + meanCode (s.rawCodes cell k false))

/-- The quality figures of a slice as a word (Table 9-2). -/
def State.calqWord (s : State) (c : Nat) : Word :=
  w32 (((List.range 3).map fun k => codeSpread (s.rawCodes c k false) * 256 ^ k).sum)

/-- A slice takes the factors and quality figures of a run, and is FRESH (R264, R266). -/
def freshSlice (c : Nat) (s : State) : State :=
  let s := overList (List.range 3) (fun k s => s.setWord (F.TDC_CAL_C1 c k).addr (s.calWord c k)) s
  (F.TDC_STAT_FRESH c).wr 1 (s.setWord (F.TDC_CALQ_Q0 c).addr (s.calqWord c))

/-- A trigger-bus cell takes the factors of a run (R276). -/
def freshCell (n : Nat) (s : State) : State :=
  let x := s.tbCell n
  { s with tbCells := sput (fun _ => {}) n { x with cal0 := s.calWord (256 + n) 0, cal1 := s.calWord (256 + n) 1
                                                    cal2 := s.calWord (256 + n) 2, fresh := true } s.tbCells }

/-- The factors of an accepted TDC run are measured values that take effect now, in the slices it calibrated and in the
trigger-bus cells; every other slice is AGED (R266, R267, R276). DESIGN CHOICE (log 18). -/
def applyTdc (s : State) : State :=
  let r := s.gap.tdcAccepted
  let done := fun (c : Nat) => match r with | some r => r.groups.getLsbD (c / 16) | none => false
  let s := overList (s.chans.filter done) freshSlice s
  let s := overList (List.range 4) (fun n s =>
    if r.isSome then freshCell n s
    else { s with tbCells := sput (fun _ => {}) n { s.tbCell n with fresh := false } s.tbCells }) s
  let s := s.drew 200000
  let aged := s.chans.filter fun c => !done c
  let s := overList aged (fun c s => (F.TDC_STAT_AGEDORB c).count 1 ((F.TDC_STAT_FRESH c).wr 0 s)) s
  let s := if aged.isEmpty then s else raiseFlag 0x4802 0 s
  F.TDC_CALSTAT_ACCEPTED.wr 0 (modGap (fun g => { g with tdcAccepted := none }) s)

/-- The results of background runs take effect together (R250). DESIGN CHOICE (log 18), DEDUCED (log 54). -/
def applyBackground (s : State) : State :=
  let old := fun (c : Nat) (s : State) =>
    { s with rwoOld := (List.range 5).foldl (fun m k => sput (fun _ => none) (0x3001 + 16 * c + k) (some (s.word (0x3001 + 16 * c + k))) m) s.rwoOld }
  let s' := s.bgDone.foldl (fun s d => newFactors d.1 d.2 true (old d.1 s)) s
  if s.bgDone.isEmpty then s else { s'.drew 2048 with bgDone := [] }

/-- How far the refresh steps of a unit have come. -/
def State.stage (s : State) (n : Nat) : Nat := sget (fun _ => 0) s.refresh n

/-- The refresh steps of a stale unit at this orbit start: the stage it reaches, and whether its bit clears (Table 3-8).
`run` are the groups of the TDC run whose factors take effect here. -/
def State.refreshStep (s : State) (run : BitVec 16) (n : Nat) : Nat × Bool :=
  let k := s.stage n
  if n < 16 then
    let k' := if k = 0 then 1 else if k = 1 ∧ run.getLsbD n = true then 2 else k
    (k', k' == 2 && !((groupChans n).any s.due))
  else if n = 23 then (k, (List.range s.monLen).all fun e => natBit k e)
  else if n = 24 then (k, (List.range 128).all fun i => !natBit ((F.LED_USE_USE (i / 32)).rd s) (i % 32) || natBit k i)
  else if n = 26 then (k, s.synced)
  else (k, true)

/-- The stale bits that clear at this orbit start (R90). -/
def refreshStale (run : BitVec 16) (s : State) : State :=
  overList (below 29 s.staleBlock) (fun n s =>
    let r := s.refreshStep run n
    if r.2 then { s.setStale n false with refresh := sput (fun _ => 0) n 0 s.refresh }
    else { s with refresh := sput (fun _ => 0) n r.1 s.refresh }) s

/-! ### The orbit start -/

/-- The time-out of an armed capture counts an orbit start (R187). -/
def countArm (s : State) : State :=
  match s.cap.st with
  | .waitRel | .armed =>
    if s.cap.timeout = 0 then s
    else
      let s' := { s with cap := { s.cap with timeout := s.cap.timeout - 1 } }
      if s.cap.timeout = 1 then disarm s' else s'
  | _ => s

/-- Returning sides count the orbit starts after their snapshots (R425). -/
def countReturns (s : State) : State :=
  let one := fun (side : Side) (s : State) =>
    match s.sid.ret.get side with
    | some r => if r.snapPend then s else setRet side (some { r with count := r.count + 1 }) s
    | none => s
  one .q (one .k s)

/-- The limits of an orbit begin anew: the spent energy of the classes and the squares that waited for it, refusal records and
reports (R145, R161, R531). -/
def freshLimits (s : State) : State :=
  let s := overList (List.range 4) (fun k => (F.PWR_CLASSSPENT_EU k).wr 0) s
  { s with squares := smap (fun _ => {}) (fun q => { q with barred := false }) s.squares, refProg := 0, refA1 := 0, reports := 0 }

/-- An orbit starts in the BP that begins or is relabelled: its number, and everything that an orbit start brings, in order.
DEDUCED (log 23), DESIGN CHOICE (log 71). -/
def beginOrbit (number : Word) (s : State) : State :=
  let len := s.bp - s.orbStart
  let s := endLedger len (endIntervals (acceptDue s))
  let run : BitVec 16 := match s.gap.tdcAccepted with | some r => r.groups | none => 0
  let s := gapOrbit s
  let s := { s with orbit := number, bcid := 0, orbStart := s.bp }
  let s := { s with marks := s.marks.filter fun m => m.orbit == number - 1 || m.orbit == number
                    clk := { s.clk with holds := s.clk.holds.filter fun h => Nat.ble s.bp (h.2 + 32768) } }
  let s := writeMinMax (applyBackground (freshLimits (takeRwo s)))
  let s := orbitStamp (judgeStep (compareNow s))
  let s := beginIntervals (streamTurn s)
  let s := if s.mode = .stream then openLedger s else s
  let s := refreshStale run (settleDiscs true (applyTdc s))
  let s := overList ((List.range 24).filter s.hasPort) saveEq s
  raiseEv (.all .orbit) (countReturns (countArm (ledOrbit s)))

/-- ORBIT in BCID 0 confirms the count; elsewhere it starts a new orbit in its BP (R407). One that arrives only on the side that
is not the PLL reference does not act (R406). DEDUCED (logs 23, 59). -/
def execOrbit (side : Side) (s : State) : Host.Outcome State Fault Refusal :=
  .next (if s.coreOn && s.clk.ref == some side then
      if s.bcid = 0 then { s with orbSeen := true }
      else scheduleLeds (beginOrbit (s.orbit + 1) (raiseFlag 0xB645 3 { s with orbSeen := true }))
    else s)

/-- RESYNC acts outside STREAM: it starts an orbit as ORBIT does, and that orbit is numbered 0 (R408).
DEDUCED (logs 23, 59). -/
def execResync (side : Side) (s : State) : Host.Outcome State Fault Refusal :=
  .next (if s.coreOn && s.clk.ref == some side then
      if s.mode = .stream then raiseFlag 0xB645 1 s
      else if s.bcid = 0 then F.TIM_ORBSTAMP4_ORBIT.wr 0 { s with orbit := 0, orbSeen := true }
      else scheduleLeds (beginOrbit 0 (raiseFlag 0xB645 3 { s with orbSeen := true }))
    else s)

/-- BP from now to the wrap of the BCID count. DEDUCED (log 22). -/
def State.toWrap (s : State) : Nat := Nat.max 1 (s.orbStart + s.nb - s.bp)

/-- The BCID count wraps and a new orbit starts (R407). BP of the orbit that the command finds still to come pass without any
other command, and what waits for a BP boundary takes place at the first of them; where the core clock ends there, no orbit starts.
DEDUCED (log 22). -/
def execOrbitStart (s : State) : Host.Outcome State Fault Refusal :=
  .next (if s.coreOn then
      let t := if 1 < s.toWrap then nextBp s else s
      if t.coreOn then
        let n := t.toWrap
        let u := passTime n t
        { noteSets s (atBoundary n (beginOrbit (u.orbit + 1) { u with orbSeen := false })) with cycle0 := true }
      else t
    else s)

end Sys2Proof.Machine
end

