-- ==== Sys2Proof/Machine/Views.lean ====
section
/-!
DEFINITION. Sys2Proof/Machine/Views.lean: what a read of a word of the field space returns and clears (R14, R82, R168 to
R170, R442, R536 to R547). Most words are held in `regs`; the words here show what other parts of the state hold.
-/
namespace Sys2Proof.Machine

/-! ### Capabilities and fuses -/

/-- The fuse shadows (Table 20-4): bits that hold no fuse read as zero. -/
def State.viewFus (s : State) (a : Nat) : Word :=
  let off := a - 0x100
  s.shadowWord off &&& (if off = 0 then 0x3FF else if off < 8 then 0xFFFFFFFF else w32 (fuseMask off))

/-- The capability fields (Tables 20-2 and 20-3). DESIGN CHOICE (log 77). -/
def State.viewCap (s : State) (a : Nat) : Word :=
  if a = 0 then w32 s.variant
  else if a = 1 then w32 (0x74240000 + (s.shadowWord 0).toNat % 256 * 256)
  else if a = 2 then (if s.isSmall then 0x753 else if s.isB then 0x4FF else 0x7FF)
  else if a = 3 then (if s.isSmall then 0x143C3F else 0xFFFFFF)
  else if 4 ≤ a ∧ a ≤ 11 then (if s.isSmall ∧ 8 ≤ a then 0 else 0xFFFFFFFF)
  else if a = 12 then s.shadowWord 1
  else if a = 13 then s.shadowWord 2
  else s.word a

/-! ### Reset, clock and power -/

/-- `RST.STATUS`, `RST.BUSY` and `RST.STALE` (Tables 3-10 to 3-12). -/
def State.viewRst (s : State) (a : Nat) : Word :=
  let w := s.word a
  if a = F.RST_STATUS_STEP.addr then F.RST_STATUS_MCALOK.into (b2n s.monOk) (F.RST_STATUS_ADCCAL.into (b2n s.adcOk) w)
  else if a = F.RST_BUSY_BLOCK.addr then w32 (bitsOf ((List.range 29).map s.restarting))
  else if a = F.RST_STALE_BLOCK.addr then
    F.RST_STALE_SIDEQ.into (match s.sid.ret.q with | some r => b2n r.snapPend | none => 0) w
  else w

/-- `CLK.STATUS`, `CLK.SETCODE` and `CLK.PHDIFF` (Tables 2-5, 2-6 and 2-9). -/
def State.viewClk (s : State) (a : Nat) : Word :=
  let c := s.clk
  if a = F.CLK_STATUS_CDR0.addr then
    let ref := match c.ref with | none => 0 | some .k => 1 | some .q => 2
    w32 (bitsOf [c.locked.k, c.locked.q, c.act.k, c.act.q, c.settled, c.pllLock] + 64 * ref + 256 * b2n c.holdover + 512 * b2n c.slew)
  else if a = F.CLK_SETCODE_CODE.addr then w32 s.pins.setcode.toNat
  else if a = F.CLK_PHDIFF_VALID.addr then F.CLK_PHDIFF_VALID.into (b2n (c.locked.k && c.locked.q)) (s.word a)
  else s.word a

/-- The channels whose enable is in effect. -/
def State.enabledCount (s : State) : Nat := (s.chans.filter s.enabled).length

/-- The words of `PWR` that show modes, groups, budgets and admission (Tables 4-6, 4-7 and 5-9). DEDUCED (log 64). -/
def State.viewPwr (s : State) (a : Nat) : Word :=
  if a = F.PWR_MODE_MODE.addr then
    w32 (s.mode.code + 16 * (match s.target with | some m => m.code | none => 0) + 256 * b2n s.target.isSome + 512 * b2n s.degraded)
  else if a = F.PWR_GSTATE_STATE.addr then w32 (((List.range 11).map fun n => (s.group n).st.code * 4 ^ n).sum)
  else if a = F.PWR_BUCKET_EU.addr then w32 (s.bucket / 256)
  else if a = F.PWR_BUCKETF_FRAC.addr then w32 (s.bucket % 256)
  else if a = F.PWR_GOV_SCALE.addr then w32 (wrapTo 16 (s.hottest.getD 0) * 65536 + s.heatScale)
  else if a = F.PWR_DEBT_EU.addr then w32 (ceilDiv s.debt 256)
  else if a = F.PWR_RESV_EU.addr then w32 s.reserved
  else if a = F.PWR_ADMSUM_SUM.addr then w32 (((List.range 4).map fun i => (F.PWR_DECL_RATE i).rd s).sum)
  else if a = F.PWR_ADMCAP_CAP.addr then w32 (s.admCap (F.PWR_ADM_STD.rd s))
  else if a = F.PWR_SMIN_RATE.addr then w32 (sMin s.enabledCount s.nb)
  else s.word a

/-! ### Squares -/

/-- The flags as `SEQ.PCF` shows them, F, V, C, N, Z from bit 20 down (Table 5-7). -/
def Square.flagBits (q : Square) : Nat := bitsOf [q.z, q.n, q.c, q.v, q.f]

/-- The state code that a square shows to the square `by_`, which is RUNNING itself (R125, Table 5-7). -/
def State.shownState (s : State) (by_ i : Nat) : Nat :=
  if i = by_ then SqState.running.code
  else if i = 0 then
    (if s.a1.running.isSome then SqState.running.code
     else if s.a1.queue.isEmpty then SqState.waitEvent.code else SqState.ready.code)
  else (s.square i).state.code

/-- The words of the squares (Tables 5-7 and 5-8). -/
def State.viewSeq (s : State) (by_ a : Nat) : Word :=
  let i := (a - 0x800) / 32
  let o := (a - 0x800) % 32
  let q := s.square i
  if o < 16 then s.reg i (BitVec.ofNat 4 o)
  else if o = 16 then w32 ((if i = 0 then 7 else q.prio.toNat) * 256 + q.cls.toNat * 16 + s.shownState by_ i)
  else if o = 17 then w32 (q.depth.toNat * 2 ^ 24 + q.flagBits * 2 ^ 16 + q.pc.toNat)
  else if o = 29 then q.issued
  else if i = 0 then
    (if o = 18 then w32 s.a1.queue.length
     else if o = 19 then w32 (((List.range 64).drop 1).filter fun t => (s.square t).state == .free).length
     else s.word a)
  else if o < 22 then w32 (q.stackAt (o - 18)).toNat
  else if o = 22 then w32 q.evmask.toNat
  else if o = 23 then w32 q.evpend.toNat
  else if o = 24 then w32 q.timer.toNat
  else if o = 25 then w32 (b2n q.bunchEn * 2 ^ 13 + q.bunch.toNat)
  else if o = 26 then w32 q.tevg.toNat
  else if o = 27 then w32 (q.faultPc.toNat * 2 ^ 16 + q.faultCause.toNat)
  else if o = 28 then w32 q.evovr.toNat
  else 0

/-! ### Sides and time -/

/-- `SID.CLAIM`, `SID.HOLD` and `SID.WIN` (Table 14-10). DEDUCED (log 64). -/
def State.viewSid (s : State) (a : Nat) : Word :=
  let d := s.sid
  let count := fun (r : Option Ret) => match r with | some r => Nat.min r.count 255 | none => 0
  let snap := fun (r : Option Ret) => match r with | some r => r.snapPend | none => false
  if a = F.SID_CLAIM_CTRL.addr then
    w32 (packBits [(4, s.rating .q), (4, s.rating .k), (4, d.live.q.toNat), (4, d.live.k.toNat), (1, s.controlling.code),
      (1, b2n (s.returning .q)), (1, b2n (s.returning .k)), (1, b2n (snap d.ret.q)), (1, b2n (snap d.ret.k)),
      (1, b2n d.healthy.q), (1, b2n d.healthy.k), (9, 0)])
  else if a = F.SID_HOLD_COUNTK.addr then w32 (count d.ret.q * 256 + count d.ret.k)
  else if a = F.SID_WIN_FILL.addr then F.SID_WIN_FILL.into d.window.length (s.word a)
  else s.word a

/-- `TIM.INC`, `TIM.NOWNS`, `TIM.STEPCTL` and `TIM.RXCTL` (Table 15-2); a pending increment reads as written (R163). -/
def State.viewTim (s : State) (a : Nat) : Word :=
  if a = F.TIM_INC_INC.addr then s.tim.incNew.getD (s.word a)
  else if a = F.TIM_NOWNS_NS.addr then w32 s.tim.now.ns
  else if a = F.TIM_STEPCTL_PEND.addr then F.TIM_STEPCTL_PEND.into (b2n s.tim.step.isSome) (s.word a)
  else if a = F.TIM_RXCTL_COUNT.addr then
    F.TIM_RXCTL_COUNT.into ((List.range 8).filter fun i => (F.TIM_SLOTST_VALID i).is s).length (s.word a)
  else s.word a

/-! ### Faults and gaps -/

/-- One bit per unit: any sticky flag of the unit is set (R532). DEDUCED (logs 28, 64). -/
def State.summary (s : State) : List Bool :=
  let any := fun (l : List Nat) => l.any fun a => !(s.word a == 0)
  let ports := (List.range 24).flatMap fun p => [0xB005 + 64 * p, 0xB021 + 64 * p]
  [any [0x10], any [0x302], any [0x205], any [0x40D, 0x430], any [0x814], any [0x1004], any [0x140C], any [0x1802, 0x1F09],
    s.chans.any s.quar, false, any [0x4802], any [0x5038], any [0x9031], any [0xA00A], any [0xA806],
    any (0xB645 :: (ports ++ (List.range 4).map fun g => 0xB602 + 16 * g)), any [0xC003], any [0xD008], false]

/-- The analog lane as `ERR.GAPSTAT` shows it (Table 16-6). -/
def Lane.code : Lane → Nat
  | .idle => 0
  | .led _ | .quiet => 1
  | .adc .. => 2
  | .waiting => 3

/-- `ERR.SUMMARY`, `ERR.GAPSTAT` and `ERR.DUE` (Tables 16-6 and 19-7). -/
def State.viewErr (s : State) (a : Nat) : Word :=
  if a = F.ERR_SUMMARY_UNITS.addr then w32 (bitsOf s.summary)
  else if a = F.ERR_GAPSTAT_LANE.addr then F.ERR_GAPSTAT_LANE.into s.gap.lane.code (s.word a)
  else if a = F.ERR_DUE_COUNT.addr then F.ERR_DUE_COUNT.into (s.chans.filter s.due).length (s.word a)
  else s.word a

/-! ### Slices, acquisition and the buffer -/

/-- `AFE.STAT` shows the discriminator at the last BP boundary (Table 7-5). -/
def State.viewAfe (s : State) (a : Nat) : Word :=
  let c := (a - 0x2000) / 16
  if a % 16 = 5 then (F.AFE_STAT_LEVEL c).into (b2n (!((s.slice c).highRun == 0))) (s.word a) else s.word a

/-- `FLT.TEVCFG` and `FLT.OUT` show the detector (R289, Table 10-9). -/
def State.viewFlt (s : State) (a : Nat) : Word :=
  let c := (a - 0x5000) / 64
  let o := (a - 0x5000) % 64
  if o = 0x11 then (F.FLT_TEVCFG_ABOVE c).into (b2n ((s.slice c).above && (s.slice c).stops.isEmpty)) (s.word a)
  else if o = 0x14 then (F.FLT_OUT_BLANK c).into (b2n ((s.slice c).blank || (s.slice c).fltNew.isSome || !(s.slice c).stops.isEmpty)) (s.word a)
  else s.word a

/-- `ACQ.CAPSTAT` shows the capture (Table 11-14). DEDUCED (log 64). -/
def State.viewAcq (s : State) (a : Nat) : Word :=
  if a = F.ACQ_CAPSTAT_ARMED.addr then
    let st := s.cap.st
    F.ACQ_CAPSTAT_ARMED.into (b2n (st == .armed || st == .waitRel))
      (F.ACQ_CAPSTAT_WAITREL.into (b2n (st == .waitRel)) (F.ACQ_CAPSTAT_SENDING.into (b2n s.capPackets) (s.word a)))
  else s.word a

/-- `BUF.SIDE`, `BUF.QFILL` and `BUF.FREE` (Table 12-6). -/
def State.viewBuf (s : State) (a : Nat) : Word :=
  if a = F.BUF_SIDE_DEAD.addr then w32 (bitsOf [s.dead .k, s.dead .q])
  else if a = 0xA005 then w32 (s.fill .h)
  else if a = 0xA006 then w32 (s.fill .w)
  else if a = 0xA007 then w32 (s.fill .s)
  else if a = 0xA008 then w32 (s.fill .m)
  else if a = F.BUF_FREE_PAGES.addr then w32 (s.freeDesc * 65536 + s.freePages)
  else s.word a

/-- `CMP.STAT` (Table 12-7). -/
def State.viewCmp (s : State) (a : Nat) : Word :=
  if a = F.CMP_STAT_ENGQ.addr then
    let busy := bitsOf ((List.range 8).map fun e => s.jobs.any fun j => j.1 == e)
    F.CMP_STAT_BUSY.into busy (F.CMP_STAT_QUEUED.into (s.packets.filter fun p => p.st == .queued).length (s.word a))
  else s.word a

/-! ### Ports, monitor, lamps and triggers -/

/-- `LNK.PSTAT` of a port (Table 13-9). DEDUCED (log 64). -/
def State.viewPstat (s : State) (p : Nat) : Word :=
  let w := s.word (F.LNK_PSTAT_LOCKED p).addr
  let w := (F.LNK_PSTAT_INSERV p).into (b2n (s.inService p)) ((F.LNK_PSTAT_LOOPACT p).into (b2n (s.loopOn p)) w)
  let w := (F.LNK_PSTAT_MEMBER p).into (b2n (isData p && s.laneMember p)) w
  if p < 2 then
    let l := b2n (if p = 0 then s.clk.locked.k else s.clk.locked.q)
    (F.LNK_PSTAT_LOCKED p).into l ((F.LNK_PSTAT_CDR p).into l w)
  else w

/-- The words of `LNK` (Tables 13-9, 13-10 and 14-12). -/
def State.viewLnk (s : State) (a : Nat) : Word :=
  if a < 0xB600 then (if (a - 0xB000) % 64 = 1 then s.viewPstat ((a - 0xB000) / 64) else s.word a)
  else if a < 0xB640 then
    (if a % 16 = 1 then
      let g := (a - 0xB600) / 16
      (F.LNK_LGSTAT_FAILED g).into (bitsOf ((groupPorts g).map fun p => (F.LNK_PSTAT_FAILED p).is s)) (s.word a)
     else s.word a)
  else if a = F.LNK_ORBIT_NB.addr then F.LNK_ORBIT_BCID.into s.bcid (s.word a)
  else if a = F.LNK_ORBNUM_ORBIT.addr then s.orbit
  else if a = F.LNK_GAP_INGAP.addr then F.LNK_GAP_INGAP.into (b2n s.gap.inGap) (s.word a)
  else if a = F.LNK_SEQ_NEXT.addr then s.seq
  else s.word a

/-- `MON.STAT` and `MON.CALSTAMP` (Table 17-7). -/
def State.viewMon (s : State) (a : Nat) : Word :=
  if a = F.MON_STAT_CUR.addr then
    let m := s.mon
    let w := F.MON_STAT_CALBUSY.into (b2n m.cal.isSome) (F.MON_STAT_INJ.into (b2n m.inj.isSome) (s.word a))
    let w := F.MON_STAT_INJPEND.into (b2n m.injPend) (F.MON_STAT_WAITBUD.into (b2n (s.hwreqs.any fun r => r.work == .mon)) w)
    F.MON_STAT_CUR.into (match m.cur with | some r => r.entry | none => 0) w
  else if a = F.MON_CALSTAMP_VALID.addr then F.MON_CALSTAMP_VALID.into (b2n s.monValid) (s.word a)
  else s.word a

/-- `LED.TSTAT`, `LED.QSTAT` and `LED.QCOL` (Table 18-3); a charge is shown in whole pC. DEDUCED (log 53). -/
def State.viewLed (s : State) (a : Nat) : Word :=
  if a = F.LED_TSTAT_SCALE.addr then F.LED_TSTAT_SCALE.into s.ledScale (s.word a)
  else if a = F.LED_QSTAT_FILLED.addr then
    let filled := (List.range 8).map fun i => (s.led.slot i).isSome
    w32 (b2n (s.led.rowOn || (s.led.blanking && Config.freeBit s.free)) * 2 ^ 19 + s.led.row % 8 * 2 ^ 16 + (filled.filter fun b => !b).length * 256 + bitsOf filled)
  else if 0xD020 ≤ a ∧ a ≤ 0xD02F then w32 (sget (fun _ => 0) s.led.charge (a - 0xD020) / 34)
  else s.word a

/-- `TRG.TBSTAT` (Table 11-15). -/
def State.viewTrg (s : State) (a : Nat) : Word :=
  if a = F.TRG_TBSTAT_LEVEL.addr then
    w32 (bitsOf (((List.range 4).map fun n => (s.line n).level) ++ (List.range 4).map fun n => (s.line n).align || (s.line n).alignDue.isSome))
  else s.word a

/-! ### Reads -/

/-- The value of a present word of the field space below the windows, as the square `by_` reads it. -/
def State.view (s : State) (by_ a : Nat) : Word :=
  if a < 0x100 then s.viewCap a
  else if a < 0x200 then s.viewFus a
  else if a < 0x300 then s.viewRst a
  else if a < 0x400 then s.viewClk a
  else if a < 0x800 then s.viewPwr a
  else if a < 0x1000 then s.viewSeq by_ a
  else if a < 0x1400 then s.viewSid a
  else if a < 0x1800 then s.viewTim a
  else if a < 0x2000 then s.viewErr a
  else if a < 0x3000 then s.viewAfe a
  else if a < 0x5000 then s.word a
  else if a < 0x9000 then s.viewFlt a
  else if a < 0xA000 then s.viewAcq a
  else if a < 0xA800 then s.viewBuf a
  else if a < 0xB000 then s.viewCmp a
  else if a < 0xC000 then s.viewLnk a
  else if a < 0xD000 then s.viewMon a
  else if a < 0xE000 then s.viewLed a
  else s.viewTrg a

/-- Bits of present words that stand for channels, ports or groups the part lacks (R540). DEDUCED (log 64). -/
def State.missingBits (s : State) (a : Nat) : Word :=
  if s.isSmall then
    (if 0x820 ≤ a ∧ a < 0x1000 ∧ a % 32 = 26 then 0xFF00
     else if a = F.TIM_RXEN_PORTS.addr then 0xC
     else if a = F.LNK_TCFWD_PATHS.addr then 0xF
     else if 0x5034 ≤ a ∧ a ≤ 0x5037 then 0xFFFFFFFF
     else if a = F.TRG_TFRAME_PORT1.addr then 0xFFF000 else 0)
  else 0

/-- An access to an absent word (R6, R540). -/
def touchAbsent (a : Nat) (s : State) : State := raiseFlag F.CAP_ABSENT_FLAG.addr 0 (s.setWord F.CAP_ABSADDR_ADDR.addr (w32 a))

/-- A present word that holds a field. -/
def isField (a : Nat) : Bool := (wordRow a).isSome

/-- What a read clears: the RC fields of its word (R538). -/
def clearRc (a : Nat) (s : State) : State :=
  match wordRow a with
  | some r => if r.rc = 0 then s else s.setWord a (s.word a &&& ~~~r.rc)
  | none => s

/-- A read of the field space by the square `by_` (R6, R14, R169, R170, R442, R538, R546, R547). -/
def readField (by_ a : Nat) (s : State) : Word × State :=
  if 0x14000 ≤ a then
    (if s.scratchBad.contains (a - 0x14000) then (0, foundBad 3 (a - 0x14000) s) else (Memory.read s.scratch (a - 0x14000), s))
  else if 0x10000 ≤ a then
    (if s.progBad.contains (a - 0x10000) then (0, foundBadProg (a - 0x10000) s) else (Memory.read s.prog (a - 0x10000), s))
  else if s.absentWord a then (0, touchAbsent a s)
  else if isField a then
    (s.view by_ a &&& ~~~s.missingBits a, clearRc a (if a = F.TIM_NOWNS_NS.addr then latchNow s else s))
  else (0, s)

end Sys2Proof.Machine
end

