-- ==== Sys2Proof/Machine/Access.lean ====
section
/-!
DEFINITION. Sys2Proof/Machine/Access.lean: writes of the field space with what they set off, the field instructions (R168 to
R172), and the commands that are a write or a read of one field (R14 to R18, R128, R171, R536 to R547).
-/
namespace Sys2Proof.Machine

/-! ### Values that a field takes -/

/-- A field of a written word, held between two values. DEDUCED (log 10). -/
def Fld.between (f : Fld) (lo hi : Nat) (w : Word) : Word := f.into (Nat.max lo (Nat.min (f.of w) hi)) w

/-- The written word with each field as it is taken: values out of range stand for others (the field tables of chapters 3, 8,
11 to 14, 17 and 18; R235, R309). DEDUCED (log 10). -/
def taken (a : Nat) (w : Word) : Word :=
  if a = F.RST_QTIMEOUT_BP.addr then F.RST_QTIMEOUT_BP.between 16 4096 w
  else if a = F.SID_CFG_HOLDOFF.addr then F.SID_CFG_HOLDOFF.between 1 255 w
  else if isAdcCfg a then
    let w := (F.ADC_CFG_LEVEL ((a - 0x3000) / 16)).between 0x800 0x3FFF w
    if a = 0x3000 then F.ADC_CFG0_TRIG.between 2 32 w else w
  else if a = F.ACQ_HWIN_LEN.addr then F.ACQ_HWIN_LEN.between 1 16 w
  else if a = F.ACQ_HUBID_ID.addr then (if F.ACQ_HUBID_ID.of w = 0xFFF then F.ACQ_HUBID_ID.into 0 w else w)
  else if a = F.ACQ_WWIN_POST.addr then F.ACQ_WWIN_POST.between 1 448 (F.ACQ_WWIN_PRE.between 0 64 w)
  else if a = F.ACQ_METER_DEPTH.addr then F.ACQ_METER_FLUSH.between 1 0xFFFF (F.ACQ_METER_DEPTH.between 64 0xFFFF w)
  else if a = F.ACQ_CAPCFG_AREA.addr then F.ACQ_CAPCFG_AREA.between 1 8 w
  else if a = F.BUF_CFG_CUT.addr then F.BUF_CFG_CUT.between 0 32 w
  else if a = F.BUF_QRES_S.addr then F.BUF_QRES_S.between 0 8192 (F.BUF_QRES_M.between 0 8192 w)
  else if a = F.CMP_CFG_B.addr then F.CMP_CFG_B.between 8 16 w
  else if a = F.LNK_ORBIT_NB.addr then F.LNK_ORBIT_NB.between 512 8192 w
  else if 0xB000 ≤ a ∧ a < 0xB600 then
    let p := (a - 0xB000) / 64
    let o := (a - 0xB000) % 64
    if o = 0xB then (F.LNK_LOSSBP_BP p).between 1 0xFFFF w
    else if o = 0 then
      let w := if 3 < (F.LNK_PCFG_LOOP p).of w then (F.LNK_PCFG_LOOP p).into 0 w else w
      if p < 2 then (F.LNK_PCFG_EN p).into 1 w else w
    else w
  else if a = F.MON_CTL_LEN.addr then F.MON_CTL_LEN.between 0 32 (F.MON_CTL_ILEN.between 0 8 w)
  else if 0xC100 ≤ a ∧ a < 0xC380 then
    (if a % 16 = 1 then (F.MON_CONV_NCONV ((a - 0xC100) / 16)).between 1 255 w else w)
  else if a = F.LED_CFG_BLANK.addr then F.LED_CFG_BLANK.between 1 255 w
  else if 0xE100 ≤ a ∧ a < 0xE110 then (F.TRG_TCFG_SHIFT (a - 0xE100)).between 0 10 w
  else if 0xE824 ≤ a ∧ a < 0xE828 then (F.TRG_TBDRV_WIDTH (a - 0xE824)).between 1 15 w
  else w

/-! ### A write by the access codes -/

/-- The flags of a word that the hub has set in this core cycle: a set wins over a clear (R16). DEDUCED (log 62). -/
def State.setMask (s : State) (a : Nat) : Word := sget (fun _ => 0) s.setNow a

/-- Each field of a word takes a write under its own access code (R14, R16, R18, R537). DEDUCED (log 10). -/
def writeByCode (a : Nat) (v : Word) (s : State) : State :=
  match wordRow a with
  | some r =>
    let v := taken a v &&& ~~~s.missingBits a
    let s := s.setWord a (((s.word a &&& ~~~r.rw) ||| (v &&& r.rw)) &&& ~~~(v &&& r.w1c &&& ~~~s.setMask a))
    if r.rwo = 0 then s
    else { s with rwo := sput (fun _ => none) a (some v) s.rwo, admDirty := s.admDirty || isDecl a || isAdcCfg a }
  | none => s

/-! ### Squares -/

/-- A square's registers, PC, flags and stack may be written by another (R128). -/
def Square.still (q : Square) : Bool := q.state == .free || q.state == .halted || q.state == .faulted

/-- A write under R128 by the square `by_`: ignored, with BUSYWR, while the square is neither FREE, HALTED nor FAULTED. A
program square is not another square to itself. DEDUCED (log 11). -/
def guardedWrite (by_ i : Nat) (f : Square → Square) (s : State) : State :=
  if (!(i == 0) && (by_ == i || (s.square i).still)) then s.modSquare i f else raiseFlag F.SEQ_STICKY_BUSYWR.addr 1 s

/-- The flags that a write of `SEQ.PCF` gives. DESIGN CHOICE (log 77). -/
def Square.withPcf (q : Square) (v : Word) : Square :=
  { q with depth := BitVec.ofNat 3 (Nat.min (v.toNat / 2 ^ 24 % 8) 4), pc := v.truncate 14, z := natBit v.toNat 16,
           n := natBit v.toNat 17, c := natBit v.toNat 18, v := natBit v.toNat 19, f := natBit v.toNat 20 }

/-- A write of a word of a square (R128, R133, Tables 5-7 and 5-8). -/
def writeSeq (by_ a : Nat) (value : Word) (s : State) : State :=
  let v := value &&& ~~~s.missingBits a
  let i := (a - 0x800) / 32
  let o := (a - 0x800) % 32
  if o = 0 then s
  else if o < 16 then guardedWrite by_ i (fun q => { q with g := sput (fun _ => 0) o v q.g }) s
  else if o = 16 then
    s.modSquare i fun q => { q with prio := if i = 0 then q.prio else BitVec.ofNat 3 (v.toNat / 256), cls := BitVec.ofNat 2 (v.toNat / 16) }
  else if o = 17 then guardedWrite by_ i (fun q => q.withPcf v) s
  else if i = 0 then writeByCode a v s
  else if o < 22 then guardedWrite by_ i (fun q => q.setStack (o - 18) (v.truncate 14)) s
  else if o = 22 then s.modSquare i fun q => { q with evmask := v.truncate 13 }
  else if o = 23 then s.modSquare i fun q => { q with evpend := q.evpend &&& ~~~(v.truncate 13) }
  else if o = 24 then s.modSquare i fun q => { q with timer := v.truncate 24 }
  else if o = 25 then s.modSquare i fun q => { q with bunchEn := natBit v.toNat 13, bunch := v.truncate 13 }
  else if o = 26 then s.modSquare i fun q => { q with tevg := v.truncate 16 }
  else s

/-! ### What writes set off -/

/-- `AFE.STAT`: a 1 in QUAR ends the quarantine, and a 1 in QREQ begins one (R212 to R215). DEDUCED (log 66). -/
def writeAfeStat (c : Nat) (v : Word) (s : State) : State :=
  let s := if natBit v.toNat 3 then endQuarantine c s else s
  if natBit v.toNat 4 then quarantine c 1 s else s

/-- `TDC.TBCAPn`: arming clears VALID (R276). -/
def writeTbcap (n : Nat) (v : Word) (s : State) : State :=
  let a := (F.TDC_TBCAP_ARM n).addr
  let s := writeByCode a v s
  if natBit v.toNat 31 then (F.TDC_TBCAP_VALID n).wr 0 s else s

/-- Only a write of 1 to PMVALID has an effect (R82). -/
def setPmvalid (s : State) : State := F.RST_STATUS_PMVALID.wr 1 s

/-- `CMP.STAT`: a 1 written to the bit of a quarantined engine returns it to service, and its block is a
returning unit (R90, R366, Table 19-3). -/
def writeEngq (v : Word) (s : State) : State :=
  let f := fun (e : Nat) => Fld.mk F.CMP_STAT_ENGQ.addr (24 + e) (24 + e)
  overList (below 8 fun e => natBit v.toNat (24 + e) && (f e).is s) (fun e s => eventReport 7 e 0 (returned 22 ((f e).wr 0 s))) s

/-- `MON.CTL`: RUN starts and stops the regular sequence (R490). -/
def writeMonCtl (v : Word) (s : State) : State :=
  let a := F.MON_CTL_RUN.addr
  monRun (natBit v.toNat 31) (writeByCode a (F.MON_CTL_RUN.into (b2n (F.MON_CTL_RUN.is s)) v) s)

/-- A word of a monitor entry: a change restarts its comparator IN (R486). -/
def writeEntry (a : Nat) (v : Word) (s : State) : State :=
  let t := writeByCode a v s
  if t.word a == s.word a then t else (F.MON_CMP_OUT ((a - 0xC100) / 16)).wr 0 t

/-- `LED.CTL`: EN = 0 ends every pulse at once, and FLUSH empties the queue (R504, R512). -/
def writeLedCtl (v : Word) (s : State) : State :=
  let s := writeByCode F.LED_CTL_EN.addr v s
  let s := if F.LED_CTL_EN.is s then nextRow s else ledKill s
  if natBit v.toNat 31 then flushLed s else s

/-- A reference pulse is asked of a line's driver (R330). -/
def askAlign (n : Nat) (s : State) : State := modLine n (fun x => { x with align := true }) s

/-- `LNK.PCFG` of a port: EN turns it off and on (R397, Table 13-9). -/
def writePcfg (p : Nat) (v : Word) (s : State) : State :=
  let was := (F.LNK_PCFG_EN p).is s
  let s := writeByCode (F.LNK_PCFG_EN p).addr v s
  if was && !((F.LNK_PCFG_EN p).is s) then portOff p s
  else if !was && (F.LNK_PCFG_EN p).is s then portOn p s else s

/-- `TIM.TXCTL`: PORT and LEN are written, and a 1 in SEND sends (R452). -/
def writeTxctl (v : Word) (s : State) : State :=
  let s := writeByCode F.TIM_TXCTL_SEND.addr v s
  if natBit v.toNat 31 then sendTim s else s

/-- The words of the units CAP to ERR. DEDUCED (log 66). -/
def writeLow (a : Nat) (v : Word) (s : State) : State :=
  if a = F.RST_STATUS_PMVALID.addr then (if natBit v.toNat 6 then setPmvalid s else s)
  else if 0x402 ≤ a ∧ a ≤ 0x40C then writeTolerance (a - 0x402) v.toNat s
  else if a = F.SID_CFG_BADMAX.addr then settled (fun s => judgeHealth .q (judgeHealth .k s)) (writeByCode a v s)
  else if a = F.TIM_CTL_UNSYNC.addr then (if natBit v.toNat 31 then askUnsync s else s)
  else if a = F.TIM_INC_INC.addr then modTim (fun t => { t with incNew := some v }) s
  else if a = F.TIM_STEPCTL_GO.addr then (if natBit v.toNat 0 then stepGo s else s)
  else if a = 0x1421 ∨ a = 0x1425 then armCompare ((a - 0x1420) / 4) (writeByCode a v s)
  else if a = F.TIM_TXCTL_SEND.addr then writeTxctl v s
  else writeByCode a v s

/-- The words of the units from AFE on. -/
def writeHigh (a : Nat) (v : Word) (s : State) : State :=
  if a < 0x3000 then
    let c := (a - 0x2000) / 16
    if a % 16 = 0 then settleDiscs false (writeByCode a v s) else if a % 16 = 5 then writeAfeStat c v s else writeByCode a v s
  else if 0x4810 ≤ a ∧ a < 0x4818 ∧ a % 2 = 0 then writeTbcap ((a - 0x4810) / 2) v s
  else if a = F.BUF_DEAD_BP.addr then refreshDead .q (refreshDead .k (writeByCode a v s))
  else if a = F.CMP_CFG_ENGEN.addr then storeQueued (writeByCode a v s)
  else if a = F.CMP_STAT_ENGQ.addr then writeEngq v s
  else if 0xB000 ≤ a ∧ a < 0xB600 ∧ a % 64 = 0 then writePcfg ((a - 0xB000) / 64) v s
  else if 0xB600 ≤ a ∧ a < 0xB640 ∧ a % 16 = 0 then writeLgcfg ((a - 0xB600) / 16) v s
  else if a = F.MON_CTL_RUN.addr then writeMonCtl v s
  else if a = F.MON_ILK_LED.addr then clearIlk v.toNat s
  else if 0xC100 ≤ a ∧ a < 0xC380 then writeEntry a v s
  else if a = F.LED_CTL_EN.addr then writeLedCtl v s
  else if 0xE800 ≤ a ∧ a < 0xE820 ∧ a % 8 < 2 then withOr ((a - 0xE800) / 8) s.nowBins (writeByCode a v) s
  else if 0xE824 ≤ a ∧ a < 0xE828 then
    let s := writeByCode a v s
    if natBit v.toNat 31 then askAlign (a - 0xE824) s else s
  else writeByCode a v s

/-- A write of the field space by the square `by_` (R6, R14, R128, R170, R537, R546, R547). DESIGN CHOICE (log 17). -/
def writeField (by_ a : Nat) (v : Word) (s : State) : State :=
  if 0x14000 ≤ a then s.scratchWrite (a - 0x14000) v
  else if 0x10000 ≤ a then s.progWrite (a - 0x10000) v
  else if s.absentWord a then touchAbsent a s
  else if isField a then
    (if 0x800 ≤ a ∧ a < 0x1000 then writeSeq by_ a v s else if a < 0x2000 then writeLow a v s else writeHigh a v s)
  else s

/-! ### The field instructions -/

/-- A word holds an output-stage field (R171). -/
def outputStage (a : Nat) : Bool :=
  (Nat.ble 0xD000 a && Nat.ble a 0xDFFF && isField a) || a == F.MON_CTL_EXCEN.addr || a == F.MON_ILK_EXC.addr ||
    (Nat.ble 0xC100 a && Nat.blt a 0xC380 && Nat.blt (a % 16) 2) || (Nat.ble 0xE824 a && Nat.blt a 0xE828) ||
    (Nat.ble 0xE800 a && Nat.blt a 0xE820 && a % 8 == 2) || (Nat.ble 0x2000 a && Nat.blt a 0x3000 && a % 16 == 1)

/-- `LDF` (R168, R169). -/
def execLdf (by_ : Issuer) (gd gi : Reg) (a : BitVec 18) (s : State) : Host.Outcome State Fault Refusal :=
  .next (issue by_ 0x1A true (fun s =>
    let i := by_.idx
    match effectiveAddr a.toNat (s.reg i gi).toNat with
    | none => refuse .range s
    | some e => let r := readField i e s; result i gd r.1 r.2) s)

/-- `STF` (R168, R170, R171, R423). A square that writes its own PC and flags goes on with what it wrote (R164).
DEDUCED (log 11). -/
def execStf (by_ : Issuer) (gs gi : Reg) (a : BitVec 18) (s : State) : Host.Outcome State Fault Refusal :=
  .next (issue by_ 0x1B true (fun s =>
    let i := by_.idx
    match effectiveAddr a.toNat (s.reg i gi).toNat with
    | none => refuse .range s
    | some e =>
      if outputStage e && !s.absentWord e && !s.claimOk by_ then refuse .claim s
      else
        let t := writeField i e (s.reg i gs) s
        if i ≠ 0 ∧ e = 0x811 + 32 * i then .stay t else .done 0 t) s)

/-- The words of the statistic block that begins at an address (R172, R207, R252, R253, R275, R301, R494, R519). -/
def blockWords (a : Nat) : Option Nat :=
  if 0x2000 ≤ a ∧ a < 0x3000 ∧ a % 16 = 8 then some 2
  else if 0x3000 ≤ a ∧ a < 0x4000 ∧ a % 16 = 6 then some 2
  else if 0x3000 ≤ a ∧ a < 0x4000 ∧ a % 16 = 8 then some 8
  else if 0x4000 ≤ a ∧ a < 0x4800 ∧ a % 8 = 6 then some 2
  else if 0x5000 ≤ a ∧ a < 0x9000 ∧ a % 64 = 0x15 then some 2
  else if 0xC100 ≤ a ∧ a < 0xC380 ∧ a % 16 = 8 then some 5
  else if a = F.LED_PSTAT0_FIRED.addr then some 4
  else none

/-- The block is the min/max block of a slice. -/
def isMinMax (a : Nat) : Bool := Nat.ble 0x3000 a && Nat.blt a 0x4000 && a % 16 == 6

/-- `TAKE` copies a statistic block to scratch memory and clears it (R172). A `TAKE` of a min/max block in the core cycle of its
write at an orbit start copies what it held before and leaves what was written (R253). -/
def takeBlock (a n dest : Nat) (s : State) : State :=
  if s.absentWord a then State.scratchFill dest (List.replicate n 0) (touchAbsent a s)
  else
    let words := (List.range n).map fun k => a + k
    if isMinMax a && s.bp == s.orbStart && s.cyc == 0 then State.scratchFill dest (words.map (s.wordAt (s.bp - 1))) s
    else
      let s := State.scratchFill dest (words.map s.word) (words.foldl (fun s x => s.setWord x (wordReset x)) s)
      if isMinMax a then s.modSlice ((a - 0x3000) / 16) fun x => { x with mmTaken := some s.orbStart } else s

/-- `TAKE` (R168, R172). -/
def execTake (by_ : Issuer) (gd gi : Reg) (a : BitVec 18) (s : State) : Host.Outcome State Fault Refusal :=
  .next (issue by_ 0x1C true (fun s =>
    let i := by_.idx
    match effectiveAddr a.toNat (s.reg i gi).toNat with
    | none => refuse .range s
    | some e =>
      match blockWords e with
      | none => refuse .range s
      | some n =>
        let dest := (s.reg i gd).toNat
        if 4096 < dest + n then refuse .range s else .done 0 (takeBlock e n dest s)) s)

/-! ### Commands that are one access -/

/-- A field access where fields can be accessed; elsewhere nothing happens. DEDUCED (log 9), DESIGN CHOICE (log 17). -/
def accessing (f : State → State) (s : State) : State := if s.accessible then f s else s

/-- A read of an RC field clears it (R14, R538). DESIGN CHOICE (log 17). -/
def execRcRead (a : BitVec 18) (s : State) : Host.Outcome State Fault Refusal :=
  .next (accessing (fun s => if a.toNat < 0x15000 then (readField 0 a.toNat s).2 else s) s)

/-- A write of a field (R14, R537), with what it sets off. DESIGN CHOICE (log 17). -/
def execFieldWrite (a : BitVec 18) (value : Word) (s : State) : Host.Outcome State Fault Refusal :=
  .next (accessing (fun s => if a.toNat < 0x15000 then writeField 0 a.toNat value s else s) s)

/-- Software quarantines a slice: a 1 written to QREQ (R213). -/
def execQuarantineRequest (c : Chan) (s : State) : Host.Outcome State Fault Refusal :=
  .next (accessing (writeField 0 (F.AFE_STAT_QREQ c).addr 0x10) s)

/-- A 1 written to QUAR ends a quarantine (R215). -/
def execQuarantineEnd (c : Chan) (s : State) : Host.Outcome State Fault Refusal :=
  .next (accessing (writeField 0 (F.AFE_STAT_QUAR c).addr 0x08) s)

/-- A write to `TDC.TBCAPn` (R276). -/
def execTbcapArmWrite (n : Fin 4) (value : Word) (s : State) : Host.Outcome State Fault Refusal :=
  .next (accessing (writeField 0 (F.TDC_TBCAP_ARM n).addr value) s)

/-- A 1 written to ALIGN of a line's driver (R330). -/
def execTbAlignWrite (n : Fin 4) (s : State) : Host.Outcome State Fault Refusal := .next (accessing (askAlign n) s)

/-- A write to `BUF.DEAD` (R346). -/
def execBufDeadWrite (value : Word) (s : State) : Host.Outcome State Fault Refusal :=
  .next (accessing (writeField 0 F.BUF_DEAD_BP.addr value) s)

/-- A 1 written to an engine's bit of ENGQ (R366). -/
def execEngineReturn (e : Fin 8) (s : State) : Host.Outcome State Fault Refusal :=
  .next (accessing (writeField 0 F.CMP_STAT_ENGQ.addr (w32 (2 ^ (24 + e.val)))) s)

/-- The word of `LNK.LGCFG` that keeps SINGLE and sets other bits. -/
def State.lgcfgWith (s : State) (g bits : Nat) : Word := w32 ((F.LNK_LGCFG_SINGLE g).rd s * 2 ^ 12 + bits)

/-- Software fails a lane: a 1 written to its DROP bit (R391). -/
def execLaneDrop (p : Port) (s : State) : Host.Outcome State Fault Refusal :=
  .next (accessing (fun s =>
    if isData p then
      writeField 0 (F.LNK_LGCFG_SINGLE (lgOf p)).addr (s.lgcfgWith (lgOf p) (2 ^ laneBit p)) s
    else s) s)

/-- Software asks a failed lane back: a 1 written to its REJOIN bit (R394). -/
def execLaneRejoinWrite (p : Port) (s : State) : Host.Outcome State Fault Refusal :=
  .next (accessing (fun s =>
    if isData p then
      writeField 0 (F.LNK_LGCFG_SINGLE (lgOf p)).addr (s.lgcfgWith (lgOf p) (2 ^ (4 + laneBit p))) s
    else s) s)

/-- A write of SINGLE of a lane group (R389). -/
def execSingleWrite (lg : Fin 4) (value : Bool) (s : State) : Host.Outcome State Fault Refusal :=
  .next (accessing (writeField 0 (F.LNK_LGCFG_SINGLE lg).addr (w32 (b2n value * 2 ^ 12))) s)

/-- A write of `TIM.TXCTL` with SEND (R452). -/
def execTimSend (value : Word) (s : State) : Host.Outcome State Fault Refusal :=
  .next (accessing (writeField 0 F.TIM_TXCTL_SEND.addr (F.TIM_TXCTL_SEND.into 1 value)) s)

/-- A 1 written to VALID frees a slot of the receive ring (R451). -/
def execTimSlotFree (n : Fin 8) (s : State) : Host.Outcome State Fault Refusal :=
  .next (accessing (writeField 0 (F.TIM_SLOTST_VALID n).addr 0x80000000) s)

/-- A write of `TIM.INC` takes effect at the next BP boundary (R441). -/
def execTimIncWrite (value : Word) (s : State) : Host.Outcome State Fault Refusal :=
  .next (accessing (writeField 0 F.TIM_INC_INC.addr value) s)

/-- A write of CNS arms a compare (R455). -/
def execCompareArm (n : Fin 2) (value : Word) (s : State) : Host.Outcome State Fault Refusal :=
  .next (accessing (writeField 0 (F.TIM_CMPNS_CNS n).addr value) s)

/-- A write of RUN (R490). -/
def execMonRunWrite (run : Bool) (s : State) : Host.Outcome State Fault Refusal := .next (accessing (monRun run) s)

/-- A write of `MON.ILK` (R487). -/
def execMonIlkClear (value : Word) (s : State) : Host.Outcome State Fault Refusal :=
  .next (accessing (writeField 0 F.MON_ILK_LED.addr value) s)

/-- A 1 written to FLUSH empties the LED queue (R504); on a part without the driver the access is absent (R6). -/
def execLedFlush (s : State) : Host.Outcome State Fault Refusal :=
  .next (accessing (fun s => if s.hasLed then flushLed s else touchAbsent F.LED_CTL_FLUSH.addr s) s)

/-- A 1 written to PMVALID ends a program load (R82). -/
def execPmvalidWrite (s : State) : Host.Outcome State Fault Refusal := .next (accessing setPmvalid s)

end Sys2Proof.Machine
end

