-- ==== Sys2Proof/Machine/Arith.lean ====
section
/-!
DEFINITION. Sys2Proof/Machine/Arith.lean: the register and immediate instructions and `NOP` (R166, R175, Table 6-3).
-/
namespace Sys2Proof.Machine

/-- An operation with a result: the flags are set and gd is written (R166). -/
def operate (i : Nat) (gd : Reg) (o : Alu) (s : State) : Outc := result i gd o.res (setFlags i o s)

/-- An operation whose result is discarded: the flags are set (R166). -/
def compare (i : Nat) (o : Alu) (s : State) : Outc := .done 0 (setFlags i o s)

/-- `NOP` only advances the PC (R175). -/
def execNop (by_ : Issuer) (s : State) : Host.Outcome State Fault Refusal :=
  .next (issue by_ 0x00 false (fun s => .done 0 s) s)

/-- `ADD`: gd := ga + gb (R166, Table 6-3). -/
def execAdd (by_ : Issuer) (gd ga gb : Reg) (s : State) : Host.Outcome State Fault Refusal :=
  .next (issue by_ 0x01 false (fun s =>
    let i := by_.idx
    operate i gd (aluAdd (s.reg i ga) (s.reg i gb)) s) s)

/-- `SUB`: gd := ga − gb (R166, Table 6-3). -/
def execSub (by_ : Issuer) (gd ga gb : Reg) (s : State) : Host.Outcome State Fault Refusal :=
  .next (issue by_ 0x02 false (fun s =>
    let i := by_.idx
    operate i gd (aluSub (s.reg i ga) (s.reg i gb)) s) s)

/-- `AND` (R166, Table 6-3). -/
def execAnd (by_ : Issuer) (gd ga gb : Reg) (s : State) : Host.Outcome State Fault Refusal :=
  .next (issue by_ 0x03 false (fun s =>
    let i := by_.idx
    operate i gd (aluKeep (s.reg i ga &&& s.reg i gb)) s) s)

/-- `OR` (R166, Table 6-3). -/
def execOr (by_ : Issuer) (gd ga gb : Reg) (s : State) : Host.Outcome State Fault Refusal :=
  .next (issue by_ 0x04 false (fun s =>
    let i := by_.idx
    operate i gd (aluKeep (s.reg i ga ||| s.reg i gb)) s) s)

/-- `XOR` (R166, Table 6-3). -/
def execXor (by_ : Issuer) (gd ga gb : Reg) (s : State) : Host.Outcome State Fault Refusal :=
  .next (issue by_ 0x05 false (fun s =>
    let i := by_.idx
    operate i gd (aluKeep (s.reg i ga ^^^ s.reg i gb)) s) s)

/-- `SHL` by the shift amount of R166 (Table 6-3). -/
def execShl (by_ : Issuer) (gd ga gb : Reg) (sub : BitVec 14) (s : State) : Host.Outcome State Fault Refusal :=
  .next (issue by_ 0x06 false (fun s =>
    let i := by_.idx
    operate i gd (aluShl (s.reg i ga) (s.shiftBy i gb sub)) s) s)

/-- `SHR` by the shift amount of R166 (Table 6-3). -/
def execShr (by_ : Issuer) (gd ga gb : Reg) (sub : BitVec 14) (s : State) : Host.Outcome State Fault Refusal :=
  .next (issue by_ 0x07 false (fun s =>
    let i := by_.idx
    operate i gd (aluShr (s.reg i ga) (s.shiftBy i gb sub)) s) s)

/-- `SAR` by the shift amount of R166 (Table 6-3). -/
def execSar (by_ : Issuer) (gd ga gb : Reg) (sub : BitVec 14) (s : State) : Host.Outcome State Fault Refusal :=
  .next (issue by_ 0x08 false (fun s =>
    let i := by_.idx
    operate i gd (aluSar (s.reg i ga) (s.shiftBy i gb sub)) s) s)

/-- `MUL`: the product of the sign-extended low halves (R166, Table 6-3). -/
def execMul (by_ : Issuer) (gd ga gb : Reg) (s : State) : Host.Outcome State Fault Refusal :=
  .next (issue by_ 0x09 false (fun s =>
    let i := by_.idx
    operate i gd (aluMul (s.reg i ga) (s.reg i gb)) s) s)

/-- `CMP`: ga − gb, result discarded (R166, Table 6-3). -/
def execCmp (by_ : Issuer) (ga gb : Reg) (s : State) : Host.Outcome State Fault Refusal :=
  .next (issue by_ 0x0A false (fun s =>
    let i := by_.idx
    compare i (aluSub (s.reg i ga) (s.reg i gb)) s) s)

/-- `MIN`, signed or unsigned (R166, Table 6-3). -/
def execMin (by_ : Issuer) (gd ga gb : Reg) (unsigned : Bool) (s : State) : Host.Outcome State Fault Refusal :=
  .next (issue by_ 0x0B false (fun s =>
    let i := by_.idx
    operate i gd (aluMin unsigned (s.reg i ga) (s.reg i gb)) s) s)

/-- `MAX`, signed or unsigned (R166, Table 6-3). -/
def execMax (by_ : Issuer) (gd ga gb : Reg) (unsigned : Bool) (s : State) : Host.Outcome State Fault Refusal :=
  .next (issue by_ 0x0C false (fun s =>
    let i := by_.idx
    operate i gd (aluMax unsigned (s.reg i ga) (s.reg i gb)) s) s)

/-- `ADDI`: gd := ga + sext(imm18) (R166, Table 6-3). -/
def execAddi (by_ : Issuer) (gd ga : Reg) (imm : BitVec 18) (s : State) : Host.Outcome State Fault Refusal :=
  .next (issue by_ 0x10 false (fun s =>
    let i := by_.idx
    operate i gd (aluAdd (s.reg i ga) (sext18 imm)) s) s)

/-- `ANDI`: gd := ga and zext(imm18) (R166, Table 6-3). -/
def execAndi (by_ : Issuer) (gd ga : Reg) (imm : BitVec 18) (s : State) : Host.Outcome State Fault Refusal :=
  .next (issue by_ 0x11 false (fun s =>
    let i := by_.idx
    operate i gd (aluKeep (s.reg i ga &&& zext18 imm)) s) s)

/-- `ORI`: gd := ga or zext(imm18) (R166, Table 6-3). -/
def execOri (by_ : Issuer) (gd ga : Reg) (imm : BitVec 18) (s : State) : Host.Outcome State Fault Refusal :=
  .next (issue by_ 0x12 false (fun s =>
    let i := by_.idx
    operate i gd (aluKeep (s.reg i ga ||| zext18 imm)) s) s)

/-- `MOVI`: gd := sext(imm18); flags unchanged (R166, Table 6-3). -/
def execMovi (by_ : Issuer) (gd : Reg) (imm : BitVec 18) (s : State) : Host.Outcome State Fault Refusal :=
  .next (issue by_ 0x13 false (fun s =>
    let i := by_.idx
    result i gd (sext18 imm) s) s)

/-- `MOVHI`: the upper 14 bits from imm18[13:0], the lower 18 from ga; flags unchanged (R166, Table 6-3). -/
def execMovhi (by_ : Issuer) (gd ga : Reg) (imm : BitVec 18) (s : State) : Host.Outcome State Fault Refusal :=
  .next (issue by_ 0x14 false (fun s =>
    let i := by_.idx
    result i gd (BitVec.ofNat 32 (imm.toNat % 2 ^ 14 * 2 ^ 18 + (s.reg i ga).toNat % 2 ^ 18)) s) s)

/-- `CMPI`: ga − sext(imm18), result discarded (R166, Table 6-3). -/
def execCmpi (by_ : Issuer) (ga : Reg) (imm : BitVec 18) (s : State) : Host.Outcome State Fault Refusal :=
  .next (issue by_ 0x15 false (fun s =>
    let i := by_.idx
    compare i (aluSub (s.reg i ga) (sext18 imm)) s) s)

end Sys2Proof.Machine
end

