-- ==== Sys2Proof/Machine/Tap.lean ====
section
/-!
DEFINITION. Sys2Proof/Machine/Tap.lean: the test access port of IEEE 1149.1 (R555) and the pin TESTEN (R556). The states and
their transitions are the standard's; codes, lengths and captured pin levels are not stated in the spec and stand free.
-/
namespace Sys2Proof.Machine

/-- The next state of the controller at a rising edge of TCK, by TMS. PRESUMED (log 20). -/
def TapState.next (tms : Bool) : TapState → TapState
  | .reset => if tms then .reset else .idle
  | .idle => if tms then .selDr else .idle
  | .selDr => if tms then .selIr else .capDr
  | .capDr => if tms then .ex1Dr else .shDr
  | .shDr => if tms then .ex1Dr else .shDr
  | .ex1Dr => if tms then .upDr else .paDr
  | .paDr => if tms then .ex2Dr else .paDr
  | .ex2Dr => if tms then .upDr else .shDr
  | .upDr => if tms then .selDr else .idle
  | .selIr => if tms then .reset else .capIr
  | .capIr => if tms then .ex1Ir else .shIr
  | .shIr => if tms then .ex1Ir else .shIr
  | .ex1Ir => if tms then .upIr else .paIr
  | .paIr => if tms then .ex2Ir else .paIr
  | .ex2Ir => if tms then .upIr else .shIr
  | .upIr => if tms then .selDr else .idle

/-- The instruction that an instruction register selects; all ones is BYPASS. PRESUMED (log 20). -/
def tapInst (ir : List Bool) : Nat :=
  if ir.all (fun b => b) then 0 else let n := Config.tapCode ir; if n < 4 then n else 0

/-- The instruction that acts: EXTEST acts as BYPASS unless TESTEN is high (R555). -/
def State.tapActs (s : State) : Nat := if s.tap.inst = 3 ∧ s.pins.testen = false then 0 else s.tap.inst

/-- The IDCODE register: its lowest bit is 1, and its part number is `CAP.ID.DEVICE` (R555). PRESUMED (log 20). -/
def tapIdcode : Nat := Nat.lor 1 (Nat.lor (0x7424 * 2 ^ 12) (Nat.land Config.tapIdRest.toNat 0xF0000FFE))

/-- Captured values that the spec does not state. -/
def State.freeBits (s : State) (n : Nat) : List Bool := (List.range n).map fun k => Config.freeBit (s.free + k)

/-- The data register that an instruction captures: BYPASS takes 0, IDCODE the identity, and the boundary register the levels
of the pins, which are the environment's. -/
def State.tapCapture (s : State) : List Bool :=
  match s.tapActs with
  | 1 => (List.range 32).map (natBit tapIdcode)
  | 2 | 3 => s.freeBits Config.tapCells
  | _ => [false]

/-- Shift a register one place towards its output. -/
def shiftIn (tdi : Bool) (l : List Bool) : List Bool := (l ++ [tdi]).drop 1

/-- What the state of the controller does at a rising edge of TCK. PRESUMED (log 20). -/
def tapAct (tdi : Bool) (s : State) : State :=
  let t := s.tap
  match t.st with
  | .capDr => State.drew Config.tapCells { s with tap := { t with dr := s.tapCapture } }
  | .shDr => { s with tap := { t with dr := shiftIn tdi t.dr } }
  | .capIr => State.drew Config.tapIrExtra { s with tap := { t with ir := true :: false :: s.freeBits Config.tapIrExtra } }
  | .shIr => { s with tap := { t with ir := shiftIn tdi t.ir } }
  | _ => s

/-- What follows at the falling edge after it: updates, the output TDO, and the instruction of the reset state.
PRESUMED (log 20). -/
def tapFall (s : State) : State :=
  let t := s.tap
  match t.st with
  | .shDr => { s with tap := { t with tdo := t.dr.head? } }
  | .shIr => { s with tap := { t with tdo := t.ir.head? } }
  | .upDr =>
    let l := if s.tapActs = 2 ∨ s.tapActs = 3 then t.dr else t.bsr
    { s with tap := { t with tdo := none, bsr := l } }
  | .upIr =>
    let n := tapInst t.ir
    { s with tap := { t with tdo := none, inst := n, drives := n == 3 && s.pins.testen } }
  | .reset => { s with tap := { t with tdo := none, inst := 1, drives := false } }
  | _ => { s with tap := { t with tdo := none } }

/-- A rising edge of TCK, with the falling edge that follows it (R555). The power-on source holds the port in reset.
PRESUMED (log 20). -/
def execTckRisingEdge (tms tdi : Bool) (s : State) : Host.Outcome State Fault Refusal :=
  .next (if s.rst.por then s
    else
      let s := tapAct tdi s
      tapFall { s with tap := { s.tap with st := s.tap.st.next tms } })

/-- TRSTN is asserted: the port is reset (R555). -/
def execTrstnAssert (s : State) : Host.Outcome State Fault Refusal := .next { s with tap := {} }

/-- TESTEN rises: TEST may be entered, and a loaded EXTEST drives the pins (R555, R556). -/
def execTestenRise (s : State) : Host.Outcome State Fault Refusal :=
  .next { s with pins := { s.pins with testen := true }, tap := { s.tap with drives := s.tap.inst == 3 } }

end Sys2Proof.Machine
end

