-- ==== Sys2Proof/Machine/Dispatch.lean ====
section
/-!
DEFINITION. Sys2Proof/Machine/Dispatch.lean: one arm per command, each a direct call of its meaning.
-/
namespace Sys2Proof.Machine

def exec (i : Instr) (s : State) : Host.Outcome State Fault Refusal :=
  match i with
  | .nop by_ => Sys2Proof.Machine.execNop by_ s
  | .add by_ gd ga gb => Sys2Proof.Machine.execAdd by_ gd ga gb s
  | .sub by_ gd ga gb => Sys2Proof.Machine.execSub by_ gd ga gb s
  | .and by_ gd ga gb => Sys2Proof.Machine.execAnd by_ gd ga gb s
  | .or by_ gd ga gb => Sys2Proof.Machine.execOr by_ gd ga gb s
  | .xor by_ gd ga gb => Sys2Proof.Machine.execXor by_ gd ga gb s
  | .shl by_ gd ga gb sub => Sys2Proof.Machine.execShl by_ gd ga gb sub s
  | .shr by_ gd ga gb sub => Sys2Proof.Machine.execShr by_ gd ga gb sub s
  | .sar by_ gd ga gb sub => Sys2Proof.Machine.execSar by_ gd ga gb sub s
  | .mul by_ gd ga gb => Sys2Proof.Machine.execMul by_ gd ga gb s
  | .cmp by_ ga gb => Sys2Proof.Machine.execCmp by_ ga gb s
  | .min by_ gd ga gb unsigned => Sys2Proof.Machine.execMin by_ gd ga gb unsigned s
  | .max by_ gd ga gb unsigned => Sys2Proof.Machine.execMax by_ gd ga gb unsigned s
  | .addi by_ gd ga imm => Sys2Proof.Machine.execAddi by_ gd ga imm s
  | .andi by_ gd ga imm => Sys2Proof.Machine.execAndi by_ gd ga imm s
  | .ori by_ gd ga imm => Sys2Proof.Machine.execOri by_ gd ga imm s
  | .movi by_ gd imm => Sys2Proof.Machine.execMovi by_ gd imm s
  | .movhi by_ gd ga imm => Sys2Proof.Machine.execMovhi by_ gd ga imm s
  | .cmpi by_ ga imm => Sys2Proof.Machine.execCmpi by_ ga imm s
  | .ld by_ gd ga imm => Sys2Proof.Machine.execLd by_ gd ga imm s
  | .st by_ gs ga imm => Sys2Proof.Machine.execSt by_ gs ga imm s
  | .ldf by_ gd gi a => Sys2Proof.Machine.execLdf by_ gd gi a s
  | .stf by_ gs gi a => Sys2Proof.Machine.execStf by_ gs gi a s
  | .take by_ gd gi a => Sys2Proof.Machine.execTake by_ gd gi a s
  | .br by_ cond ga target => Sys2Proof.Machine.execBr by_ cond ga target s
  | .call by_ cond ga target => Sys2Proof.Machine.execCall by_ cond ga target s
  | .ret by_ cond => Sys2Proof.Machine.execRet by_ cond s
  | .halt by_ => Sys2Proof.Machine.execHalt by_ s
  | .wait by_ gd ga operand => Sys2Proof.Machine.execWait by_ gd ga operand s
  | .signalSig by_ gd ga op => Sys2Proof.Machine.execSignalSig by_ gd ga op s
  | .signalStart by_ gd ga pc => Sys2Proof.Machine.execSignalStart by_ gd ga pc s
  | .signalStop by_ gd ga => Sys2Proof.Machine.execSignalStop by_ gd ga s
  | .signalResume by_ gd ga => Sys2Proof.Machine.execSignalResume by_ gd ga s
  | .signalFree by_ gd ga => Sys2Proof.Machine.execSignalFree by_ gd ga s
  | .yield by_ => Sys2Proof.Machine.execYield by_ s
  | .illegalOpcode by_ op => Sys2Proof.Machine.execIllegalOpcode by_ op s
  | .convQuadrant by_ ga quad => Sys2Proof.Machine.execConvQuadrant by_ ga quad s
  | .convMonitor by_ entry => Sys2Proof.Machine.execConvMonitor by_ entry s
  | .calConverters by_ => Sys2Proof.Machine.execCalConverters by_ s
  | .calMonitor by_ mask => Sys2Proof.Machine.execCalMonitor by_ mask s
  | .ledp by_ gs ga lamp slow count => Sys2Proof.Machine.execLedp by_ gs ga lamp slow count s
  | .mark by_ gd openWin tag => Sys2Proof.Machine.execMark by_ gd openWin tag s
  | .arm by_ timeout => Sys2Proof.Machine.execArm by_ timeout s
  | .emit by_ ga tag n => Sys2Proof.Machine.execEmit by_ ga tag n s
  | .restart by_ block => Sys2Proof.Machine.execRestart by_ block s
  | .power by_ gd target => Sys2Proof.Machine.execPower by_ gd target s
  | .spend by_ gd ga eu => Sys2Proof.Machine.execSpend by_ gd ga eu s
  | .admission by_ gd operand => Sys2Proof.Machine.execAdmit by_ gd operand s
  | .fuse by_ gd ga offset => Sys2Proof.Machine.execFuse by_ gd ga offset s
  | .budgetGrant => Sys2Proof.Machine.execBudgetGrant s
  | .hwRequestGrant => Sys2Proof.Machine.execHwRequestGrant s
  | .emitQueueAccept sq => Sys2Proof.Machine.execEmitQueueAccept sq s
  | .ledpSlotFreed sq => Sys2Proof.Machine.execLedpSlotFreed sq s
  | .monConvAccepted sq => Sys2Proof.Machine.execMonConvAccepted sq s
  | .eventLatch => Sys2Proof.Machine.execEventLatch s
  | .timerExpiry sq => Sys2Proof.Machine.execTimerExpiry sq s
  | .bunchMatch sq => Sys2Proof.Machine.execBunchMatch sq s
  | .bucketRefill => Sys2Proof.Machine.execBucketRefill s
  | .downlinkFrame side ok hdr fc payload => Sys2Proof.Machine.execDownlinkFrame side ok hdr fc payload s
  | .orbit side => Sys2Proof.Machine.execOrbit side s
  | .gapBegin side => Sys2Proof.Machine.execGapBegin side s
  | .gapEnd side => Sys2Proof.Machine.execGapEnd side s
  | .trigger side => Sys2Proof.Machine.execTrigger side s
  | .calstrobe side => Sys2Proof.Machine.execCalstrobe side s
  | .resync side => Sys2Proof.Machine.execResync side s
  | .snapshot side => Sys2Proof.Machine.execSnapshot side s
  | .orbitStart => Sys2Proof.Machine.execOrbitStart s
  | .ledgerTrailer => Sys2Proof.Machine.execLedgerTrailer s
  | .porAssert vdd vdda vddio => Sys2Proof.Machine.execPorAssert vdd vdda vddio s
  | .porRelease => Sys2Proof.Machine.execPorRelease s
  | .rstnAssert => Sys2Proof.Machine.execRstnAssert s
  | .rstnRelease => Sys2Proof.Machine.execRstnRelease s
  | .fuseLoadDone => Sys2Proof.Machine.execFuseLoadDone s
  | .memoryInitDone => Sys2Proof.Machine.execMemoryInitDone s
  | .warmStartDone => Sys2Proof.Machine.execWarmStartDone s
  | .controlPortLock side => Sys2Proof.Machine.execControlPortLock side s
  | .controlPortLoss side => Sys2Proof.Machine.execControlPortLoss side s
  | .returnComplete side => Sys2Proof.Machine.execReturnComplete side s
  | .activityStop side => Sys2Proof.Machine.execActivityStop side s
  | .activityResume side => Sys2Proof.Machine.execActivityResume side s
  | .holdoverHandover => Sys2Proof.Machine.execHoldoverHandover s
  | .holdoverTimeout => Sys2Proof.Machine.execHoldoverTimeout s
  | .safeForcing => Sys2Proof.Machine.execSafeForcing s
  | .safeExit => Sys2Proof.Machine.execSafeExit s
  | .pllLock => Sys2Proof.Machine.execPllLock s
  | .pllLossOfLock => Sys2Proof.Machine.execPllLossOfLock s
  | .coreClockRelease => Sys2Proof.Machine.execCoreClockRelease s
  | .referenceSwitch bins => Sys2Proof.Machine.execReferenceSwitch bins s
  | .phaseStep bins => Sys2Proof.Machine.execPhaseStep bins s
  | .slewComplete => Sys2Proof.Machine.execSlewComplete s
  | .testenFall => Sys2Proof.Machine.execTestenFall s
  | .adcSelfcalDone => Sys2Proof.Machine.execAdcSelfcalDone s
  | .monSelfcalDone => Sys2Proof.Machine.execMonSelfcalDone s
  | .groupExitComplete g => Sys2Proof.Machine.execGroupExitComplete g s
  | .groupIdleTimeout g => Sys2Proof.Machine.execGroupIdleTimeout g s
  | .pwrLtolWrite g value => Sys2Proof.Machine.execPwrLtolWrite g value s
  | .quiesceAck block => Sys2Proof.Machine.execQuiesceAck block s
  | .quiesceTimeout block => Sys2Proof.Machine.execQuiesceTimeout block s
  | .blockResetEnd block => Sys2Proof.Machine.execBlockResetEnd block s
  | .discLeadingEdge c raw e near => Sys2Proof.Machine.execDiscLeadingEdge c raw e near s
  | .discTrailingEdge c raw e => Sys2Proof.Machine.execDiscTrailingEdge c raw e s
  | .hitTimeout c => Sys2Proof.Machine.execHitTimeout c s
  | .hitDequeue c => Sys2Proof.Machine.execHitDequeue c s
  | .stuckDetect c => Sys2Proof.Machine.execStuckDetect c s
  | .quarantineRequest c => Sys2Proof.Machine.execQuarantineRequest c s
  | .quarantineEnd c => Sys2Proof.Machine.execQuarantineEnd c s
  | .pulserFire c => Sys2Proof.Machine.execPulserFire c s
  | .ftoEnableApply n => Sys2Proof.Machine.execFtoEnableApply n s
  | .tempReading r t => Sys2Proof.Machine.execTempReading r t s
  | .backgroundRunEnd => Sys2Proof.Machine.execBackgroundRunEnd s
  | .tdcRunEnd => Sys2Proof.Machine.execTdcRunEnd s
  | .tdcRunAccept => Sys2Proof.Machine.execTdcRunAccept s
  | .tbLineEdge n rising raw e => Sys2Proof.Machine.execTbLineEdge n rising raw e s
  | .tbCompensatedEdge n => Sys2Proof.Machine.execTbCompensatedEdge n s
  | .tbDrive n => Sys2Proof.Machine.execTbDrive n s
  | .tbAlignPulse n => Sys2Proof.Machine.execTbAlignPulse n s
  | .tbAlignWrite n => Sys2Proof.Machine.execTbAlignWrite n s
  | .tbcapArmWrite n value => Sys2Proof.Machine.execTbcapArmWrite n value s
  | .thresholdEvent c => Sys2Proof.Machine.execThresholdEvent c s
  | .triggerFrame => Sys2Proof.Machine.execTriggerFrame s
  | .hRecordComplete c => Sys2Proof.Machine.execHRecordComplete c s
  | .wRecordClose c => Sys2Proof.Machine.execWRecordClose c s
  | .packetCloseIdle cls => Sys2Proof.Machine.execPacketCloseIdle cls s
  | .captureAreaAlloc => Sys2Proof.Machine.execCaptureAreaAlloc s
  | .captureDone => Sys2Proof.Machine.execCaptureDone s
  | .recordSpaceGrant r => Sys2Proof.Machine.execRecordSpaceGrant r s
  | .compressionJobStart => Sys2Proof.Machine.execCompressionJobStart s
  | .compressionJobSuccess e upsets => Sys2Proof.Machine.execCompressionJobSuccess e s upsets
  | .compressionJobFail e upsets fault => Sys2Proof.Machine.execCompressionJobFail e upsets fault s
  | .engineReturn e => Sys2Proof.Machine.execEngineReturn e s
  | .framerSendStart side => Sys2Proof.Machine.execFramerSendStart side s
  | .gambitStart side e => Sys2Proof.Machine.execGambitStart side e s
  | .packetSent side port upsets => Sys2Proof.Machine.execPacketSent side port upsets s
  | .scrubPass upsets prog scratch => Sys2Proof.Machine.execScrubPass upsets prog scratch s
  | .sideDeadTimeout side => Sys2Proof.Machine.execSideDeadTimeout side s
  | .bufDeadWrite value => Sys2Proof.Machine.execBufDeadWrite value s
  | .laneLock p => Sys2Proof.Machine.execLaneLock p s
  | .laneUnlock p stop => Sys2Proof.Machine.execLaneUnlock p s stop
  | .laneFail p => Sys2Proof.Machine.execLaneFail p s
  | .laneDrop p => Sys2Proof.Machine.execLaneDrop p s
  | .laneRejoinWrite p => Sys2Proof.Machine.execLaneRejoinWrite p s
  | .laneRejoin p => Sys2Proof.Machine.execLaneRejoin p s
  | .singleWrite lg value => Sys2Proof.Machine.execSingleWrite lg value s
  | .alignMarker lg => Sys2Proof.Machine.execAlignMarker lg s
  | .uplinkFrame side => Sys2Proof.Machine.execUplinkFrame side s
  | .partnerFrameReceived side map bcid ok => Sys2Proof.Machine.execPartnerFrameReceived side map bcid s ok
  | .timeMessageReceived p bytes ago cyc bin => Sys2Proof.Machine.execTimeMessageReceived p bytes ago cyc bin s
  | .timeMessageForward p bin => Sys2Proof.Machine.execTimeMessageForward p bin s
  | .timSend value => Sys2Proof.Machine.execTimSend value s
  | .timTxEgress p bin => Sys2Proof.Machine.execTimTxEgress p bin s
  | .timSlotFree slot => Sys2Proof.Machine.execTimSlotFree slot s
  | .stepGo => Sys2Proof.Machine.execStepGo s
  | .stepJudgement => Sys2Proof.Machine.execStepJudgement s
  | .unsync => Sys2Proof.Machine.execUnsync s
  | .timIncWrite value => Sys2Proof.Machine.execTimIncWrite value s
  | .timNownsRead => Sys2Proof.Machine.execTimNownsRead s
  | .compareArm n value => Sys2Proof.Machine.execCompareArm n value s
  | .compareFire n => Sys2Proof.Machine.execCompareFire n s
  | .monEntryStart => Sys2Proof.Machine.execMonEntryStart s
  | .monResult code => Sys2Proof.Machine.execMonResult code s
  | .monRunWrite run => Sys2Proof.Machine.execMonRunWrite run s
  | .monIlkClear value => Sys2Proof.Machine.execMonIlkClear value s
  | .ledTempStale => Sys2Proof.Machine.execLedTempStale s
  | .ledPulseFire => Sys2Proof.Machine.execLedPulseFire s
  | .ledPulseEnd col => Sys2Proof.Machine.execLedPulseEnd col s
  | .blankingEnd => Sys2Proof.Machine.execBlankingEnd s
  | .ledFlush => Sys2Proof.Machine.execLedFlush s
  | .ledDiagPulse => Sys2Proof.Machine.execLedDiagPulse s
  | .diagResult lamp unregulated volts => Sys2Proof.Machine.execDiagResult lamp unregulated volts s
  | .pmvalidWrite => Sys2Proof.Machine.execPmvalidWrite s
  | .cellNoMajority cell => Sys2Proof.Machine.execCellNoMajority cell s
  | .parityQuarantine c errors => Sys2Proof.Machine.execParityQuarantine c errors s
  | .blockNoMajority block => Sys2Proof.Machine.execBlockNoMajority block s
  | .watchdogExpiry block => Sys2Proof.Machine.execWatchdogExpiry block s
  | .chipFault what => Sys2Proof.Machine.execChipFault what s
  | .rcRead a => Sys2Proof.Machine.execRcRead a s
  | .fieldWrite a value => Sys2Proof.Machine.execFieldWrite a value s
  | .correctedSampleDelivered c codeA codeB => Sys2Proof.Machine.execCorrectedSampleDelivered c codeA codeB s
  | .convCountEnd quad => Sys2Proof.Machine.execConvCountEnd quad s
  | .fuseProgramDone burned => Sys2Proof.Machine.execFuseProgramDone burned s
  | .quietTimeEnd => Sys2Proof.Machine.execQuietTimeEnd s
  | .adaptationConverged p width height coef => Sys2Proof.Machine.execAdaptationConverged p width height coef s
  | .partnerFrameSend side => Sys2Proof.Machine.execPartnerFrameSend side s
  | .tckRisingEdge tms tdi => Sys2Proof.Machine.execTckRisingEdge tms tdi s
  | .trstnAssert => Sys2Proof.Machine.execTrstnAssert s
  | .testenRise => Sys2Proof.Machine.execTestenRise s

end Sys2Proof.Machine
end

