-- ==== Sys2Proof/Machine/Sequencer.lean ====
section
/-!
DEFINITION. Sys2Proof/Machine/Sequencer.lean: what one core cycle does that no command of the table names: the sequencer issues
an instruction of a square or of the host (R122, R129), the time counter ticks, and a BP boundary inside an orbit passes.
-/
namespace Sys2Proof.Machine

/-- The state that a meaning answers; a meaning that stops leaves the state as it was. -/
def after (s : State) : Host.Outcome State Fault Refusal → State
  | .next t => t
  | _ => s

/-- Square a1 is eligible: its queue is not empty and it is not held in a command (R129). -/
def State.a1Eligible (s : State) : Bool :=
  s.issuable (.host .k 0) && !s.a1.queue.isEmpty

/-- The program square of an index from 1 to 63 is eligible (R129). -/
def State.progEligible (s : State) (q : Fin 63) : Bool := s.issuable (.prog q)

/-- An eligible square with its priority; a1 counts as 7 (R129). -/
structure Choice where
  idx : Nat
  prio : Nat
  deriving DecidableEq, Repr

/-- Every eligible square, in index order. -/
def State.choices (s : State) : List Choice :=
  (if s.a1Eligible then [⟨0, 7⟩] else []) ++
    ((List.finRange 63).filter s.progEligible).map fun q => ⟨q.val + 1, (s.square (q.val + 1)).prio.toNat⟩

/-- The square that issues: of the highest priority, the first after the one that issued last, wrapping from 63 to 0 (R129).
DESIGN CHOICE (log 14). -/
def State.chosen (s : State) : Option Nat :=
  let l := s.choices
  match (l.map Choice.prio).max? with
  | none => none
  | some p =>
    let same := (l.filter fun c => c.prio == p).map Choice.idx
    let last := sget (fun _ => 0) s.rr p
    match same.find? fun i => Nat.blt last i with
    | some i => some i
    | none => same.head?

/-- The oldest command of a1's queue is executed (R122, R123). DESIGN CHOICE (log 16). -/
def issueA1 (s : State) : State :=
  match s.a1.queue with
  | c :: r =>
    let t := { s with a1 := { s.a1 with queue := r } }
    after t (exec (decodeWord (.host c.side c.id) c.word) t)
  | [] => s

/-- A program square fetches the word at its PC and executes it; an uncorrectable word faults it (R82, Table 5-6).
DESIGN CHOICE (log 16). -/
def issueAt (q : Fin 63) (s : State) : State :=
  let pc := (s.square (q.val + 1)).pc.toNat
  if s.progBad.contains pc then faultSquare (q.val + 1) 4 (foundBadProg pc (issued (.prog q) s))
  else after s (exec (decodeWord (.prog q) (Memory.read s.prog pc)) s)

/-- One core cycle of the sequencer (R129): a1 has a slot of its own when it has waited 7 cycles.
DESIGN CHOICE (logs 1, 16). -/
def issueCycle (s : State) : State :=
  let wait := if s.a1Eligible then s.a1.wait + 1 else 0
  let guaranteed := s.a1Eligible && Nat.ble 7 s.a1.wait
  let s' := { s with a1 := { s.a1 with wait := wait } }
  if guaranteed then issueA1 s'
  else match s.chosen with
    | none => s'
    | some i =>
      if i = 0 then issueA1 { s' with rr := sput (fun _ => 0) 7 0 s'.rr }
      else if h : i - 1 < 63 then issueAt ⟨i - 1, h⟩ s' else s'

/-- The core cycle that begins a BP issues: what is still due at the boundary comes before it, and a flag that the boundary has set
stays set through a clear of this cycle (R16, R164, R446, R505). DESIGN CHOICE (log 1). -/
def firstCycle (s : State) : State := { issueCycle (restOfBoundary s) with setNow := [], cycle0 := false }

/-- The core clock goes on: the time counter ticks and the next core cycle issues; after the last cycle of a BP its boundary passes,
and the first core cycle of the next BP is then still to run. The last BP of an orbit waits for the command that starts the next
one (R407, R439). DESIGN CHOICE (logs 1, 3), DEDUCED (log 6). -/
def tick (s : State) : State :=
  if s.coreOn then
    if s.cycle0 then firstCycle s
    else if s.cyc < 7 then issueCycle { coreTicks s.cyc 1 s with cyc := s.cyc + 1 }
    else if s.bcid + 1 < s.nb then { noteSets s (nextBp s) with cycle0 := true }
    else s
  else s

end Sys2Proof.Machine
end

