-- ==== Sys2Proof/Machine/Frontend.lean ====
section
/-!
DEFINITION. Sys2Proof/Machine/Frontend.lean: what the front end drives and compares under the registers in effect (R196 to R205,
R216 to R222): the bleed path, the ranges of Table 7-1, baseline restore, threshold and hysteresis, and the FTO outputs. The
signals themselves come with the edge commands; no meaning of a command needs more of them than these values.
-/
namespace Sys2Proof.Machine

/-- The bleed path joins IN*c* to GREF*g*: whenever the stage is unpowered, for the whole of an ADC self-calibration, and always
at an input whose slice the part does not have (R75, R197, R222). The 1 µs of settling before it opens is timing (log 5). -/
def State.bleedClosed (s : State) (c : Nat) : Bool := !s.stagePowered c || s.adcCal

/-- The stage holds its input node at GREF*g*: it is powered and connected to its input (R197). -/
def State.inputHeld (s : State) (c : Nat) : Bool := s.stagePowered c && !s.adcCal

/-- The feedback resistance of a slice in Ω (R199, Table 7-1). -/
def State.feedback (s : State) (c : Nat) : Nat := 200 * 4 ^ (F.AFE_CFG_FB c).rd s

/-- The signal range of the low-gain path, 1.0 V / R_f, in fA (R199). -/
def State.lowRange (s : State) (c : Nat) : Nat := 10 ^ 15 / s.feedback c

/-- The signal range of the high-gain path in fA: one sixteenth of the low-gain path's (R199). -/
def State.highRange (s : State) (c : Nat) : Nat := s.lowRange c / 16

/-- The -3 dB bandwidth of the stage in MHz (Table 7-1). -/
def State.bandwidth (s : State) (c : Nat) : Nat :=
  match (F.AFE_CFG_FB c).rd s with
  | 0 => 180 | 1 => 160 | 2 => 110 | _ => 45

/-- 2048 times the current of baseline restore at the input node in fA, positive where it removes current in the signal direction:
k times the low-path range. None is set by an unpowered stage or through a self-calibration of the converters (R202, R245). -/
def State.baseline (s : State) (c : Nat) : Int :=
  if s.inputHeld c then (F.AFE_BLR_CODE c).int s * (s.lowRange c : Int) else 0

/-- 1024 times the current of a threshold step count in fA (R203). -/
def State.stepCurrent (s : State) (c t : Nat) : Nat := t * s.highRange c

/-- The step at which a rising signal gives a leading edge (R203, R204). -/
def State.riseStep (s : State) (c : Nat) : Nat := (F.AFE_DISC_THR c).rd s

/-- The hysteresis in threshold steps (Table 7-2). -/
def State.hysteresis (s : State) (c : Nat) : Nat :=
  match (F.AFE_DISC_HYST c).rd s with
  | 0 => 0
  | n + 1 => 2 ^ n

/-- The step to which a signal falls for a trailing edge, max(t - h, 0) (R204). -/
def State.fallStep (s : State) (c : Nat) : Nat := s.riseStep c - s.hysteresis c

/-- The level that the discriminator's output takes when the signal of the fast branch, 1024 times in fA above the baseline, goes from
one value to another (R203, R204). -/
def State.discNext (s : State) (c : Nat) (old new : Int) : Bool :=
  let rise : Int := s.stepCurrent c (s.riseStep c)
  let fall : Int := s.stepCurrent c (s.fallStep c)
  if s.discActive c then
    if (s.slice c).high then !(decide (new ≤ fall)) else decide (old < rise) && decide (rise ≤ new)
  else false

/-- The quadrant's FTO output is driven low whatever its OR: disabled, DEEP or OFF, forced in HOLD and SAFE, or without a quadrant
(R76, R220, R222, Table 2-3). -/
def State.ftoForced (s : State) (q : Nat) : Bool :=
  !(s.ftoOf q).en || !s.hasQuad q || s.pins.forcing || s.mode == .hold || s.mode == .safe ||
    s.quadState q == .deep || s.quadState q == .off

/-- The level of FTO*n* at an instant in bins, before its programmed delay (R216 to R220). -/
def State.ftoLevel (s : State) (q at_ : Nat) : Bool := !s.ftoForced q && !s.ftoLow q at_

/-- The greatest time in ps from the crossing of a threshold to the crossing of FTO*n* (R30, R217). -/
def State.ftoBound (s : State) (q : Nat) : Nat := 3800 + 500 * (s.ftoOf q).delay

/-! ### Balls of the inputs -/

/-- The name of row k of the ball array, from A (R549). -/
def rowName (k : Nat) : String :=
  let single := ["A", "B", "C", "D", "E", "F", "G", "H", "J", "K", "L", "M", "N", "P", "T", "U", "V", "W", "Y"]
  let double := ["AA", "AB", "AC", "AD", "AE", "AF", "AG", "AH", "AJ", "AK", "AL", "AM", "AN", "AP", "AT", "AU", "AV", "AW"]
  (single ++ double).getD k ""

/-- The row and the first column of a channel group's input balls (R551). -/
def groupBalls (g : Nat) : String × Nat :=
  let n := g / 4
  let j := g % 4
  (rowName (if n < 2 then 2 * j else 36 - 2 * j), if n % 2 = 0 then 2 else 20)

/-- The ball of an input (R551). -/
def inputBall (c : Nat) : String × Nat :=
  let b := groupBalls (c / 16)
  (b.1, b.2 + c % 16 + (if c % 16 < 8 then 0 else 1))

/-- The ball of a group's return (R551). -/
def returnBall (g : Nat) : String × Nat := let b := groupBalls g; (b.1, b.2 + 8)

end Sys2Proof.Machine
end

