-- ==== Sys2Proof/Safety.lean ====
section
/-!
DEFINITION. Sys2Proof/Safety.lean: the terms in which claims are made: what two states agree on, what an instruction that
completes, is refused or faults leaves, and the invariant of the model.
-/
namespace Sys2Proof.Machine

/-! ### Agreement of two states -/

/-- Every word of the field map outside a list reads as before. -/
def SameWords (ws : List Nat) (s t : State) : Prop := ∀ a, a ∉ ws → t.word a = s.word a

/-- Every square but one is as before. -/
def SameSquares (i : Nat) (s t : State) : Prop := ∀ j, j ≠ i → t.square j = s.square j

/-- Every slice but one is as before. -/
def SameSlices (c : Nat) (s t : State) : Prop := ∀ d, d ≠ c → t.slice d = s.slice d

/-- The words that the record path changes: BUFWAIT with its counter, and the counters of suppressed records (R161, R340,
R531). -/
def recordWords : List Nat := [0xA00A, 0xA00F, F.ERR_REPSUP_COUNT.addr, F.ERR_REFSUP_COUNT.addr]

/-- The form of the memories: words at the addresses of program memory and of scratch memory only, in rising order, and no
zero listed (R167, R546, R547). -/
def MemoryForm (s : State) : Prop :=
  Memory.wf s.prog = true ∧ Memory.wf s.scratch = true ∧ (∀ e ∈ s.prog, e.1 < 16384) ∧ ∀ e ∈ s.scratch, e.1 < 4096

/-- What a record of the hub changes on its way into the frame buffer: packets with the pages they take and what counts them,
records that wait, the turns of the write port, PKT events, and the words of the record path. -/
def RecordPath (s t : State) : Prop :=
  t = { s with raised := t.raised, packets := t.packets, nextPid := t.nextPid, waiting := t.waiting, seq := t.seq
               ledgers := t.ledgers, reports := t.reports, refProg := t.refProg, refA1 := t.refA1, regs := t.regs
               free := t.free, bufErr := t.bufErr, scrubBack := t.scrubBack, served := t.served } ∧
    SameWords recordWords s t

/-! ### Instructions -/

/-- A register of a square has a value, and its other registers read as before; a write to g0 is discarded (R121, R154). -/
def Wrote (i : Nat) (gd : Reg) (v : Word) (s t : State) : Prop :=
  ∀ r : Reg, t.reg i r = if r = gd ∧ r ≠ 0 then v else s.reg i r

/-- The registers of a square read as before. -/
def KeptRegs (i : Nat) (s t : State) : Prop := ∀ r : Reg, t.reg i r = s.reg i r

/-- The flags Z, N, C and V of a square. -/
def Flags (i : Nat) (t : State) (z n c v : Bool) : Prop :=
  (t.square i).z = z ∧ (t.square i).n = n ∧ (t.square i).c = c ∧ (t.square i).v = v

/-- The flags Z, N, C and V of a square are as before. -/
def KeptFlags (i : Nat) (s t : State) : Prop :=
  Flags i t (s.square i).z (s.square i).n (s.square i).c (s.square i).v

/-- The words that a response of square a1 may change: `SID.STICKY` with the counter of a displaced mirror, and `SID.WIN`. -/
def responseWords : List Nat := [0x1004, 0x1009, F.SID_WIN_LASTID.addr]

/-- What the issue of an instruction changes outside its square: in a program square the order of service (R129); in a1 the
response path (R417, R419, R412). -/
def IssueFrame (by_ : Issuer) (s t : State) : Prop :=
  SameSquares by_.idx s t ∧
    match by_ with
    | .prog q => t = { s with squares := t.squares, rr := sput (fun _ => 0) (s.square (q.val + 1)).prio.toNat (q.val + 1) s.rr }
    | .host _ _ => t = { s with squares := t.squares, a1 := { s.a1 with wait := 0 }, sid := t.sid, regs := t.regs } ∧
        SameWords responseWords s t

/-- The response that a1 sends to the side of its command, where that side takes responses (R417, R420); a program square
sends none. -/
def Responds (by_ : Issuer) (resp : BitVec 16 → Resp) (s t : State) : Prop :=
  match by_ with
  | .prog _ => t.sid = s.sid
  | .host side id => t.sid.own.get side = s.sid.own.get side ++ (if s.answers side then [resp id] else [])

/-- What an instruction that completes leaves of its own square: ISSUED counts, the PC of a program square moves on, a
reservation is released; F is cleared in a1, and in a program square by the instructions that can be refused (R155, R162,
R144). Nothing else changes but registers and Z, N, C, V. -/
def SquareFrame (by_ : Issuer) (refusable : Bool) (s t : State) : Prop :=
  let q := s.square by_.idx
  let x := t.square by_.idx
  x = { q with
    g := x.g, z := x.z, n := x.n, c := x.c, v := x.v, issued := q.issued + 1, effPrio := q.prio, resv := none
    pc := match by_ with | .prog _ => q.pc + 1 | .host _ _ => q.pc
    f := match by_ with | .prog _ => !refusable && q.f | .host _ _ => false }

/-- An instruction of registers and flags completes: nothing changes but its square's registers, Z, N, C, V, F, PC, ISSUED and
reservation, and what its issue changes; a1 acknowledges it with a value. -/
def Completes (by_ : Issuer) (refusable : Bool) (v : Word) (s t : State) : Prop :=
  SquareFrame by_ refusable s t ∧ IssueFrame by_ s t ∧ Responds by_ (fun id => .ack id v) s t

/-- The words that a refusal changes beside the response path: the record path, and the sticky flag of its reason with its
counter and with the address that R6 keeps (R6, R104, R160). -/
def refusalWords (r : Reason) : List Nat :=
  responseWords ++ recordWords ++
    match r with
    | .absent => [F.CAP_ABSENT_FLAG.addr, F.CAP_ABSENT_FLAG.addr + 1, F.CAP_ABSADDR_ADDR.addr]
    | .state => [F.PWR_STICKY_REFUSE.addr, F.PWR_STICKY_REFUSE.addr + 1]
    | _ => []

/-- An instruction is refused with a reason, the number of a failing admission test and its group (R104, R160): F is set, the
PC of a program square moves on, a reservation is released, a1 answers REFUSED, and the record is made; nothing else
changes. -/
def RefusedWith (by_ : Issuer) (op : Nat) (r : Reason) (test grp : Nat) (s t : State) : Prop :=
  let q := s.square by_.idx
  t.square by_.idx = { q with
    f := true, issued := q.issued + 1, effPrio := q.prio, resv := none
    pc := match by_ with | .prog _ => q.pc + 1 | .host _ _ => q.pc } ∧
  SameSquares by_.idx s t ∧
  Responds by_ (fun id => .refused id (BitVec.ofNat 6 op) (BitVec.ofNat 3 r.code) (BitVec.ofNat 3 test) (BitVec.ofNat 4 grp)) s t ∧
  t = { s with squares := t.squares, rr := t.rr, a1 := { s.a1 with wait := t.a1.wait }, sid := t.sid, raised := t.raised
               packets := t.packets, nextPid := t.nextPid, waiting := t.waiting, seq := t.seq, ledgers := t.ledgers
               reports := t.reports, refProg := t.refProg, refA1 := t.refA1, regs := t.regs
               free := t.free, bufErr := t.bufErr, scrubBack := t.scrubBack, served := t.served } ∧
  SameWords (refusalWords r) s t

/-- A program square faults with a cause (R150): it is FAULTED with its PC and the cause kept, `SEQ.STICKY.FAULT` is set, and
the record is made; nothing else changes. -/
def FaultedWith (n : Fin 63) (cause : Nat) (s t : State) : Prop :=
  let q := s.square (n.val + 1)
  t.square (n.val + 1) = { q with
    state := .faulted, faultPc := q.pc, faultCause := BitVec.ofNat 4 cause, issued := q.issued + 1
    effPrio := q.prio, resv := none } ∧
  SameSquares (n.val + 1) s t ∧
  F.SEQ_STICKY_FAULT.is t = true ∧
  t = { s with squares := t.squares, rr := t.rr, raised := t.raised
               packets := t.packets, nextPid := t.nextPid, waiting := t.waiting, seq := t.seq, ledgers := t.ledgers
               reports := t.reports, refProg := t.refProg, refA1 := t.refA1, regs := t.regs
               free := t.free, bufErr := t.bufErr, scrubBack := t.scrubBack, served := t.served } ∧
  SameWords ([F.SEQ_STICKY_FAULT.addr, F.SEQ_STICKY_FAULT.addr + 3] ++ recordWords) s t

/-! ### Held instructions, waiting for budget, and payment -/

/-- An accepted instruction holds its square (R127): it is RUNNING, its F flag is clear, its PC stays; nothing else changes but
the order of service, and a1's record of what it executes. -/
def Holds (by_ : Issuer) (h : Hold) (s t : State) : Prop :=
  let q := s.square by_.idx
  t.square by_.idx = { q with
    f := false, held := some h, issued := q.issued + 1, effPrio := q.prio, resv := none
    state := match by_ with | .prog _ => .running | .host _ _ => q.state } ∧
  SameSquares by_.idx s t ∧
  match by_ with
  | .prog n => t = { s with squares := t.squares, rr := sput (fun _ => 0) (s.square (n.val + 1)).prio.toNat (n.val + 1) s.rr }
  | .host side id => t = { s with squares := t.squares, a1 := { s.a1 with wait := 0, running := some ⟨side, id, 0, 0⟩ } }

/-- A square's held instruction completes (R127): the square goes on at the next instruction, or leaves by the STOP or FREE
that waited for it; a1 is free again and answers the command it was held in. -/
def Finished (i : Nat) (gd : Word) (s t : State) : Prop :=
  let q := s.square i
  let left := fun (st : SqState) =>
    { q with state := st, pc := q.pc + 1, held := none, waitMask := 0, want := 0, barred := false, resv := none
             deferred := .none }
  SameSquares i s t ∧
    if i = 0 then
      t.square 0 = { q with held := none } ∧
        match s.a1.running with
        | some c =>
          t = { s with squares := t.squares, a1 := { s.a1 with running := none }, sid := t.sid, regs := t.regs } ∧
            SameWords responseWords s t ∧
            t.sid.own.get c.side = s.sid.own.get c.side ++ (if s.answers c.side then [.ack c.id gd] else [])
        | none => t = { s with squares := t.squares }
    else
      t = { s with squares := t.squares } ∧
        t.square i =
          match q.deferred with
          | .none => { q with state := .ready, pc := q.pc + 1, held := none }
          | .stop => left .halted
          | .free => left .free

/-- A program square waits for budget (R143): it is WAIT_BUDGET with the cost it wants, its PC stays, and `PWR.STICKY` says
so; `barred` where it waits for its class allowance (R145). -/
def WaitsBudget (n : Fin 63) (cost : Nat) (barred : Bool) (s t : State) : Prop :=
  let q := s.square (n.val + 1)
  t.square (n.val + 1) = { q with
    state := .waitBudget, want := cost, barred := barred, issued := q.issued + 1, effPrio := q.prio, resv := none } ∧
  IssueFrame (.prog n) (raiseFlag 0x430 1 s) t

/-- A cost exceeds what the allowance of the square's class leaves (R145). -/
def OverAllowance (i cost : Nat) (s : State) : Prop :=
  s.allowance i ≠ 0 ∧ s.allowance i < (F.PWR_CLASSSPENT_EU (s.square i).cls.toNat).rd s + cost

/-- A discretionary instruction can be paid at once (R143 to R146): a1 where nothing waits, the debt is zero and the cost is
available; a program square where the allowance of its class leaves the cost, out of a reservation that covers it, or where nothing
waits and the cost is available. -/
def CanPay (by_ : Issuer) (cost : Nat) (s : State) : Prop :=
  match by_ with
  | .host _ _ => s.anyWaits = false ∧ s.debt = 0 ∧ 256 * cost ≤ s.available
  | .prog n =>
    let i := n.val + 1
    let free := s.modSquare i fun q => { q with resv := none }
    ¬OverAllowance i cost s ∧
      ((∃ r, (s.square i).resv = some r ∧ cost ≤ r) ∨ (s.anyWaits = false ∧ 256 * cost ≤ free.available))

/-- The bucket is charged, a program square's class too, and a reservation is released (R144 to R146). -/
def paid (by_ : Issuer) (cost : Nat) (s : State) : State :=
  match by_ with
  | .host _ _ => { s with bucket := s.bucket - 256 * cost }
  | .prog n => spendClass (n.val + 1) cost
      { s.modSquare (n.val + 1) fun q => { q with resv := none } with bucket := s.bucket - 256 * cost }

/-! ### Records -/

/-- A record has entered the frame buffer, or waits at its region's write port (R340). -/
def HoldsRec (r : Rec) (t : State) : Prop := (∃ w ∈ t.waiting, w.r = r) ∨ ∃ p ∈ t.packets, r ∈ p.recs

/-- The hub has made a record of its own, unless the orbit has had its 64 (R531). -/
def Reported (s t : State) (r : Rec) : Prop := s.reports < 64 → HoldsRec r t

/-! ### Clocks and claims -/

/-- What a change of clocks or claims may bring beside itself: the reference and the claims follow (R38, R421 to R426), the
degraded condition and LINK (R107), and the record of the change. -/
def Settles (x t : State) : Prop :=
  t = { x with regs := t.regs, clk := t.clk, mode := t.mode, degraded := t.degraded, raised := t.raised, reports := t.reports
               sid := t.sid, seq := t.seq, ledgers := t.ledgers, packets := t.packets, nextPid := t.nextPid
               waiting := t.waiting, free := t.free, bufErr := t.bufErr, scrubBack := t.scrubBack, served := t.served }

/-- A one-bit field of a word is set and its counter has counted one more, up to its greatest value (R16, R17). -/
def FlagSet (w bit : Nat) (s t : State) : Prop :=
  (Fld.mk w bit bit).is t = true ∧ (Fld.mk (w + 1 + bit) 15 0).rd t = min ((Fld.mk (w + 1 + bit) 15 0).rd s + 1) 0xFFFF

/-! ### The orbit -/

/-- What every orbit start leaves: the new number and BCID 0, the ORBIT event, the orbit's stamp, fresh limits, and pending values
in effect, here those of the front-end and acquisition units (R14, R145, R161, R407, R456). -/
def BeginsOrbit (number : Word) (s t : State) : Prop :=
  t.orbit = number ∧ t.bcid = 0 ∧ t.orbStart = t.bp ∧ Raised.all .orbit ∈ t.raised ∧
    F.TIM_ORBSTAMP4_ORBIT.rd t = number.toNat ∧ (∀ k, k < 4 → (F.PWR_CLASSSPENT_EU k).rd t = 0) ∧
    (∀ j, (t.square j).barred = false) ∧ t.refProg = 0 ∧ t.refA1 = 0 ∧ t.rwo = [] ∧
    ∀ a v, (0x2000 ≤ a ∧ a < 0x3000) ∨ (0x9000 ≤ a ∧ a < 0x9018) → sget (fun _ => none) s.rwo a = some v →
      t.word a &&& rwoMask a = v &&& rwoMask a

/-- A port has put a frame with a content on its line, and no other line has changed (R374 to R377). -/
def SendsFrame (p f content : Nat) (s t : State) : Prop :=
  t.lineOf p = some (lineFrame f content (s.lineOf p)) ∧ ∀ q, q ≠ p → t.lineOf q = s.lineOf q

/-- A port has sent a frame of 64 bits with a header and a payload (R374 to R377). -/
def Sends (p hdr payload : Nat) (s t : State) : Prop := SendsFrame p 64 (withCrc6 (packBits [(2, hdr), (52, payload)])) s t

/-! ### Units -/

/-- A counting field has counted one more and saturates. -/
def Counted (f : Fld) (s t : State) : Prop := f.rd t = min (f.rd s + 1) (2 ^ f.width - 1)

/-- A slice is quarantined with a cause: its status, its counter, its S record, its discriminator low (R204, R212, R213). -/
def Quarantined (c cause : Nat) (s t : State) : Prop :=
  (F.AFE_STAT_QUAR c).is t = true ∧ (F.AFE_STAT_QCAUSE c).rd t = cause ∧ Counted (F.AFE_QCNT_COUNT c) s t ∧
    (t.slice c).acc.bad = true ∧ (t.slice c).high = false ∧ SameSlices c s t ∧
    (cause ≠ 1 → F.ERR_STICKY_QUAR.is t = true)

/-- An event report of this moment (R530). -/
def reportRec (s : State) (ev index detail : Nat) : Rec :=
  .m 0x0C 0xFF s.mode.code s.bcid 0 [BitVec.ofNat 32 (ev * 2 ^ 24 + index * 2 ^ 16 + detail)]

/-- A fault report of this moment (R521): its level, its class, its block and the index of its cell. -/
def faultRec (s : State) (level cls block index : Nat) (detail : Word) : Rec :=
  .m 7 0xFF s.mode.code s.bcid 0
    [BitVec.ofNat 32 (level * 2 ^ 28 + cls * 2 ^ 22 + block * 2 ^ 17 + index * 2 ^ 8), detail]

/-- An instruction answers a next state in which gd has the value v, Z and N are set from v, and C and V are as given; it
changes nothing beside (R166). -/
def Computes (c : Instr) (by_ : Issuer) (gd : Reg) (v : Word) (cf vf : Bool) (s : State) : Prop :=
  ∃ t, exec c s = .next t ∧ Completes by_ false (if gd = 0 then 0 else v) s t ∧ Wrote by_.idx gd v s t ∧
    Flags by_.idx t (v == 0) v.msb cf vf

/-- An instruction answers a next state in which the flags are set from the value v, C and V are as given, and no register
changes; it changes nothing beside (R166). -/
def Compares (c : Instr) (by_ : Issuer) (v : Word) (cf vf : Bool) (s : State) : Prop :=
  ∃ t, exec c s = .next t ∧ Completes by_ false 0 s t ∧ KeptRegs by_.idx s t ∧ Flags by_.idx t (v == 0) v.msb cf vf

/-- An instruction answers a next state in which gd has the value v; it changes no flag and nothing beside. -/
def Moves (c : Instr) (by_ : Issuer) (gd : Reg) (v : Word) (s : State) : Prop :=
  ∃ t, exec c s = .next t ∧ Completes by_ false (if gd = 0 then 0 else v) s t ∧ Wrote by_.idx gd v s t ∧
    KeptFlags by_.idx s t

end Sys2Proof.Machine
end

