-- ==== Sys2Proof/WellFormed.lean ====
section
/-!
DEFINITION. Sys2Proof/WellFormed.lean: the operands that a command admits. A constructor's types bound its operands already
wherever the spec's bound is a plain range; what is left is checked here. A command outside these bounds is none of the spec's.
-/
namespace Sys2Proof

/-- A data port: P2 to P17 (Table 13-1). -/
def isDataPort (p : Port) : Bool := Nat.ble 2 p && Nat.ble p 17

/-- A port that carries time messages: P0, P1, P22 and P23 (R448). -/
def isTimePort (p : Port) : Bool := Nat.ble p 1 || Nat.ble 22 p

/-- A receiver whose lock has a command of its own: every port but the control ports (R378, R385, R388). -/
def isLanePort (p : Port) : Bool := Nat.ble 2 p

/-- A block of Table 3-7. -/
def isBlock (n : BitVec 5) : Bool := Nat.blt n.toNat 29

/-- An illegal opcode (R194). -/
def isIllegal (op : BitVec 6) : Bool :=
  [0x0D, 0x0E, 0x0F, 0x16, 0x17, 0x1D, 0x1E, 0x1F, 0x24, 0x25, 0x26, 0x27, 0x2B, 0x2C, 0x2D, 0x2E, 0x2F, 0x3A, 0x3C, 0x3D,
    0x3E, 0x3F].contains op.toNat

/-- An address below the end of the last unit's range (R536). -/
def isMapped (a : BitVec 18) : Bool := Nat.blt a.toNat 0x15000

/-- The bound of a cell that loses its majority (R523): a lane is a data lane. -/
def CellId.wf : CellId → Bool
  | .slice _ => true
  | .lane p => isDataPort p
  | .engine _ => true

/-- The operands of a command are in its bounds. -/
def Instr.wf : Instr → Bool
  | .nop _ | .add _ _ _ _ | .sub _ _ _ _ | .and _ _ _ _ | .or _ _ _ _ | .xor _ _ _ _ | .shl _ _ _ _ _ | .shr _ _ _ _ _
  | .sar _ _ _ _ _ | .mul _ _ _ _ | .cmp _ _ _ | .min _ _ _ _ _ | .max _ _ _ _ _ | .addi _ _ _ _ | .andi _ _ _ _
  | .ori _ _ _ _ | .movi _ _ _ | .movhi _ _ _ _ | .cmpi _ _ _ | .ld _ _ _ _ | .st _ _ _ _ | .ldf _ _ _ _ | .stf _ _ _ _
  | .take _ _ _ _ | .br _ _ _ _ | .call _ _ _ _ | .ret _ _ | .halt _ | .wait _ _ _ _ => true
  -- operation values that name START, STOP, RESUME or FREE have rows of their own (R177, Table 6-6)
  | .signalSig _ _ _ op => op == 0 || Nat.ble 5 op.toNat
  | .signalStart _ _ _ _ | .signalStop _ _ _ | .signalResume _ _ _ | .signalFree _ _ _ | .yield _ => true
  | .illegalOpcode _ op => isIllegal op
  | .convQuadrant _ _ _ | .convMonitor _ _ | .calConverters _ | .calMonitor _ _ | .ledp _ _ _ _ _ _ | .mark _ _ _ _ | .arm _ _
  | .emit _ _ _ _ | .restart _ _ | .power _ _ _ | .spend _ _ _ _ | .admission _ _ _ | .fuse _ _ _ _ | .budgetGrant
  | .hwRequestGrant | .emitQueueAccept _ | .ledpSlotFreed _ | .monConvAccepted _ | .eventLatch | .timerExpiry _ | .bunchMatch _
  | .bucketRefill | .downlinkFrame _ _ _ _ _ | .orbit _ | .gapBegin _ | .gapEnd _ | .trigger _ | .calstrobe _ | .resync _
  | .snapshot _ | .orbitStart | .ledgerTrailer | .porAssert _ _ _ | .porRelease | .rstnAssert | .rstnRelease | .fuseLoadDone
  | .memoryInitDone | .warmStartDone | .controlPortLock _ | .controlPortLoss _ | .returnComplete _ | .activityStop _
  | .activityResume _ | .holdoverHandover | .holdoverTimeout | .safeForcing | .safeExit | .pllLock | .pllLossOfLock
  | .coreClockRelease => true
  -- a phase is a signed count of bins from −512 to +511 (R48)
  | .referenceSwitch bins | .phaseStep bins => decide (-512 ≤ bins.toInt) && decide (bins.toInt ≤ 511)
  | .slewComplete | .testenFall | .adcSelfcalDone | .monSelfcalDone | .groupExitComplete _ | .groupIdleTimeout _
  | .pwrLtolWrite _ _ => true
  | .quiesceAck b | .quiesceTimeout b | .blockResetEnd b | .blockNoMajority b | .watchdogExpiry b => isBlock b
  | .discLeadingEdge _ _ _ _ | .discTrailingEdge _ _ _ | .hitTimeout _ | .hitDequeue _ | .stuckDetect _
  | .quarantineRequest _ | .quarantineEnd _ | .pulserFire _ | .ftoEnableApply _ | .tempReading _ _ | .backgroundRunEnd
  | .tdcRunEnd | .tdcRunAccept | .tbLineEdge _ _ _ _ | .tbCompensatedEdge _ | .tbDrive _ | .tbAlignPulse _ | .tbAlignWrite _
  | .tbcapArmWrite _ _ | .thresholdEvent _ | .triggerFrame | .hRecordComplete _ | .wRecordClose _ | .packetCloseIdle _
  | .captureAreaAlloc | .captureDone | .recordSpaceGrant _ | .compressionJobStart | .engineReturn _ | .framerSendStart _ | .gambitStart _ _ => true
  -- an input, and what a packet leaves in, is at most 8192 bytes (R307, R365); the scrubber reads 16 banks (R351)
  | .compressionJobSuccess _ u | .compressionJobFail _ u _ => u.all fun x => Nat.blt x.word 1024
  | .packetSent _ p u => isDataPort p && u.all fun x => Nat.blt x.word 1024
  | .scrubPass u _ _ => u.all fun x => Nat.blt x.word 16
  | .sideDeadTimeout _ | .bufDeadWrite _ => true
  | .laneLock p | .laneUnlock p _ => isLanePort p
  | .laneFail p | .laneDrop p | .laneRejoinWrite p | .laneRejoin p => isDataPort p
  | .singleWrite _ _ | .alignMarker _ | .uplinkFrame _ | .partnerFrameReceived _ _ _ _ => true
  -- a time message is 1 to 64 bytes long (R414, R452)
  | .timeMessageReceived p bytes _ _ _ => isTimePort p && Nat.ble 1 bytes.length && Nat.ble bytes.length 64
  | .timeMessageForward p _ | .timTxEgress p _ => isTimePort p
  | .timSend _ | .timSlotFree _ | .stepGo | .stepJudgement | .unsync | .timIncWrite _ | .timNownsRead | .compareArm _ _
  | .compareFire _ | .monEntryStart | .monResult _ | .monRunWrite _ | .monIlkClear _ | .ledTempStale | .ledPulseFire
  | .ledPulseEnd _ | .blankingEnd | .ledFlush | .ledDiagPulse | .diagResult _ _ _ | .pmvalidWrite => true
  | .cellNoMajority cell => cell.wf
  | .parityQuarantine _ _ | .chipFault _ => true
  | .rcRead a | .fieldWrite a _ => isMapped a
  | .correctedSampleDelivered _ _ _ | .convCountEnd _ | .fuseProgramDone _ | .quietTimeEnd => true
  -- an eye width is 0 to 64 in UI/64 (R395)
  | .adaptationConverged _ width _ _ => Nat.ble width.toNat 64
  | .partnerFrameSend _ | .tckRisingEdge _ _ | .trstnAssert | .testenRise => true

end Sys2Proof
end

