-- ==== Sys2Proof/Certificates/Slice0/Obligations.lean ====
section
/-!
DEFINITION. Sys2Proof/Certificates/Slice0/Obligations.lean: the statements about the model. A statement with several parts is the
conjunction of claims, each a definition of its own. "Model's choices" names the log entries a statement rests on.
-/
open Sys2Proof Sys2Proof.Machine

/-- A step takes the command at the front of the queue: it is that command's effect with the rest of the queue, and every command
of the table completes. Where none waits, a core cycle passes (the model's choice, log 1). Model's choices: logs 1, 4. -/
def Obligations.StepTakesTheFront : Prop :=
  (∀ (c : Instr) (s : State), step { s with pending := c :: s.pending } = exec c s) ∧
  (∀ s : State, s.pending = [] → step s = .next (tick s)) ∧
  ∀ (c : Instr) (s : State), ∃ t, exec c s = .next t

/-- R65, R68, R69, R76, R78 and Table 3-2: right after reset the power-on source holds the hub in HOLD with its outputs forced
and its core clock stopped; every word reads its Reset value, every square is FREE, the memories read zero, and nothing is
queued or buffered. Model's choices: logs 12, 13, 67. -/
def Obligations.ResetLeaves : Prop :=
  let s := State.reset
  s.mode = .hold ∧ s.rst.por = true ∧ s.rst.reach = some .chip ∧ s.pins.forcing = true ∧ s.coreOn = false ∧ s.accessible = false ∧
  (∀ a, s.word a = wordReset a) ∧ (∀ i, (s.square i).state = .free) ∧ (∀ i r, s.reg i r = 0) ∧
  (∀ a, Memory.read s.prog a = 0) ∧ (∀ a, Memory.read s.scratch a = 0) ∧ s.pending = [] ∧ s.a1.queue = [] ∧ s.packets = [] ∧
  s.waiting = [] ∧ (∀ side, s.claims side = false) ∧ ∀ n, (s.group n).st = .off

/-- The memories are in their form after reset: R78's zeros leave nothing listed. Model's choices: log 67. -/
def Obligations.ResetMemoryForm : Prop := MemoryForm State.reset

/-- R167, R168, R170, R172, R546 and R547: every step keeps the form of the memories: program memory holds words at 0 to 16,383
and scratch memory at 0 to 4095 only, in rising order and with no zero listed, so that equal memories are equal data. -/
def Obligations.StepKeepsMemoryForm : Prop :=
  ∀ s t : State, MemoryForm s → step s = .next t → MemoryForm t

/-- R78, R82 and R170: program memory changes only by a reset, by its initialisation, and by a write through its window. -/
def Claims.ProgramMemoryIsKept : Prop :=
  ∀ (c : Instr) (s t : State), exec c s = .next t →
    (∀ a b d, c ≠ .porAssert a b d) → c ≠ .rstnAssert → c ≠ .memoryInitDone → (∀ by_ gs gi a, c ≠ .stf by_ gs gi a) →
    (∀ a v, c ≠ .fieldWrite a v) → t.prog = s.prog

/-- R78, R80, R167, R170 and R172: scratch memory changes only by a reset, by its initialisation in a start, by `ST`, by `TAKE`,
and by a write through its window. -/
def Claims.ScratchMemoryIsKept : Prop :=
  ∀ (c : Instr) (s t : State), exec c s = .next t →
    (∀ a b d, c ≠ .porAssert a b d) → c ≠ .rstnAssert → c ≠ .memoryInitDone → c ≠ .warmStartDone →
    (∀ by_ gs gi a, c ≠ .stf by_ gs gi a) → (∀ a v, c ≠ .fieldWrite a v) → (∀ by_ gs ga imm, c ≠ .st by_ gs ga imm) →
    (∀ by_ gd gi a, c ≠ .take by_ gd gi a) → t.scratch = s.scratch

/-- Program memory and scratch memory change only by the commands that the rules name. -/
def Obligations.MemoriesAreKept : Prop :=
  Claims.ProgramMemoryIsKept ∧ Claims.ScratchMemoryIsKept

/-- Table 6-1, R153, R154 and R177: an instruction word of the example of Table 6-9, and of those that follow it, is the
instruction that stands beside it; reserved bits are ignored. -/
def Obligations.SpecWordsDecode : Prop :=
  ∀ by_ : Issuer,
    decodeWord by_ 0x4D400020 = .movi by_ 5 0x20 ∧
    decodeWord by_ 0x515417C0 = .movhi by_ 5 5 0x17C0 ∧
    decodeWord by_ 0xA0820002 = .wait by_ 2 0 0x20002 ∧
    decodeWord by_ 0xC9952810 = .ledp by_ 6 5 37 false 16 ∧
    decodeWord by_ 0x82000104 = .br by_ 8 0 0x104 ∧
    decodeWord by_ 0x42640001 = .addi by_ 9 9 1 ∧
    decodeWord by_ 0x80000104 = .br by_ 0 0 0x104 ∧
    decodeWord by_ 0x4D000310 = .movi by_ 4 0x310 ∧
    decodeWord by_ 0xA4508100 = .signalStart by_ 1 4 0x100 ∧
    decodeWord by_ 0x03FFFFFF = .nop by_

/-- R153 to R156, R166, R177, R194 and Tables 6-1, 6-2, 6-6 and 6-7: the word of every well-formed instruction reads as that
instruction, with every operand at every value. -/
def Obligations.EncodedInstructionsDecode : Prop :=
  ∀ (i : Instr) (by_ : Issuer), i.wf = true → issuerOf i = some by_ → (encodeWord i).map (decodeWord by_) = some i

/-- R166 and Table 6-3: the three-register operations. -/
def Claims.ThreeRegisterResults : Prop :=
  ∀ (by_ : Issuer) (gd ga gb : Reg) (s : State), s.issuable by_ = true →
    let a := s.reg by_.idx ga
    let b := s.reg by_.idx gb
    let q := s.square by_.idx
    Computes (.add by_ gd ga gb) by_ gd (a + b) (decide (2 ^ 32 ≤ a.toNat + b.toNat))
      (decide ((a + b).toInt ≠ a.toInt + b.toInt)) s ∧
    Computes (.sub by_ gd ga gb) by_ gd (a - b) (decide (b.toNat ≤ a.toNat))
      (decide ((a - b).toInt ≠ a.toInt - b.toInt)) s ∧
    Computes (.and by_ gd ga gb) by_ gd (a &&& b) q.c q.v s ∧
    Computes (.or by_ gd ga gb) by_ gd (a ||| b) q.c q.v s ∧
    Computes (.xor by_ gd ga gb) by_ gd (a ^^^ b) q.c q.v s ∧
    Computes (.mul by_ gd ga gb) by_ gd ((a.truncate 16).signExtend 32 * (b.truncate 16).signExtend 32) false false s

/-- R166 and Table 6-3: the shifts. -/
def Claims.ShiftResults : Prop :=
  ∀ (by_ : Issuer) (gd ga gb : Reg) (sub : BitVec 14) (s : State), s.issuable by_ = true →
    let a := s.reg by_.idx ga
    let n := if gb = 0 then sub.toNat % 32 else (s.reg by_.idx gb).toNat % 32
    Computes (.shl by_ gd ga gb sub) by_ gd (a <<< n) (decide (n ≠ 0) && a.getLsbD (32 - n)) false s ∧
    Computes (.shr by_ gd ga gb sub) by_ gd (a >>> n) (decide (n ≠ 0) && a.getLsbD (n - 1)) false s ∧
    Computes (.sar by_ gd ga gb sub) by_ gd (a.sshiftRight n) (decide (n ≠ 0) && a.getLsbD (n - 1)) false s

/-- R166 and Table 6-3: comparisons set the flags of a difference, and a choice keeps C and V. -/
def Claims.ComparisonResults : Prop :=
  ∀ (by_ : Issuer) (gd ga gb : Reg) (unsigned : Bool) (imm : BitVec 18) (s : State), s.issuable by_ = true →
    let a := s.reg by_.idx ga
    let b := s.reg by_.idx gb
    let e := imm.signExtend 32
    let q := s.square by_.idx
    let less := if unsigned then decide (a.toNat < b.toNat) else decide (a.toInt < b.toInt)
    Compares (.cmp by_ ga gb) by_ (a - b) (decide (b.toNat ≤ a.toNat)) (decide ((a - b).toInt ≠ a.toInt - b.toInt)) s ∧
    Compares (.cmpi by_ ga imm) by_ (a - e) (decide (e.toNat ≤ a.toNat)) (decide ((a - e).toInt ≠ a.toInt - e.toInt)) s ∧
    Computes (.min by_ gd ga gb unsigned) by_ gd (if less then a else b) q.c q.v s ∧
    Computes (.max by_ gd ga gb unsigned) by_ gd (if less then b else a) q.c q.v s

/-- R155, R166 and Table 6-3: the immediate operations. -/
def Claims.ImmediateResults : Prop :=
  ∀ (by_ : Issuer) (gd ga : Reg) (imm : BitVec 18) (s : State), s.issuable by_ = true →
    let a := s.reg by_.idx ga
    let e := imm.signExtend 32
    let q := s.square by_.idx
    Computes (.addi by_ gd ga imm) by_ gd (a + e) (decide (2 ^ 32 ≤ a.toNat + e.toNat))
      (decide ((a + e).toInt ≠ a.toInt + e.toInt)) s ∧
    Computes (.andi by_ gd ga imm) by_ gd (a &&& imm.zeroExtend 32) q.c q.v s ∧
    Computes (.ori by_ gd ga imm) by_ gd (a ||| imm.zeroExtend 32) q.c q.v s ∧
    Moves (.movi by_ gd imm) by_ gd e s ∧
    Moves (.movhi by_ gd ga imm) by_ gd ((imm.truncate 14 : BitVec 14) ++ (a.truncate 18 : BitVec 18)) s

/-- What the register and immediate instructions give, with their flags and their frame. -/
def Obligations.RegisterAndImmediateResults : Prop :=
  Claims.ThreeRegisterResults ∧ Claims.ShiftResults ∧ Claims.ComparisonResults ∧ Claims.ImmediateResults

/-- R175, R179 and Tables 6-1 and 6-2: NOP, YIELD and HALT of a program square only move its PC on, and HALT leaves the square
HALTED. -/
def Claims.NopYieldHalt : Prop :=
  (∀ (by_ : Issuer) (s : State), s.issuable by_ = true →
    ∃ t, exec (.nop by_) s = .next t ∧ Completes by_ false 0 s t ∧ KeptRegs by_.idx s t ∧ KeptFlags by_.idx s t) ∧
  ∀ (n : Fin 63) (s : State), s.issuable (.prog n) = true →
    (∃ t, exec (.yield (.prog n)) s = .next t ∧ Completes (.prog n) false 0 s t ∧ KeptRegs (n.val + 1) s t ∧
      KeptFlags (n.val + 1) s t) ∧
    ∃ t, exec (.halt (.prog n)) s = .next t ∧
      Completes (.prog n) false 0 (s.modSquare (n.val + 1) fun q => { q with state := .halted }) t ∧
      KeptRegs (n.val + 1) s t ∧ KeptFlags (n.val + 1) s t

/-- R134 and R176: WAIT consumes the pending events of its mask and goes on, or waits for one. -/
def Claims.WaitForEvents : Prop :=
  ∀ (n : Fin 63) (gd ga : Reg) (operand : BitVec 18) (s : State), s.issuable (.prog n) = true →
    let i := n.val + 1
    let q := s.square i
    let m : BitVec 13 := operand.truncate 13 ||| (s.reg i ga).truncate 13
    let mask := if operand.getLsbD 17 then q.evmask ||| m else q.evmask
    ∃ t, exec (.wait (.prog n) gd ga operand) s = .next t ∧ IssueFrame (.prog n) s t ∧
      if q.evpend &&& m ≠ 0 ∨ m = 0 then
        Wrote i gd ((q.evpend &&& m).zeroExtend 32) s t ∧
        t.square i = { q with g := (t.square i).g, evmask := mask, evpend := q.evpend &&& ~~~m, pc := q.pc + 1
                              issued := q.issued + 1, effPrio := q.prio, resv := none }
      else
        t.square i = { q with state := .waitEvent, waitMask := m, evmask := mask, issued := q.issued + 1, effPrio := q.prio, resv := none }

/-- NOP, YIELD, HALT and WAIT. -/
def Obligations.HaltYieldAndWait : Prop :=
  Claims.NopYieldHalt ∧ Claims.WaitForEvents

/-- R167: LD and ST reach the scratch word at g[ga] + sext(imm18), and an address outside 0 to 4095, and an uncorrectable word
that LD reads, faults a program square and is refused in a1. -/
def Obligations.ScratchLoadStore : Prop :=
  ∀ (by_ : Issuer) (r ga : Reg) (imm : BitVec 18) (s : State), s.issuable by_ = true →
    let a := (s.reg by_.idx ga + imm.signExtend 32).toNat
    (a ≤ 4095 → a ∉ s.scratchBad → Moves (.ld by_ r ga imm) by_ r (Memory.read s.scratch a) s) ∧
    (a ≤ 4095 → ∃ t, exec (.st by_ r ga imm) s = .next t ∧
      Completes by_ false 0 { s with scratch := t.scratch, scratchBad := t.scratchBad } t ∧
      KeptRegs by_.idx s t ∧ KeptFlags by_.idx s t ∧
      (∀ b, Memory.read t.scratch b = if b = a then s.reg by_.idx r else Memory.read s.scratch b) ∧
      ∀ b, b ∈ t.scratchBad ↔ b ∈ s.scratchBad ∧ b ≠ a) ∧
    (a ≤ 4095 → a ∈ s.scratchBad →
      (∀ n, by_ = .prog n → ∃ t, exec (.ld by_ r ga imm) s = .next t ∧ FaultedWith n 5 (foundBad 3 a s) t) ∧
      ∀ side id, by_ = .host side id →
        ∃ t, exec (.ld by_ r ga imm) s = .next t ∧ RefusedWith by_ 0x18 .range 0 0 (foundBad 3 a s) t) ∧
    (4095 < a → ∀ n, by_ = .prog n → (∃ t, exec (.ld by_ r ga imm) s = .next t ∧ FaultedWith n 6 s t) ∧
      ∃ t, exec (.st by_ r ga imm) s = .next t ∧ FaultedWith n 6 s t) ∧
    (4095 < a → ∀ side id, by_ = .host side id →
      (∃ t, exec (.ld by_ r ga imm) s = .next t ∧ RefusedWith by_ 0x18 .range 0 0 s t) ∧
      ∃ t, exec (.st by_ r ga imm) s = .next t ∧ RefusedWith by_ 0x19 .range 0 0 s t)

/-- R173, R174 and Table 6-5: a branch is taken or not by its condition; a condition value that names none faults, and so do a
CALL with four entries on the stack and a RET from an empty one. -/
def Obligations.Branches : Prop :=
  ∀ (n : Fin 63) (cond ga : Reg) (target : BitVec 14) (s : State), s.issuable (.prog n) = true →
    let i := n.val + 1
    let q := s.square i
    let to_ := target + (s.reg i ga).truncate 14
    let holds := [true, q.z, !q.z, q.n != q.v, q.n == q.v, !q.c, q.c, q.f, !q.f, q.evpend &&& q.evmask != 0][cond.toNat]?
    (∃ t, exec (.br (.prog n) cond ga target) s = .next t ∧
      match holds with
      | none => FaultedWith n 1 s t
      | some b => t.square i = { q with pc := if b then to_ else q.pc + 1, issued := q.issued + 1, effPrio := q.prio, resv := none } ∧
          IssueFrame (.prog n) s t) ∧
    (∃ t, exec (.call (.prog n) cond ga target) s = .next t ∧
      match holds with
      | none => FaultedWith n 1 s t
      | some false => t.square i = { q with pc := q.pc + 1, issued := q.issued + 1, effPrio := q.prio, resv := none } ∧ IssueFrame (.prog n) s t
      | some true =>
        if 4 ≤ q.depth.toNat then FaultedWith n 2 s t
        else t.square i = { q.setStack q.depth.toNat (q.pc + 1) with
            depth := q.depth + 1, pc := to_, issued := q.issued + 1, effPrio := q.prio, resv := none } ∧ IssueFrame (.prog n) s t) ∧
    ∃ t, exec (.ret (.prog n) cond) s = .next t ∧
      match holds with
      | none => FaultedWith n 1 s t
      | some false => t.square i = { q with pc := q.pc + 1, issued := q.issued + 1, effPrio := q.prio, resv := none } ∧ IssueFrame (.prog n) s t
      | some true =>
        if q.depth = 0 then FaultedWith n 3 s t
        else t.square i = { q with depth := q.depth - 1, pc := q.stackAt (q.depth.toNat - 1), issued := q.issued + 1, effPrio := q.prio
                                   resv := none } ∧ IssueFrame (.prog n) s t

/-- R194 and R159: the illegal opcodes; one faults a program square with cause 0b0001 and is refused in a1 with RANGE. -/
def Claims.IllegalOpcodes : Prop :=
  ∀ (op : BitVec 6) (s : State),
    (∀ n, s.issuable (.prog n) = true → ∃ t, exec (.illegalOpcode (.prog n) op) s = .next t ∧ FaultedWith n 1 s t) ∧
    (∀ side id, s.issuable (.host side id) = true →
      ∃ t, exec (.illegalOpcode (.host side id) op) s = .next t ∧ RefusedWith (.host side id) op.toNat .range 0 0 s t) ∧
    ∀ (by_ : Issuer) (w : Word), w.extractLsb' 26 6 = op →
      ((∃ n, decodeWord by_ w = .illegalOpcode by_ n) ↔ (0x0D ≤ op.toNat ∧ op.toNat ≤ 0x0F) ∨ op = 0x16 ∨ op = 0x17 ∨
        (0x1D ≤ op.toNat ∧ op.toNat ≤ 0x1F) ∨ (0x24 ≤ op.toNat ∧ op.toNat ≤ 0x27) ∨ (0x2B ≤ op.toNat ∧ op.toNat ≤ 0x2F) ∨
        op = 0x3A ∨ 0x3C ≤ op.toNat) ∧
      ∀ n, decodeWord by_ w = .illegalOpcode by_ n → n = op

/-- R124 and R159: square a1 never executes the flow instructions, WAIT, YIELD and HALT: they are refused with RANGE. -/
def Claims.ProgramOnlyInA1 : Prop :=
  ∀ (side : Side) (id : BitVec 16) (cond gd ga : Reg) (target : BitVec 14) (operand : BitVec 18) (s : State),
    s.issuable (.host side id) = true →
    let b := Issuer.host side id
    (∃ t, exec (.br b cond ga target) s = .next t ∧ RefusedWith b 0x20 .range 0 0 s t) ∧
    (∃ t, exec (.call b cond ga target) s = .next t ∧ RefusedWith b 0x21 .range 0 0 s t) ∧
    (∃ t, exec (.ret b cond) s = .next t ∧ RefusedWith b 0x22 .range 0 0 s t) ∧
    (∃ t, exec (.halt b) s = .next t ∧ RefusedWith b 0x23 .range 0 0 s t) ∧
    (∃ t, exec (.wait b gd ga operand) s = .next t ∧ RefusedWith b 0x28 .range 0 0 s t) ∧
    ∃ t, exec (.yield b) s = .next t ∧ RefusedWith b 0x2A .range 0 0 s t

/-- Illegal opcodes fault a program square; a1 refuses them and the flow instructions. -/
def Obligations.IllegalOpcodesAndSquareA1 : Prop :=
  Claims.IllegalOpcodes ∧ Claims.ProgramOnlyInA1

/-- R177 and R178: SIGNAL with operation SIG raises SIG for the named square and tells its state; a1, a FREE square and an
operation value that names none are refused. -/
def Claims.SignalSig : Prop :=
  ∀ (by_ : Issuer) (gd ga : Reg) (op : BitVec 3) (s : State), s.issuable by_ = true →
    let i := by_.idx
    let n := (s.reg i ga).toNat % 64
    let code : Word := BitVec.ofNat 32 (if n = i then 2 else (s.square n).state.code)
    (op ≠ 0 ∨ n = 0 ∨ (s.square n).state = .free →
      ∃ t, exec (.signalSig by_ gd ga op) s = .next t ∧ RefusedWith by_ 0x29 .range 0 0 s t) ∧
    (op = 0 → n ≠ 0 → (s.square n).state ≠ .free →
      ∃ t, exec (.signalSig by_ gd ga op) s = .next t ∧
        Completes by_ true (if gd = 0 then 0 else code) { s with raised := s.raised ++ [.one .sig n] } t ∧
        Wrote i gd code s t ∧ KeptFlags i s t)

/-- R126, R127, R177 and R178: STOP, RESUME and FREE of the named square, with the state it had in gd; those that R126 names are
refused. A square leaves with its PC kept, at once or, while a FUSE runs in it, when that completes. Model's choices: logs
41, 42. -/
def Claims.SignalStopResumeFree : Prop :=
  ∀ (by_ : Issuer) (gd ga : Reg) (s : State), s.issuable by_ = true →
    let i := by_.idx
    let n := (s.reg i ga).toNat % 64
    let st := (s.square n).state
    let code : Word := BitVec.ofNat 32 (if n = i then 2 else st.code)
    let ack : Word := if gd = 0 then 0 else code
    let leaves := fun (st : SqState) (d : Deferred) => s.modSquare n fun q =>
      if q.fusing then { q with deferred := d }
      else { q with state := st, waitMask := 0, want := 0, barred := false, resv := none, held := none, deferred := .none }
    (n = 0 ∨ st = .free ∨ st = .halted ∨ st = .faulted →
      ∃ t, exec (.signalStop by_ gd ga) s = .next t ∧ RefusedWith by_ 0x29 .range 0 0 s t) ∧
    (n ≠ 0 → st ≠ .free → st ≠ .halted → st ≠ .faulted →
      ∃ t, exec (.signalStop by_ gd ga) s = .next t ∧ Completes by_ true ack (leaves .halted .stop) t ∧
        Wrote i gd code s t ∧ KeptFlags i s t) ∧
    (n = 0 ∨ st ≠ .halted → ∃ t, exec (.signalResume by_ gd ga) s = .next t ∧ RefusedWith by_ 0x29 .range 0 0 s t) ∧
    (n ≠ 0 → st = .halted →
      ∃ t, exec (.signalResume by_ gd ga) s = .next t ∧
        Completes by_ true ack (s.modSquare n fun q => { q with state := .ready }) t ∧ Wrote i gd code s t ∧
        KeptFlags i s t) ∧
    (n = 0 ∨ st = .free → ∃ t, exec (.signalFree by_ gd ga) s = .next t ∧ RefusedWith by_ 0x29 .range 0 0 s t) ∧
    (n ≠ 0 → st ≠ .free → n ≠ i →
      ∃ t, exec (.signalFree by_ gd ga) s = .next t ∧ Completes by_ true ack (leaves .free .free) t ∧
        Wrote i gd code s t ∧ KeptFlags i s t) ∧
    (n ≠ 0 → st ≠ .free → n = i →
      ∃ t, exec (.signalFree by_ gd ga) s = .next t ∧ Completes by_ true 0 (leaves .free .free) t ∧
        KeptRegs i s t ∧ KeptFlags i s t)

/-- SIGNAL with SIG, STOP, RESUME and FREE. Model's choices: logs 41, 42. -/
def Obligations.SignalSendsAndControls : Prop :=
  Claims.SignalSig ∧ Claims.SignalStopResumeFree

/-- R126, R177 and Table 5-2: SIGNAL with operation START takes the lowest-index FREE square, and is refused with NOSQ where none
is FREE. Model's choices: log 42. -/
def Obligations.SignalStart : Prop :=
  ∀ (by_ : Issuer) (gd ga : Reg) (pc : BitVec 14) (s : State), s.issuable by_ = true →
    let i := by_.idx
    let w := (s.reg i ga).toNat
    ((∀ n, 1 ≤ n → n ≤ 63 → (s.square n).state ≠ .free) →
      ∃ t, exec (.signalStart by_ gd ga pc) s = .next t ∧
        RefusedWith by_ 0x29 .range 0 0 (raiseFlag F.SEQ_STICKY_NOSQ.addr 3 s) t) ∧
    ∀ n, 1 ≤ n → n ≤ 63 → (s.square n).state = .free → (∀ k, 1 ≤ k → k < n → (s.square k).state ≠ .free) →
      ∃ t, exec (.signalStart by_ gd ga pc) s = .next t ∧
        Completes by_ true (if gd = 0 then 0 else BitVec.ofNat 32 n) (s.modSquare n fun q =>
          { ({} : Square) with
            state := .ready, pc := pc, prio := BitVec.ofNat 3 (w / 256), cls := BitVec.ofNat 2 (w / 16)
            bunchEn := q.bunchEn, bunch := q.bunch, tevg := q.tevg, faultPc := q.faultPc, faultCause := q.faultCause
            evovr := q.evovr, issued := q.issued, effPrio := BitVec.ofNat 3 (w / 256), bunchBp := q.bunchBp }) t ∧
        Wrote i gd (BitVec.ofNat 32 n) s t ∧ KeptFlags i s t

/-- R168: an index out of the bound of its unit, and an address outside every unit, is refused with RANGE. -/
def Claims.FieldAddressRefused : Prop :=
  ∀ (by_ : Issuer) (r gi : Reg) (a : BitVec 18) (s : State), s.issuable by_ = true →
    let k := (s.reg by_.idx gi).toNat
    (effectiveAddr a.toNat k = none →
      (∃ t, exec (.ldf by_ r gi a) s = .next t ∧ RefusedWith by_ 0x1A .range 0 0 s t) ∧
      (∃ t, exec (.stf by_ r gi a) s = .next t ∧ RefusedWith by_ 0x1B .range 0 0 s t) ∧
      ∃ t, exec (.take by_ r gi a) s = .next t ∧ RefusedWith by_ 0x1C .range 0 0 s t) ∧
    (0x15000 ≤ a.toNat → effectiveAddr a.toNat k = none) ∧
    (∀ u ∈ unitRanges, u.lo ≤ a.toNat → a.toNat < u.hi → effectiveAddr a.toNat k =
      if k < u.bound ∧ a.toNat + k * u.stride < u.hi then some (a.toNat + k * u.stride) else none)

/-- R171 and R423: square a1 may write a word with an output-stage field only under the claim rule; program squares are never
checked. -/
def Claims.OutputStageClaim : Prop :=
  ∀ (side : Side) (id : BitVec 16) (r gi : Reg) (a : BitVec 18) (e : Nat) (s : State), s.issuable (.host side id) = true →
    effectiveAddr a.toNat (s.reg 0 gi).toNat = some e → outputStage e = true → s.absentWord e = false →
    s.rating side ≠ Nat.max s.sid.live.k.toNat s.sid.live.q.toNat →
    ∃ t, exec (.stf (.host side id) r gi a) s = .next t ∧ RefusedWith (.host side id) 0x1B .claim 0 0 s t

/-- Field instructions are refused for their address and, in a1, for a claim. -/
def Obligations.FieldInstructionsRefused : Prop :=
  Claims.FieldAddressRefused ∧ Claims.OutputStageClaim

/-- R167, R170, R546 and R547: LDF and STF through the memory windows reach the word of program memory or scratch memory at the
field address less the window's base. -/
def Obligations.MemoryWindows : Prop :=
  ∀ (by_ : Issuer) (r gi : Reg) (a : BitVec 18) (e : Nat) (s : State), s.issuable by_ = true →
    effectiveAddr a.toNat (s.reg by_.idx gi).toNat = some e → 0x10000 ≤ e →
    let v := s.reg by_.idx r
    let old := if e < 0x14000 then Memory.read s.prog (e - 0x10000) else Memory.read s.scratch (e - 0x14000)
    ((if e < 0x14000 then e - 0x10000 ∉ s.progBad else e - 0x14000 ∉ s.scratchBad) →
      ∃ t, exec (.ldf by_ r gi a) s = .next t ∧ Completes by_ true (if r = 0 then 0 else old) s t ∧
        Wrote by_.idx r old s t ∧ KeptFlags by_.idx s t) ∧
    ∃ t, exec (.stf by_ r gi a) s = .next t ∧
      Completes by_ true 0 { s with prog := t.prog, progBad := t.progBad, scratch := t.scratch, scratchBad := t.scratchBad } t ∧
      KeptRegs by_.idx s t ∧ KeptFlags by_.idx s t ∧
      (∀ b, Memory.read t.prog b = if e < 0x14000 ∧ b = e - 0x10000 then v else Memory.read s.prog b) ∧
      ∀ b, Memory.read t.scratch b = if 0x14000 ≤ e ∧ b = e - 0x14000 then v else Memory.read s.scratch b

/-- R14, R18, R169, R170 and R537: a field of the filter unit, whose writes set nothing off, is read and written by its access
codes: an RW bit takes the value, a 1 clears a W1C bit that the hub has not set in the same core cycle (R16), an RWO bit
waits for the next orbit start, and the others stay. Model's choices: log 64. -/
def Obligations.FilterFieldAccess : Prop :=
  ∀ (by_ : Issuer) (r gi : Reg) (a : BitVec 18) (e : Nat) (w : WordRow) (s : State), s.issuable by_ = true →
    effectiveAddr a.toNat (s.reg by_.idx gi).toNat = some e → 0x5000 ≤ e → e < 0x9000 → wordRow e = some w →
    s.absentWord e = false →
    let v := s.reg by_.idx r &&& ~~~s.missingBits e
    ∃ t, exec (.stf by_ r gi a) s = .next t ∧
      Completes by_ true 0 { s with regs := t.regs, rwo := t.rwo } t ∧ KeptRegs by_.idx s t ∧ KeptFlags by_.idx s t ∧
      t.word e = ((s.word e &&& ~~~w.rw) ||| (v &&& w.rw)) &&& ~~~(v &&& w.w1c &&& ~~~sget (fun _ => 0) s.setNow e) ∧
      SameWords (e :: responseWords) s t ∧
      ∀ b, sget (fun _ => none) t.rwo b = if b = e ∧ w.rwo ≠ 0 then some v else sget (fun _ => none) s.rwo b

/-- R172 and R253: TAKE copies a statistic block to scratch memory and clears it; an address that is not the first word of a
block, and a destination past word 4095, are refused with RANGE. A TAKE of a min/max block in the core cycle of its write at
an orbit start copies what it held before, and leaves what was written. -/
def Obligations.TakeBlock : Prop :=
  ∀ (by_ : Issuer) (gd gi : Reg) (a : BitVec 18) (e : Nat) (s : State), s.issuable by_ = true →
    effectiveAddr a.toNat (s.reg by_.idx gi).toNat = some e →
    let d := (s.reg by_.idx gd).toNat
    let minMax := 0x3000 ≤ e ∧ e < 0x4000 ∧ e % 16 = 6
    let written := minMax ∧ s.bp = s.orbStart ∧ s.cyc = 0
    (blockWords e = none → ∃ t, exec (.take by_ gd gi a) s = .next t ∧ RefusedWith by_ 0x1C .range 0 0 s t) ∧
    (∀ n, blockWords e = some n → 4096 < d + n →
      ∃ t, exec (.take by_ gd gi a) s = .next t ∧ RefusedWith by_ 0x1C .range 0 0 s t) ∧
    ∀ n, blockWords e = some n → d + n ≤ 4096 → s.absentWord e = false →
      ∃ t, exec (.take by_ gd gi a) s = .next t ∧
        Completes by_ true 0
          { s with regs := t.regs, scratch := t.scratch, scratchBad := t.scratchBad, slices := t.slices } t ∧
        KeptRegs by_.idx s t ∧ KeptFlags by_.idx s t ∧
        (∀ k, k < n → Memory.read t.scratch (d + k) = if written then s.wordAt (s.bp - 1) (e + k) else s.word (e + k)) ∧
        (∀ b, b < d ∨ d + n ≤ b → Memory.read t.scratch b = Memory.read s.scratch b) ∧
        (∀ k, k < n → t.word (e + k) = if written then s.word (e + k) else wordReset (e + k)) ∧
        SameWords ((List.range n).map (fun k => e + k) ++ responseWords) s t ∧
        (∀ c, t.slice c = if minMax ∧ ¬written ∧ c = (e - 0x3000) / 16 then { s.slice c with mmTaken := some s.orbStart }
          else s.slice c)

/-- R6, R14, R18, R536 to R540, R546 and R547: a field read and a field write as commands of their own, with what R14's access
codes say; an absent word is flagged with its address, and the windows reach the memories. Model's choices: logs 9, 17, 64.
-/
def Obligations.FieldCommands : Prop :=
  ∀ (a : BitVec 18) (v : Word) (s : State), s.accessible = true → a.toNat < 0x15000 →
    let e := a.toNat
    (0x10000 ≤ e →
      ((if e < 0x14000 then e - 0x10000 ∉ s.progBad else e - 0x14000 ∉ s.scratchBad) →
        exec (.rcRead a) s = .next s) ∧
      ∃ t, exec (.fieldWrite a v) s = .next t ∧
        t = { s with prog := t.prog, progBad := t.progBad, scratch := t.scratch, scratchBad := t.scratchBad } ∧
        (∀ b, Memory.read t.prog b = if e < 0x14000 ∧ b = e - 0x10000 then v else Memory.read s.prog b) ∧
        ∀ b, Memory.read t.scratch b = if 0x14000 ≤ e ∧ b = e - 0x14000 then v else Memory.read s.scratch b) ∧
    (e < 0x10000 → s.absentWord e = true → ∃ t, exec (.rcRead a) s = .next t ∧ exec (.fieldWrite a v) s = .next t ∧
      t = { s with regs := t.regs } ∧ FlagSet F.CAP_ABSENT_FLAG.addr 0 s t ∧ F.CAP_ABSADDR_ADDR.rd t = e) ∧
    (e < 0x10000 → s.absentWord e = false → ∀ w, wordRow e = some w →
      (e ≠ F.TIM_NOWNS_NS.addr → ∃ t, exec (.rcRead a) s = .next t ∧ t = { s with regs := t.regs } ∧
        t.word e = s.word e &&& ~~~w.rc ∧ SameWords [e] s t) ∧
      (0x5000 ≤ e → e < 0x9000 →
        let x := v &&& ~~~s.missingBits e
        ∃ t, exec (.fieldWrite a v) s = .next t ∧ t = { s with regs := t.regs, rwo := t.rwo } ∧
          t.word e = ((s.word e &&& ~~~w.rw) ||| (x &&& w.rw)) &&& ~~~(x &&& w.w1c) ∧ SameWords [e] s t ∧
          ∀ b, sget (fun _ => none) t.rwo b = if b = e ∧ w.rwo ≠ 0 then some x else sget (fun _ => none) s.rwo b)) ∧
    (e < 0x10000 → s.absentWord e = false → wordRow e = none →
      exec (.rcRead a) s = .next s ∧ exec (.fieldWrite a v) s = .next s)

/-- R143 to R146 and R191: SPEND pays g[ga] + operand EU and gives the whole EU left; above 2^24 EU it is refused with RANGE; a1
pays at once or is refused with BUDGET; a program square waits, or is refused above its class's allowance. Model's choices:
log 63. -/
def Obligations.SpendPays : Prop :=
  ∀ (by_ : Issuer) (gd ga : Reg) (eu : BitVec 18) (s : State), s.issuable by_ = true →
    let i := by_.idx
    let c := (s.reg i ga).toNat + eu.toNat
    let v : Word := BitVec.ofNat 32 ((s.bucket - 256 * c) / 256)
    (2 ^ 24 < c → ∃ t, exec (.spend by_ gd ga eu) s = .next t ∧ RefusedWith by_ 0x38 .range 0 0 s t) ∧
    (c ≤ 2 ^ 24 → CanPay by_ c s →
      ∃ t, exec (.spend by_ gd ga eu) s = .next t ∧ Completes by_ true (if gd = 0 then 0 else v) (paid by_ c s) t ∧
        Wrote i gd v s t ∧ KeptFlags i s t) ∧
    (c ≤ 2 ^ 24 → ¬CanPay by_ c s → ∀ side id, by_ = .host side id →
      ∃ t, exec (.spend by_ gd ga eu) s = .next t ∧ RefusedWith by_ 0x38 .budget 0 0 (raiseFlag 0x430 2 s) t) ∧
    (c ≤ 2 ^ 24 → ¬CanPay by_ c s → ∀ n, by_ = .prog n →
      ∃ t, exec (.spend by_ gd ga eu) s = .next t ∧
        if s.allowance i ≠ 0 ∧ s.allowance i < c then RefusedWith by_ 0x38 .budget 0 0 s t
        else ∃ barred, (barred = true ↔ OverAllowance i c s) ∧ WaitsBudget n c barred s t)

/-- R128, R143 to R145: the head of the wait order, where it is a square, gets its reservation and is READY. A square stands in
the order at the priority of its last issue, and waits outside it while its class has no allowance left for it. Model's
choices: log 41. -/
def Claims.BudgetGranted : Prop :=
  ∀ (n : Nat) (s : State), s.coreOn = true → n < 64 → s.debt = 0 →
    let waits := fun (j : Nat) => (s.square j).state = .waitBudget ∧ (s.square j).barred = false ∧
      ¬OverAllowance j (s.square j).want s
    let q := s.square n
    waits n → 256 * q.want ≤ s.available →
    (∀ j, j < 64 → waits j → j ≠ n →
      (s.square j).effPrio.toNat < q.effPrio.toNat ∨ ((s.square j).effPrio = q.effPrio ∧ n < j)) →
    (∀ r ∈ s.hwreqs, r.work.prio s ≤ q.effPrio.toNat) →
    ∃ t, exec .budgetGrant s = .next t ∧ t = { s with squares := t.squares } ∧ SameSquares n s t ∧
      t.square n = { q with state := .ready, resv := some q.want }

/-- R140, R144, R391, R462, R463, R493 and R517: the head of the wait order, where it is a hardware request, pays and its work
starts. -/
def Claims.HardwareRequestGranted : Prop :=
  ∀ (r : HwReq) (l m : List HwReq) (s : State), s.coreOn = true → s.debt = 0 → s.hwreqs = l ++ r :: m →
    256 * r.cost ≤ s.available → (∀ x ∈ l, x.work.idx ≠ r.work.idx) →
    (∀ x ∈ l ++ m, x.work.prio s < r.work.prio s ∨ (x.work.prio s = r.work.prio s ∧ r.work.idx ≤ x.work.idx)) →
    (∀ j, j < 64 → (s.square j).state = .waitBudget → (s.square j).barred = false → ¬OverAllowance j (s.square j).want s →
      (s.square j).effPrio.toNat < r.work.prio s) →
    ∃ t, exec .hwRequestGrant s = .next t ∧
      t = { s with hwreqs := l ++ m, bucket := t.bucket, groups := t.groups, gap := t.gap, mon := t.mon, led := t.led
                   lanes := t.lanes, regs := t.regs } ∧
      t.bucket = s.bucket - 256 * r.cost ∧ SameWords [F.ERR_DUE_LAST.addr] s t ∧
      match r.work with
      | .lwake g => (s.mode ≠ .doze → s.mode ≠ .deep → s.hasFn g = true → (s.group g).st ≠ .active →
          t.group g = { s.group g with exit := some .active } ∧
          (g < 4 → (s.group g).st = .deep → ∀ p ∈ groupPorts g, t.lane p = { s.lane p with freshBp := s.bp })) ∧
          (s.mode = .doze ∨ s.mode = .deep → t.groups = s.groups) ∧ t.gap = s.gap ∧ t.mon = s.mon ∧ t.led = s.led
      | .mon => t.mon = { s.mon with paid := true } ∧ t.gap = s.gap ∧ t.led = s.led ∧ t.groups = s.groups ∧ t.lanes = s.lanes
      | .recal c => t.gap = { s.gap with lane := .adc c (s.bp + 1) } ∧ F.ERR_DUE_LAST.rd t = c % 256 ∧ t.led = s.led ∧
          t.mon = s.mon ∧ t.groups = s.groups ∧ t.lanes = s.lanes
      | .ldiag lamp => t.gap = { s.gap with lane := .led lamp, diagRan := true } ∧ t.led.diag = some lamp ∧
          t.led.diagBp = s.bp ∧ t.mon = s.mon ∧ t.lanes = s.lanes ∧
          (s.hasLed = true → (s.group 10).st ≠ .active → (t.group 10).exit = some .active)
      | .scrub => t.gap = { s.gap with scrub := true } ∧ t.mon = s.mon ∧ t.led = s.led ∧ t.groups = s.groups ∧
          t.lanes = s.lanes

/-- R136 and R137: the refill of one BP is the amount scaled by the hottest valid region reading; it pays the debt first, and the
bucket caps at 2^24 EU. -/
def Claims.BucketRefilled : Prop :=
  ∀ (s : State) (k : Nat), s.coreOn = true →
    let warn := F.PWR_HEAT_TWARN.int s
    let limit := F.PWR_HEAT_TLIMIT.int s
    let valid := fun (r : Nat) => r < 6 ∧ (F.ERR_TEMP_VALID r).is s = true
    ((∀ r, ¬valid r) ∧ k = 256 ∨
      ∃ r, valid r ∧ (∀ x, valid x → (F.ERR_TEMP_T x).int s ≤ (F.ERR_TEMP_T r).int s) ∧ warn < limit ∧
        let T := (F.ERR_TEMP_T r).int s
        (T ≤ warn → k = 256) ∧ (limit ≤ T → k = 0) ∧
          (warn < T → T < limit → (k : Int) = 256 * (limit - T) / (limit - warn))) →
    let r := F.PWR_REFILL_AMOUNT.rd s * k / 256
    ∃ t, exec .bucketRefill s = .next t ∧
      t = { s with debt := s.debt - r, bucket := min (s.bucket + (r - s.debt)) (2 ^ 32) }

/-- The bucket refills, and the head of the wait order is granted. Model's choices: log 41. -/
def Obligations.BudgetIsServed : Prop :=
  Claims.BudgetGranted ∧ Claims.HardwareRequestGranted ∧ Claims.BucketRefilled

/-- R147, R148 and R192: ADMIT runs the three tests on the settings as they will be in effect, and is refused with the number of
the first that fails. -/
def Obligations.AdmitTests : Prop :=
  ∀ (by_ : Issuer) (gd : Reg) (operand : BitVec 18) (s : State), s.issuable by_ = true →
    let std := operand.toNat % 2
    let load := fun (g : Nat) => ((List.range 16).map fun i =>
      if (F.ADC_CFG_EN (16 * g + i)).coming s = 1 then 1 + (F.ADC_CFG_MODE (16 * g + i)).coming s else 0).sum
    let n := (s.chans.filter fun c => (F.ADC_CFG_EN c).coming s == 1).length
    let rates := fun (i : Nat) => (F.PWR_DECL_RATE i).coming s
    let total := rates 0 + rates 1 + rates 2 + rates 3
    let capacity := if s.variant = 2 then (if std = 0 then 8192 else 6144) else (if std = 0 then 16384 else 14336)
    (s.mode ≠ .idle → ∃ t, exec (.admission by_ gd operand) s = .next t ∧ RefusedWith by_ 0x39 .state 0 0 s t) ∧
    (s.mode = .idle → 1 < operand.toNat →
      ∃ t, exec (.admission by_ gd operand) s = .next t ∧ RefusedWith by_ 0x39 .range 0 0 s t) ∧
    (s.mode = .idle → operand.toNat ≤ 1 →
      (∀ g, g < 16 → s.hasGroup g = true → 24 < load g → (∀ h, h < g → s.hasGroup h = true → load h ≤ 24) →
        ∃ t, exec (.admission by_ gd operand) s = .next t ∧ RefusedWith by_ 0x39 .range 1 g s t) ∧
      ((∀ g, g < 16 → s.hasGroup g = true → load g ≤ 24) →
        (rates 2 < sMin n (F.LNK_ORBIT_NB.coming s) →
          ∃ t, exec (.admission by_ gd operand) s = .next t ∧ RefusedWith by_ 0x39 .range 2 0 s t) ∧
        (sMin n (F.LNK_ORBIT_NB.coming s) ≤ rates 2 → capacity < total →
          ∃ t, exec (.admission by_ gd operand) s = .next t ∧ RefusedWith by_ 0x39 .range 3 0 s t) ∧
        (sMin n (F.LNK_ORBIT_NB.coming s) ≤ rates 2 → total ≤ capacity →
          ∃ t, exec (.admission by_ gd operand) s = .next t ∧
            Completes by_ true (if gd = 0 then 0 else BitVec.ofNat 32 total)
              (F.PWR_ADM_ADMITTED.wr 1 (F.PWR_ADM_STD.wr std { s with admDirty := false })) t ∧
            Wrote by_.idx gd (BitVec.ofNat 32 total) s t ∧ KeptFlags by_.idx s t)))

/-- R132 to R135: a raised event is latched into the pending sets of the squares it is meant for whose event mask has its bit, a
repetition counts as an overrun, and a square that waits for it becomes READY. Model's choices: log 8. -/
def Claims.EventLatched : Prop :=
  ∀ (r : Raised) (l : List Raised) (s : State), s.raised = r :: l → s.mode.runs = true →
    ∃ t, exec .eventLatch s = .next t ∧ t = { s with raised := l, squares := t.squares } ∧ t.square 0 = s.square 0 ∧
      (∀ i, 64 ≤ i → t.square i = s.square i) ∧
      ∀ i, 1 ≤ i → i < 64 →
        let q := s.square i
        let hit := match r with | .all _ => True | .one _ j => i = j | .group g => q.tevg.getLsbD g = true
        let bit := match r with | .all e => e.bit | .one e _ => e.bit | .group _ => 5
        let m : BitVec 13 := 1 <<< bit
        let ready := q.state = .waitEvent ∧ q.waitMask &&& m ≠ 0
        (¬hit ∨ q.evmask &&& m = 0 → t.square i = q) ∧
        (hit → q.evmask &&& m ≠ 0 → t.square i = { q with
          evpend := q.evpend ||| m
          evovr := if q.evpend &&& m ≠ 0 ∧ q.evovr ≠ 0xFFFF then q.evovr + 1 else q.evovr
          state := if ready then .ready else q.state
          waitMask := if ready then 0 else q.waitMask })

/-- R132, R133 and Table 5-3: a BP timer counts BP boundaries down to 0, and TIMER is raised for its square once when it has
stepped from 1 to 0; BUNCH is raised once in a BP whose BCID an enabled BUNCH value names. -/
def Claims.TimerAndBunchEvents : Prop :=
  (∀ (sq : Fin 64) (s : State), s.coreOn = true →
    let q := s.square sq
    (q.timerDue = true → ∃ t, exec (.timerExpiry sq) s = .next t ∧
      t = { s with raised := s.raised ++ [.one .timer sq], squares := t.squares } ∧ SameSquares sq s t ∧
      t.square sq = { q with timerDue := false }) ∧
    (q.timerDue = false → exec (.timerExpiry sq) s = .next s) ∧
    (q.bunchEn = true → q.bunch.toNat = s.bcid → q.bunchBp ≠ some s.bp →
      ∃ t, exec (.bunchMatch sq) s = .next t ∧
        t = { s with raised := s.raised ++ [.one .bunch sq], squares := t.squares } ∧ SameSquares sq s t ∧
        t.square sq = { q with bunchBp := some s.bp }) ∧
    (q.bunchEn = false ∨ q.bunch.toNat ≠ s.bcid ∨ q.bunchBp = some s.bp → exec (.bunchMatch sq) s = .next s)) ∧
  ∀ (i n : Nat) (s : State), i < 64 → 1 ≤ n →
    let q := s.square i
    let t := stepTimers n s
    (t.square i).timer.toNat = q.timer.toNat - n ∧
      ((t.square i).timerDue = true ↔ q.timer ≠ 0 ∧ q.timer.toNat ≤ n) ∧
      (q.timerDue = true → .one .timer i ∈ t.raised) ∧
      t = { s with raised := t.raised, squares := t.squares }

/-- Events are raised by timers and BCIDs, and latched into the squares that want them. Model's choices: log 8. -/
def Obligations.EventsAreRaisedAndLatched : Prop :=
  Claims.EventLatched ∧ Claims.TimerAndBunchEvents

/-- R181 and R229: CONV naming a quadrant runs g[ga] BP; a running one takes the new count, and the quadrant wakes. It is refused
where a group of the quadrant has more than 24 streams. Model's choices: logs 5, 40. -/
def Obligations.ConvQuadrantRuns : Prop :=
  (∀ (by_ : Issuer) (ga : Reg) (quad : BitVec 2) (s : State), s.issuable by_ = true →
    let q := quad.toNat
    let n := (s.reg by_.idx ga).toNat
    let r : QuadRun := match s.quadConv q with
      | some r => if r.first ≠ none ∧ r.ended = false then { r with stop := s.bp + 1 + n }
        else { count := n, prev := if r.ended then some (r.first.getD 0, r.stop) else r.prev }
      | none => { count := n }
    let streams := fun (g : Nat) => ((List.range 16).map fun i =>
      if (F.ADC_CFG_EN (16 * g + i)).rd s = 1 then 1 + (F.ADC_CFG_MODE (16 * g + i)).rd s else 0).sum
    let ranged := 1 ≤ n ∧ n ≤ 2 ^ 24 ∧ ∀ g, 4 * q ≤ g → g < 4 * q + 4 → streams g ≤ 24
    (s.hasQuad q = false → ∃ t, exec (.convQuadrant by_ ga quad) s = .next t ∧ RefusedWith by_ 0x30 .absent 0 0 s t) ∧
    (s.hasQuad q = true → s.mode ≠ .idle → s.mode ≠ .test →
      ∃ t, exec (.convQuadrant by_ ga quad) s = .next t ∧ RefusedWith by_ 0x30 .state 0 0 s t) ∧
    (s.hasQuad q = true → s.mode = .idle ∨ s.mode = .test → ¬ranged →
      ∃ t, exec (.convQuadrant by_ ga quad) s = .next t ∧ RefusedWith by_ 0x30 .range 0 0 s t) ∧
    (s.hasQuad q = true → s.mode = .idle ∨ s.mode = .test → ranged →
      ∃ t, exec (.convQuadrant by_ ga quad) s = .next t ∧ Completes by_ true 0 (wakeFn (5 + q) (setQuadConv q (some r) s)) t ∧
        KeptRegs by_.idx s t ∧ KeptFlags by_.idx s t ∧ t.quadConv q = some r ∧ (∀ p, p ≠ q → t.quadConv p = s.quadConv p) ∧
        ((s.group (5 + q)).st ≠ .active → (t.group (5 + q)).exit = some .active))) ∧
  ∀ (quad : Fin 4) (r : QuadRun) (s : State), s.coreOn = true → s.quadConv quad = some r → r.first ≠ none → r.stop ≤ s.bp →
    ∃ t, exec (.convCountEnd quad) s = .next t ∧ t = { s with quadRun := t.quadRun } ∧
      t.quadConv quad = some { r with ended := true } ∧ ∀ p, p ≠ quad.val → t.quadConv p = s.quadConv p

/-- R182 and R493: CONV naming the monitor holds its square until the monitor accepts it; with excitation it is under the claim
rule and pays. The entry then runs once before the regular sequence goes on. Model's choices: logs 5, 56, 65. -/
def Claims.ConvMonitorHolds : Prop :=
  (∀ (by_ : Issuer) (entry : BitVec 5) (s : State), s.issuable by_ = true →
    let e := entry.toNat
    let exc := (F.MON_CONV_EXC e).rd s
    (s.mon.cal ≠ none → ∃ t, exec (.convMonitor by_ entry) s = .next t ∧ RefusedWith by_ 0x30 .state 0 0 s t) ∧
    (s.mon.cal = none → s.monLen ≤ e ∨ exc = 7 →
      ∃ t, exec (.convMonitor by_ entry) s = .next t ∧ RefusedWith by_ 0x30 .range 0 0 s t) ∧
    (s.mon.cal = none → e < s.monLen → exc = 0 →
      ∃ t, exec (.convMonitor by_ entry) s = .next t ∧ Holds by_ (.conv entry) { s with groups := t.groups } t ∧
        ((s.group 9).st ≠ .active → (t.group 9).exit = some .active)) ∧
    (s.mon.cal = none → e < s.monLen → exc ≠ 0 → exc ≠ 7 →
      (s.claimOk by_ = false → ∃ t, exec (.convMonitor by_ entry) s = .next t ∧ RefusedWith by_ 0x30 .claim 0 0 s t) ∧
      (s.claimOk by_ = true → CanPay by_ (s.monCost e) s →
        ∃ t, exec (.convMonitor by_ entry) s = .next t ∧
          Holds by_ (.conv entry) { paid by_ (s.monCost e) s with groups := t.groups } t))) ∧
  ∀ (sq : Fin 64) (e : BitVec 5) (s : State), (s.square sq).held = some (.conv e) → s.monRuns = true →
    ∃ t, exec (.monConvAccepted sq) s = .next t ∧ Finished sq 0 { s with mon := t.mon } t ∧
      let asked := { s.mon with extra := s.mon.extra ++ [e.toNat] }
      t.mon = match s.mon.cur with
        | some r => if r.kind = .regular then { asked with cur := none, stopped := r :: s.mon.stopped } else asked
        | none => asked

/-- R475, R477, R486 to R496: the monitor. An entry is checked and starts; a result is linearised, accumulated, compared and
noted for the LED driver and the interlocks, which take it at the next BP boundary, and the sequence goes on; RUN starts and
stops the regular sequence; a latch clears while no entry of its action is OUT. Model's choices: logs 21, 55, 56. -/
def Claims.MonitorConverts : Prop :=
  (∀ (s : State), s.monRuns = true → s.mon.cur = none →
    let kept := fun (t : State) => t = { s with free := t.free, regs := t.regs, squares := t.squares, bucket := t.bucket
                                                debt := t.debt, hwreqs := t.hwreqs, mon := t.mon }
    let begins := fun (kind : MonKind) (e n : Nat) (t : State) =>
      (F.MON_CMP_BAD e).is t = false ∧ ∃ r, t.mon.cur = some r ∧ r.kind = kind ∧ r.entry = e ∧ r.left = n ∧
        r.conv = s.word (F.MON_CONV_EXC e).addr ∧ r.lin = s.word (F.MON_LIN_CURVE e).addr ∧ r.lo = s.word (F.MON_LO_LO e).addr ∧
        r.hi = s.word (F.MON_HI_HI e).addr ∧ r.cmp = (s.word (F.MON_CMP_HYST e).addr &&& ~~~(0x08000000 : Word))
    let skipped := fun (e : Nat) (t : State) => t.mon.cur = none ∧
      (s.startCheck e = .bad → (F.MON_CMP_BAD e).is t = true ∧ FlagSet 0xC003 3 s t) ∧
      (s.startCheck e = .skip →
        (F.MON_ECNT_SKIP e).rd t = min ((F.MON_ECNT_SKIP e).rd s + s.monCount e) (2 ^ (F.MON_ECNT_SKIP e).width - 1))
    (∀ k, s.mon.inj = some k → k < s.monIlen → (∀ r l, s.mon.stopped = r :: l → r.kind ≠ .injected) →
      ∃ t, exec .monEntryStart s = .next t ∧ kept t ∧
        (s.startCheck (32 + k) = .run → begins .injected (32 + k) (s.monCount (32 + k)) t) ∧
        (s.startCheck (32 + k) ≠ .run → skipped (32 + k) t)) ∧
    (∀ e l, s.mon.inj = none → s.mon.extra = e :: l → e < 32 →
      ∃ t, exec .monEntryStart s = .next t ∧ kept t ∧ t.mon.extra = l ∧
        (s.startCheck e = .run → begins .extra e 1 t) ∧ (s.startCheck e = .bad → skipped e t)) ∧
    (s.mon.inj = none → s.mon.extra = [] → s.mon.stopped = [] → s.mon.seqOn = true →
      let wraps := s.mon.len ≤ s.mon.next ∨ s.mon.next = 0
      let e := if wraps then 0 else s.mon.next
      let len := if wraps then s.monLen else s.mon.len
      len ≠ 0 → e < 32 →
        ∃ t, exec .monEntryStart s = .next t ∧ kept t ∧ t.mon.len = len ∧
          (s.startCheck e = .run → s.excited e = false ∨ s.mon.paid = true →
            begins .regular e (s.monCount e) t ∧ t.mon.paid = false ∧ t.hwreqs = s.hwreqs) ∧
          (s.startCheck e = .run → s.excited e = true → s.mon.paid = false → t.mon.cur = none ∧
            ((∀ r ∈ s.hwreqs, r.work ≠ .mon) → t.hwreqs = s.hwreqs ++ [⟨.mon, s.monCount e * s.monCost e⟩]) ∧
            ((∃ r ∈ s.hwreqs, r.work = .mon) → t.hwreqs = s.hwreqs)) ∧
          (s.startCheck e ≠ .run → skipped e t ∧ t.mon.next = e + 1))) ∧
  (∀ (code : BitVec 24) (r : MonRun) (s : State), s.coreOn = true → s.mode.runs = true → (s.group 9).st = .active →
    s.drained 23 = false → s.mon.cur = some r → r.entry < 40 →
    let e := r.entry
    let v := s.monValue r code.toInt
    let g := 2 ^ (F.MON_CONV_GAIN 0).of r.conv
    let action := (F.MON_CMP_ACTION 0).of r.cmp
    let hyst := 256 * ((F.MON_CMP_HYST 0).of r.cmp : Int)
    let outside := v.v < r.lo.toInt ∨ r.hi.toInt < v.v
    let checks := outside ∧ (F.MON_CMP_OUT e).is s = false ∧ action ≠ 0
    let sum := signedOf 48 ((F.MON_ACC2_SUMH e).rd s * 2 ^ 32 + (F.MON_ACC1_SUML e).rd s) + v.v
    ((F.MON_LIN_CURVE 0).of r.lin = 0 → (F.MON_LIN_POLY 0).of r.lin = 0 → code.toInt ≠ 2 ^ 23 - 1 → code.toInt ≠ -(2 ^ 23) →
      v.v = max (-0x80000000) (min (rne (code.toInt * 1200) (128 * g)) 0x7FFFFFFF)) ∧
    ∃ t, exec (.monResult code) s = .next t ∧
      t = { s with free := s.free + 1, regs := t.regs, groups := t.groups, raised := t.raised
                   bucket := t.bucket, debt := t.debt, refresh := t.refresh, mon := t.mon } ∧
      sget (fun _ => none) t.mon.latest e = some (BitVec.ofInt 32 v.v) ∧
      ((F.MON_ACC0_SAT e).is s = false → (F.MON_ACC0_COUNT e).rd s + 1 < 2 ^ 30 → -(2 ^ 47) ≤ sum → sum < 2 ^ 47 →
        (F.MON_ACC0_COUNT e).rd t = (F.MON_ACC0_COUNT e).rd s + 1 ∧ (F.MON_ACC0_SAT e).is t = false ∧
        (F.MON_ACC1_SUML e).rd t = wrapTo 48 sum % 2 ^ 32 ∧ (F.MON_ACC2_SUMH e).rd t = wrapTo 48 sum / 2 ^ 32) ∧
      (F.MON_CMP_OUT e).is t =
        (if outside then true else (F.MON_CMP_OUT e).is s && !decide (r.lo.toInt + hyst ≤ v.v ∧ v.v ≤ r.hi.toInt - hyst)) ∧
      (checks → t.raised = s.raised ++ [.all .check] ∧ FlagSet 0xC003 2 s t) ∧
      (checks → 2 ≤ action → t.mon.ilkDue = s.mon.ilkDue ++ [(action == 3, e)]) ∧
      (¬checks → t.raised = s.raised) ∧ (¬checks ∨ action < 2 → t.mon.ilkDue = s.mon.ilkDue) ∧
      t.mon.handDue = (if F.MON_CTL_LEDTEN.is s = true ∧ F.MON_CTL_LEDT.rd s = e then some v.v else s.mon.handDue) ∧
      (s.mon.cal ≠ none → t.mon.calStart = some s.bp) ∧
      (v.sat = true → FlagSet 0xC003 1 s t ∧ Counted (F.MON_ECNT_RANGE e) s t) ∧
      (1 < r.left → s.mon.cal = none → r.kind ≠ .regular ∨ t.mon.inj = none →
        t.mon.cur = some { r with left := r.left - 1 }) ∧
      (r.left ≤ 1 → r.kind = .extra → t.mon.cur = none) ∧
      (r.left ≤ 1 → r.kind = .regular → s.mon.seqOn = true →
        t.mon.cur = none ∧ t.mon.next = s.mon.next + 1 ∧ t.mon.paid = false)) ∧
  (∀ (s : State),
    let t := monTurn s
    t.mon.ilkDue = [] ∧ t.mon.handDue = none ∧ (s.mon.ilkDue = [] → s.mon.handDue = none → t = s) ∧
      (∀ v, s.mon.handDue = some v → s.hasLed = true →
        F.LED_TSTAT_VALID.is t = true ∧ F.LED_TSTAT_T.int t = max (-0x8000) (min (rne v 16384) 0x7FFF)) ∧
      ∀ exc e, s.mon.ilkDue = [(exc, e)] → e < 64 →
        let f := if exc then F.MON_ILK_EXC else F.MON_ILK_LED
        f.is t = true ∧ F.MON_ILK_ENTRY.rd t = e ∧ (f.is s = false → FlagSet 0xC003 0 s t) ∧
          (exc = false → t.led.cols = [] ∧ t.led.rowOn = false ∧ t.mon.cur = s.mon.cur) ∧
          (exc = true → ∀ r, s.mon.cur = some r → r.excited = true → t.mon.cur = none ∧
            (F.MON_ECNT_SKIP r.entry).rd t =
              min ((F.MON_ECNT_SKIP r.entry).rd s + r.left) (2 ^ (F.MON_ECNT_SKIP r.entry).width - 1))) ∧
  ∀ (s : State), s.accessible = true →
    (∀ run, ∃ t, exec (.monRunWrite run) s = .next t ∧ F.MON_CTL_RUN.is t = run ∧
      t = { s with regs := t.regs, squares := t.squares, bucket := t.bucket, debt := t.debt, hwreqs := t.hwreqs
                   groups := t.groups, mon := t.mon } ∧
      (F.MON_CTL_RUN.is s = run → t = s) ∧
      (F.MON_CTL_RUN.is s ≠ run → t.mon.seqOn = run ∧ t.mon.next = 0 ∧ t.mon.paid = false ∧
        (∀ r ∈ t.mon.stopped, r.kind ≠ .regular) ∧ (∀ r, t.mon.cur = some r → r.kind = .regular → r.left = 1) ∧
        (run = false → ∀ r ∈ t.hwreqs, r.work ≠ .mon))) ∧
    ∀ value : Word, ∃ t, exec (.monIlkClear value) s = .next t ∧ t = { s with regs := t.regs, led := t.led } ∧
      let held := fun (action : Nat) => ∃ e, e < 40 ∧ (F.MON_CMP_ACTION e).rd s = action ∧ (F.MON_CMP_OUT e).is s = true
      SameWords [F.MON_ILK_LED.addr] s t ∧
        (value.getLsbD 0 = true → ¬held 2 → F.MON_ILK_LED.is t = false) ∧
        (value.getLsbD 0 = false ∨ held 2 → F.MON_ILK_LED.is t = F.MON_ILK_LED.is s) ∧
        (value.getLsbD 1 = true → ¬held 3 → F.MON_ILK_EXC.is t = false) ∧
        (value.getLsbD 1 = false ∨ held 3 → F.MON_ILK_EXC.is t = F.MON_ILK_EXC.is s)

/-- The monitor: CONV, entries, results, RUN and the interlock. Model's choices: logs 5, 21, 55, 56, 65. -/
def Obligations.MonitorConversions : Prop :=
  Claims.ConvMonitorHolds ∧ Claims.MonitorConverts

/-- R93, R96, R183, R245, R246 and R496: CAL of the converters and of the monitor ask for a self-calibration, which begins at a
BP boundary, in IDLE by entering CALIBRATE there. Every CONV of a quadrant ends. The monitor's begins once the result in
progress has ended. Model's choices: logs 39, 40, 54. -/
def Claims.CalStarts : Prop :=
  ∀ (by_ : Issuer) (mask : BitVec 8) (s : State), s.issuable by_ = true →
    let m := if mask = 0 then s.gainsInUse else mask.toNat
    let gains := ((List.range 8).filter fun k => m / 2 ^ k % 2 == 1).length
    let legal := s.mode = .idle ∨ s.mode = .calibrate
    let busy := s.adcCal = true ∨ s.adcAsk = true
    (¬legal ∨ busy → ∃ t, exec (.calConverters by_) s = .next t ∧ RefusedWith by_ 0x31 .state 0 0 s t) ∧
    (legal → ¬busy → CanPay by_ 2700000 s →
      ∃ t, exec (.calConverters by_) s = .next t ∧ SquareFrame by_ true s t ∧ SameSquares by_.idx s t ∧
        Responds by_ (fun id => .ack id 0) s t ∧ KeptRegs by_.idx s t ∧ KeptFlags by_.idx s t ∧
        t.adcAsk = true ∧ t.bgDone = [] ∧ (∀ r ∈ t.hwreqs, ∀ c, r.work ≠ .recal c) ∧
        (∀ q r, t.quadConv q = some r → r.ended = true) ∧
        (∀ q r, s.quadConv q = some r → r.first ≠ none →
          t.quadConv q = some { r with stop := min r.stop (s.bp + 1), ended := true }) ∧
        t = { s with free := t.free, regs := t.regs, quadRun := t.quadRun, squares := t.squares
                     a1 := { s.a1 with wait := t.a1.wait }, rr := t.rr, bucket := t.bucket, hwreqs := t.hwreqs
                     sid := t.sid, gap := t.gap, bgDone := t.bgDone, adcAsk := t.adcAsk }) ∧
    (s.adcAsk = true → ∃ t, startAdcCal s = t ∧ t.adcCal = true ∧ t.adcAsk = false ∧ t.adcStart = s.bp ∧
      F.ADC_CFG0_BUSY.is t = true ∧ (∀ c ∈ s.chans, (F.ADC_STAMP_VALID c).is t = false ∧ (t.slice c).high = false) ∧
      ∀ q, q < 4 → s.hasQuad q = true → (s.group (5 + q)).st ≠ .active → (t.group (5 + q)).exit = some .active) ∧
    (s.mode = .idle → s.adcCal = true ∨ s.mon.cal ≠ none → (modeTurn s).mode = .calibrate ∧ (modeTurn s).target = none) ∧
    (¬legal ∨ s.mon.cal ≠ none → ∃ t, exec (.calMonitor by_ mask) s = .next t ∧ RefusedWith by_ 0x31 .state 0 0 s t) ∧
    (legal → s.mon.cal = none → m = 0 →
      ∃ t, exec (.calMonitor by_ mask) s = .next t ∧ RefusedWith by_ 0x31 .range 0 0 s t) ∧
    (legal → s.mon.cal = none → m ≠ 0 → CanPay by_ (400000 * gains) s →
      ∃ t, exec (.calMonitor by_ mask) s = .next t ∧ SquareFrame by_ true s t ∧ SameSquares by_.idx s t ∧
        Responds by_ (fun id => .ack id 0) s t ∧ KeptRegs by_.idx s t ∧ KeptFlags by_.idx s t ∧
        t.mon = { s.mon with cal := some (BitVec.ofNat 8 m), calStart := if s.mon.cur = none then some s.bp else none } ∧
        F.MON_CALSTAMP_VALID.is t = false ∧ ((s.group 9).st ≠ .active → (t.group 9).exit = some .active) ∧
        t = { s with regs := t.regs, groups := t.groups, squares := t.squares, a1 := { s.a1 with wait := t.a1.wait }, rr := t.rr
                     bucket := t.bucket, sid := t.sid, mon := t.mon })

/-- R97, R183, R242 to R245, R395, R496, R497 and Table 8-5: a self-calibration of the converters ends 720,000 BP after its
start, that of the monitor 1,600,000 BP for each gain after its own, and that of a receiver when it converges: its results
are written together. Model's choices: logs 5, 18. -/
def Claims.CalibrationsEnd : Prop :=
  (∀ (s : State), s.coreOn = true → s.adcCal = true →
    (s.bp < s.adcStart + 720000 → exec .adcSelfcalDone s = .next s) ∧
    (s.adcStart + 720000 ≤ s.bp → ∃ t, exec .adcSelfcalDone s = .next t ∧
      t = { s with free := t.free, regs := t.regs, raised := t.raised, reports := t.reports, seq := t.seq, ledgers := t.ledgers
                   packets := t.packets, nextPid := t.nextPid, waiting := t.waiting, adcCal := false
                   bufErr := t.bufErr, scrubBack := t.scrubBack, served := t.served } ∧
      F.ADC_CFG0_BUSY.is t = false ∧ Raised.all .calDone ∈ t.raised ∧
      (∀ c ∈ s.chans, (F.ADC_STAMP_VALID c).is t = true ∧ (F.ADC_STAMP_BG c).is t = false ∧
        (F.ADC_STAMP_RUNS c).rd t = 0 ∧ (F.ADC_STAMP_TEMP c).rd t = (F.ERR_TEMP_T (c / 64)).rd s) ∧
      Reported s t (.m 8 0xFF s.mode.code s.bcid 0 [0]))) ∧
  (∀ (mask : BitVec 8) (s : State), s.coreOn = true → s.mon.cal = some mask →
    let gains := ((List.range 8).filter fun k => mask.getLsbD k).length
    (s.mon.calStart = none → exec .monSelfcalDone s = .next s) ∧
    (∀ b, s.mon.calStart = some b → s.bp < b + 1600000 * gains → exec .monSelfcalDone s = .next s) ∧
    ∀ b, s.mon.calStart = some b → b + 1600000 * gains ≤ s.bp → ∃ t, exec .monSelfcalDone s = .next t ∧
      t = { s with free := t.free, regs := t.regs, raised := t.raised, reports := t.reports, seq := t.seq, ledgers := t.ledgers
                   packets := t.packets, nextPid := t.nextPid, waiting := t.waiting
                   mon := { s.mon with cal := none, calStart := none }
                   bufErr := t.bufErr, scrubBack := t.scrubBack, served := t.served } ∧
      F.MON_CALSTAMP_VALID.is t = true ∧ F.MON_CALSTAMP_TEMP.rd t = (F.ERR_TEMP_T 5).rd s ∧
      F.MON_STAT_GAINCAL.rd t = Nat.lor (F.MON_STAT_GAINCAL.rd s) mask.toNat ∧ Raised.all .calDone ∈ t.raised ∧
      Reported s t (.m 8 0xFF s.mode.code s.bcid 0 [1])) ∧
  ∀ (p : Port) (width : BitVec 7) (height : BitVec 9) (coef : BitVec 28) (s : State), s.powered p = true →
    ∃ t, exec (.adaptationConverged p width height coef) s = .next t ∧ t = { s with regs := t.regs } ∧
      SameWords [0xB002 + 64 * p.val, 0xB003 + 64 * p.val] s t ∧ t.word (0xB003 + 64 * p.val) = coef.zeroExtend 32 ∧
      (F.LNK_EYE_VALID p).is t = true ∧ (F.LNK_EYE_WIDTH p).rd t = min width.toNat 64 ∧
      (F.LNK_EYE_HEIGHT p).rd t = height.toNat

/-- Self-calibrations start, and end with their results written together. Model's choices: logs 5, 18, 39, 40, 54. -/
def Obligations.CalibrationsStartAndEnd : Prop :=
  Claims.CalStarts ∧ Claims.CalibrationsEnd

/-- R184, R185, R504 and R513: LEDP puts its train into the lowest free slot and pays for all its pulses, and is held while no
slot is free or the driver is in restart. Model's choices: logs 5, 65. -/
def Claims.LedpTakesASlot : Prop :=
  (∀ (by_ : Issuer) (gs ga : Reg) (lamp : BitVec 7) (slow : Bool) (count : BitVec 10) (s : State), s.issuable by_ = true →
    let vs := s.reg by_.idx gs
    let va := s.reg by_.idx ga
    let width := va.toNat % 2 ^ 24
    let code := va.toNat / 2 ^ 24
    let quarters := if slow then 2000 * width else 8 + width
    let ranged := count ≠ 0 ∧ if slow then 1 ≤ width ∧ width ≤ 2000 else width ≤ 152
    let cost := count.toNat * (((85 + 8 * code) * quarters * 33 + 3399999) / 3400000 + 1)
    let legal := s.mode = .idle ∨ s.mode = .stream ∨ s.mode = .capture ∨ s.mode = .test
    let c : Instr := .ledp by_ gs ga lamp slow count
    (s.hasLed = false → ∃ t, exec c s = .next t ∧ RefusedWith by_ 0x32 .absent 0 0 s t) ∧
    (s.hasLed = true → ¬legal → ∃ t, exec c s = .next t ∧ RefusedWith by_ 0x32 .state 0 0 s t) ∧
    (s.hasLed = true → legal → ¬ranged → ∃ t, exec c s = .next t ∧ RefusedWith by_ 0x32 .range 0 0 s t) ∧
    (s.hasLed = true → legal → ranged → s.claimOk by_ = false →
      ∃ t, exec c s = .next t ∧ RefusedWith by_ 0x32 .claim 0 0 s t) ∧
    (s.hasLed = true → legal → ranged → s.claimOk by_ = true → CanPay by_ cost s →
      (∀ k, k < 8 → s.led.slot k = none → (∀ j, j < k → s.led.slot j ≠ none) → s.stoppedAt 24 s.bp = false →
        ∃ t, exec c s = .next t ∧ Completes by_ true 0 { paid by_ cost s with led := t.led, groups := t.groups } t ∧
          KeptRegs by_.idx s t ∧ KeptFlags by_.idx s t ∧
          t.led.slot k = some { lamp := lamp.toNat, code := code, quarters := quarters, slow := slow
                                spacing := vs.toNat / 2 ^ 18, bcid := if vs.toNat % 2 ^ 13 < s.nb then vs.toNat % 2 ^ 13
                                  else vs.toNat % 2 ^ 13 % max 1 s.nb
                                count := count.toNat, order := s.led.accepted } ∧
          (∀ j, j ≠ k → t.led.slot j = s.led.slot j) ∧ t.led.dues = s.led.dues ∧ t.led.cols = s.led.cols ∧
          ((s.group 10).st ≠ .active → (t.group 10).exit = some .active)) ∧
      (s.stoppedAt 24 s.bp = true ∨ (∀ k, k < 8 → s.led.slot k ≠ none) →
        ∃ t, exec c s = .next t ∧ Holds by_ (.ledp lamp slow count vs va) (paid by_ cost s) t))) ∧
  ∀ (sq : Fin 64) (lamp : BitVec 7) (slow : Bool) (count : BitVec 10) (vs va : Word) (k : Nat) (s : State),
    (s.square sq).held = some (.ledp lamp slow count vs va) → s.mode.runs = true → k < 8 → s.led.slot k = none →
    (∀ j, j < k → s.led.slot j ≠ none) → s.stoppedAt 24 s.bp = false →
    ∃ t, exec (.ledpSlotFreed sq) s = .next t ∧ Finished sq 0 (putTrain k lamp.toNat slow count.toNat vs va s) t ∧
      t.led.slot k ≠ none ∧ ∀ j, j ≠ k → t.led.slot j = s.led.slot j

/-- R503 to R519 and Table 18-2: the LED driver. A due pulse fires at a free column of the asserted row, capped and derated
within its column's charge, or is suppressed; it ends its column; a blanking time asserts the row; a diagnostic pulse is
judged. Model's choices: logs 52, 53. -/
def Claims.LampsPulse : Prop :=
  ∀ (s : State),
    let suppressed := fun (f : Fld) (n : Nat) (t : State) => f.rd t = min (f.rd s + n) (2 ^ f.width - 1)
    let kept := fun (t : State) => t = { s with regs := t.regs, gap := t.gap, led := t.led }
    let ready := fun (lamp : Nat) => (s.group 10).st = .active ∧ s.led.rowOn = true ∧ s.led.blanking = false ∧
      s.led.row = lamp / 16 ∧ s.led.col (lamp % 16) = none
    let charged := fun (k q : Nat) => 34 * ledQmax ((s.shadowWord 0x0A).toNat / 8 % 8) < sget (fun _ => 0) s.led.charge k + q
    (s.cyc ≠ 0 → exec .ledPulseFire s = .next s ∧ exec .ledDiagPulse s = .next s) ∧
    (s.cyc = 0 → s.coreOn = true → s.hasLed = true → s.stoppedAt 24 s.bp = false → s.led.dues ≠ [] →
      ∃ t, exec .ledPulseFire s = .next t ∧ kept t ∧
        (s.ledOn = false → t.led.dues = [] ∧ suppressed F.LED_PSTAT3_SUPPOFF s.led.dues.length t) ∧
        (s.ledOn = true → (s.group 10).st ≠ .active ∨ s.led.rowOn = false ∨ s.led.blanking = true →
          t.led.dues = s.led.dues ∧ t.led.cols = s.led.cols) ∧
        ∀ d, s.led.dues = [d] → s.ledOn = true → ready d.lamp →
          let top := min d.code s.ledCap
          let code := top * s.ledScale / 256
          let q := (85 + 8 * code) * d.quarters
          t.led.dues = [] ∧ (top < d.code → FlagSet 0xD008 1 s t) ∧
          (s.ledScale = 0 → suppressed F.LED_PSTAT2_SUPPCUT 1 t ∧ FlagSet 0xD008 5 s t ∧ t.led.cols = s.led.cols) ∧
          (s.ledScale ≠ 0 → charged (d.lamp % 16) q →
            suppressed F.LED_PSTAT2_SUPPQ 1 t ∧ FlagSet 0xD008 2 s t ∧ t.led.cols = s.led.cols) ∧
          (s.ledScale ≠ 0 → ¬charged (d.lamp % 16) q → Counted F.LED_PSTAT0_FIRED s t ∧
            t.led.col (d.lamp % 16) = some ⟨d.lamp, code, d.quarters, d.slow, false⟩ ∧
            (∀ k, k ≠ d.lamp % 16 → t.led.col k = s.led.col k) ∧
            sget (fun _ => 0) t.led.charge (d.lamp % 16) = sget (fun _ => 0) s.led.charge (d.lamp % 16) + q ∧
            (d.bp < s.bp → Counted F.LED_PSTAT1_LATE s t ∧ FlagSet 0xD008 3 s t) ∧
            (code < top → Counted F.LED_PSTAT1_DERATED s t ∧ FlagSet 0xD008 4 s t))) ∧
    (∀ (k : Fin 16) (p : ColPulse), s.led.col k = some p →
      ∃ t, exec (.ledPulseEnd k) s = .next t ∧ kept t ∧ t.led.col k = none ∧ (∀ m, m ≠ k.val → t.led.col m = s.led.col m) ∧
        (p.diag = true → Counted F.LED_PSTAT3_DIAG s t ∧ F.LED_DSTAT_RUNNING.is t = false ∧ F.LED_DSTAT_SINCE.rd t = 0 ∧
          F.LED_DSTAT_DUE.is t = false ∧ (∀ l, s.gap.lane = .led l → t.gap = { s.gap with lane := .quiet })) ∧
        (p.diag = false → t.regs = s.regs ∧ t.gap = s.gap)) ∧
    (s.led.blanking = true → ∃ t, exec .blankingEnd s = .next t ∧
      let u := { s.led with blanking := false, rowOn := true }
      let turns := s.ledOn = true ∧ (s.group 10).st = .active ∧ s.led.cols = []
      t = { s with led := t.led } ∧ (¬turns → t.led = u) ∧
        (turns → firstPulse s.nextPulses = none → t.led = { u with rowOn := false }) ∧
        (turns → ∀ p, firstPulse s.nextPulses = some p →
          t.led = if s.led.row = p.lamp / 16 then u else { u with rowOn := false, row := p.lamp / 16, blanking := true })) ∧
    (∀ lamp, s.led.diag = some lamp → s.bp ≤ s.led.diagBp → exec .ledDiagPulse s = .next s) ∧
    (∀ lamp, s.led.diag = some lamp → s.led.diagBp < s.bp → s.cyc = 0 → s.coreOn = true → s.stoppedAt 24 s.bp = false → lamp < 128 →
      ∃ t, exec .ledDiagPulse s = .next t ∧ kept t ∧
        (s.ledOn = false → t.led.diag = none ∧ suppressed F.LED_PSTAT3_SUPPOFF 1 t) ∧
        (s.ledOn = true → s.ledScale = 0 →
          t.led.diag = none ∧ suppressed F.LED_PSTAT2_SUPPCUT 1 t ∧ FlagSet 0xD008 5 s t) ∧
        (s.ledOn = true → s.ledScale ≠ 0 → ready lamp → charged (lamp % 16) 68000 →
          t.led.diag = none ∧ suppressed F.LED_PSTAT2_SUPPQ 1 t ∧ FlagSet 0xD008 2 s t) ∧
        (s.ledOn = true → s.ledScale ≠ 0 → ready lamp → ¬charged (lamp % 16) 68000 →
          t.led.diag = none ∧ t.led.lastDiag = lamp ∧ t.led.col (lamp % 16) = some ⟨lamp, 0, 1600, false, true⟩ ∧
          F.LED_DSTAT_RUNNING.is t = true ∧ F.LED_DSTAT_LAMP.rd t = lamp)) ∧
    (∀ (lamp : Fin 128) (unregulated : Bool) (volts : BitVec 8) (p : ColPulse), s.led.col (lamp.val % 16) = some p →
      p.lamp = lamp → p.slow = true ∨ p.diag = true →
      ∃ t, exec (.diagResult lamp unregulated volts) s = .next t ∧
        t = { s with regs := t.regs, refresh := t.refresh, led := { s.led with goodAge := t.led.goodAge } } ∧
        let r := if unregulated then 2 else if F.LED_DIAG_VSH.rd s < volts.toNat then 3 else 1
        (F.LED_STATUS_STATUS (lamp.val / 16)).rd t / 4 ^ (lamp.val % 16) % 4 = r ∧ (r ≠ 1 → FlagSet 0xD008 0 s t)) ∧
    (∃ t, exec .ledTempStale s = .next t ∧ t = { s with regs := t.regs } ∧ F.LED_TSTAT_VALID.is t = false ∧
      SameWords [F.LED_TSTAT_VALID.addr] s t ∧ F.LED_TSTAT_T.rd t = F.LED_TSTAT_T.rd s) ∧
    (s.accessible = true → s.hasLed = true →
      ∃ t, exec .ledFlush s = .next t ∧ t.led.slots = [] ∧ t.led.dues = [] ∧ t.led.cols = s.led.cols ∧
        t = { s with led := { s.led with slots := [], dues := [], rowOn := t.led.rowOn, row := t.led.row
                                         blanking := t.led.blanking } })

/-- LEDP queues pulses, and the LED driver fires them within its limits. Model's choices: logs 5, 52, 53, 65. -/
def Obligations.LampsPulse : Prop :=
  Claims.LedpTakesASlot ∧ Claims.LampsPulse

/-- R186, R303, R313 to R315, R322 and R330: MARK raises TRIG and makes the mark record of this BP, whose BCID goes to gd; it is
refused outside STREAM. A window that the mark opens runs from PRE BP before it, as far as they ran in STREAM, to POST BP
after it, where class W can pay for a record of each of its channels. Model's choices: log 45. -/
def Obligations.MarkMakesARecord : Prop :=
  ∀ (by_ : Issuer) (gd : Reg) (openWin : Bool) (tag : BitVec 16) (s : State), s.issuable by_ = true →
    let i := by_.idx
    let v : Word := BitVec.ofNat 32 s.bcid
    let seen := s.marks.filter fun m => m.orbit == s.orbit
    let mseq := seen.length % 65536
    let p := s.wwin s.bp
    let chans := s.windowChans s.bp
    let cost := s.openingCost s.bp (p.1 + p.2)
    let c : Instr := .mark by_ gd openWin tag
    (s.mode ≠ .stream → ∃ t, exec c s = .next t ∧ RefusedWith by_ 0x33 .state 0 0 s t) ∧
    (s.mode = .stream →
      ∃ t, exec c s = .next t ∧ SquareFrame by_ true s t ∧ SameSquares i s t ∧ Wrote i gd v s t ∧ KeptFlags i s t ∧
        Responds by_ (fun id => .ack id (if gd = 0 then 0 else v)) s t ∧ (∃ l, t.raised = s.raised ++ .all .trig :: l) ∧
        t = { s with squares := t.squares, rr := t.rr, a1 := { s.a1 with wait := t.a1.wait }, sid := t.sid, regs := t.regs
                     raised := t.raised, marks := t.marks, wins := t.wins, slices := t.slices, tb := t.tb
                     packets := t.packets, nextPid := t.nextPid, waiting := t.waiting, seq := t.seq, ledgers := t.ledgers
                     free := t.free, bufErr := t.bufErr, scrubBack := t.scrubBack, served := t.served } ∧
        SameWords ([F.ACQ_CREDW_CREDIT.addr, 0x9031, 0x9033] ++ recordWords ++ responseWords) s t ∧
        (∀ n, n < 4 → (t.line n).dues = (s.line n).dues ++
          if (F.TRG_TBDRV_EN n).is s = true ∧ (F.TRG_TBDRV_SRC n).rd s = 1 ∧ s.stoppedAt 25 s.bp = false then [s.bp + 2] else []) ∧
        ((∃ m ∈ seen, m.source = 0 ∧ m.line = 0 ∧ m.bcid = s.bcid) → t.marks = s.marks) ∧
        ((∀ m ∈ seen, ¬(m.source = 0 ∧ m.line = 0 ∧ m.bcid = s.bcid)) →
          t.marks = s.marks ++ [⟨0, 0, s.orbit, s.bcid⟩] ∧
          (openWin = false → t.wins = s.wins ∧ HoldsRec (.mark 0 0 false false s.bcid 0 tag mseq) t) ∧
          (openWin = true → s.wins = [] →
            (((chans.map cost).sum : Int) ≤ s.credit true →
              (∃ w, t.wins = [w] ∧ w.first + s.streamPre s.bp p.1 = s.bp ∧ w.last + 1 = s.bp + p.2 ∧ w.markSeq = mseq ∧
                w.chans = chans ∧ w.starts = [] ∧ ∀ c ∈ chans, sget (fun _ => 0) w.paid c = cost c) ∧
              HoldsRec (.mark 0 0 true false s.bcid 0 tag mseq) t) ∧
            (s.credit true < ((chans.map cost).sum : Int) → t.wins = [] ∧ HoldsRec (.mark 0 0 false true s.bcid 0 tag mseq) t))))

/-- R187, R325 and R326: ARM fixes the effective window and takes free pages for the capture area, or waits for them; it is
refused outside CAPTURE and while a capture is armed. Model's choices: log 47. -/
def Claims.ArmFixesTheWindow : Prop :=
  ∀ (by_ : Issuer) (timeout : BitVec 16) (s : State), s.issuable by_ = true →
    let b := s.capFits
    let post := min (max 1 (F.ACQ_CAPWIN_POST.rd s)) b
    let pre := min (F.ACQ_CAPWIN_PRE.rd s) (b - post)
    let busy := s.cap.st = .waitRel ∨ s.cap.st = .armed ∨ s.cap.st = .post
    let c : Instr := .arm by_ timeout
    let ready : Cap := { s.cap with post := post, pre := pre, timeout := timeout.toNat, buf := [] }
    (s.mode ≠ .capture ∨ busy → ∃ t, exec c s = .next t ∧ RefusedWith by_ 0x34 .state 0 0 s t) ∧
    (s.mode = .capture → ¬busy →
      ∃ t, exec c s = .next t ∧ Completes by_ true 0
          { s with cap := t.cap, regs := t.regs, free := t.free, bufErr := t.bufErr, scrubBack := t.scrubBack } t ∧
        KeptRegs by_.idx s t ∧ KeptFlags by_.idx s t ∧
        SameWords ([F.ACQ_CAPEFF_POST.addr, 0x9031, 0x9035] ++ responseWords) s t ∧
        F.ACQ_CAPEFF_POST.rd t = post ∧ F.ACQ_CAPEFF_PRE.rd t = pre ∧
        (post < F.ACQ_CAPWIN_POST.rd s ∨ pre < F.ACQ_CAPWIN_PRE.rd s → (Fld.mk 0x9031 3 3).is t = true) ∧
        (F.ACQ_CAPWIN_POST.rd s ≤ post → F.ACQ_CAPWIN_PRE.rd s ≤ pre → t.word 0x9031 = s.word 0x9031) ∧
        (s.capPackets = true ∨ s.pagesFor .w s.capArea = false →
          t.cap = { ready with st := .waitRel } ∧ t.bufErr = s.bufErr ∧ t.scrubBack = s.scrubBack) ∧
        (s.capPackets = false → s.pagesFor .w s.capArea = true →
          t.cap = { ready with st := .armed, chain := t.cap.chain, armBp := s.bp } ∧ t.cap.chain.length = s.capArea ∧
          t.cap.chain.Nodup ∧ (∀ p ∈ t.cap.chain, p < 24576 ∧ p ∉ s.usedPages) ∧
          t.bufErr = s.bufErr.filter (fun e => !t.cap.chain.contains (e.1 / 32)) ∧
          t.scrubBack = s.scrubBack.filter (fun k => !t.cap.chain.contains (k / 32))))

/-- R325 to R327, R333, R336, R339 and R341: a capture's area is allocated in free pages once the last one is released; and when
POST BP have been written the capture is reported and sent as W records, and what waited for its write cycles goes on.
Model's choices: logs 47, 74. -/
def Claims.CapturesAreSent : Prop :=
  ∀ (s : State), s.coreOn = true →
    (s.cap.st = .waitRel → s.capPackets = false → s.pagesFor .w s.capArea = true →
      ∃ t, exec .captureAreaAlloc s = .next t ∧
        t = { s with cap := t.cap, free := t.free, bufErr := t.bufErr, scrubBack := t.scrubBack } ∧
        t.cap = { s.cap with st := .armed, chain := t.cap.chain, armBp := s.bp, buf := [] } ∧
        t.cap.chain.length = s.capArea ∧ t.cap.chain.Nodup ∧ (∀ p ∈ t.cap.chain, p < 24576 ∧ p ∉ s.usedPages) ∧
        (∀ k, k / 32 ∈ t.cap.chain → t.errAt k = none) ∧ ∀ k, k / 32 ∉ t.cap.chain → t.errAt k = s.errAt k) ∧
    (s.cap.st = .post → s.cap.trig.bp + s.cap.post + 3 ≤ s.bp →
      ∃ t, exec .captureDone s = .next t ∧
        t.cap = { s.cap with st := t.cap.st, chain := t.cap.chain, buf := [] } ∧
        ((t.cap.st = .sending ∧ t.cap.chain = s.cap.chain) ∨ (t.cap.st = .off ∧ t.cap.chain = [])) ∧
        t = { s with free := t.free, regs := t.regs, raised := t.raised, reports := t.reports, seq := t.seq, cap := t.cap
                     ledgers := t.ledgers, packets := t.packets, nextPid := t.nextPid, waiting := t.waiting
                     bufErr := t.bufErr, scrubBack := t.scrubBack, served := t.served } ∧
        t.scrubBack = [] ∧ (∀ k ∈ s.scrubBack, t.errAt k = none) ∧
        Reported s t (.m 6 0xFF s.mode.code s.bcid 0
          [s.cap.trig.orbit, BitVec.ofNat 32 s.cap.trig.bcid, BitVec.ofNat 32 (s.cap.post * 65536 + s.cap.pre)]) ∧
        ∀ c a r, ((sget (fun _ => []) s.cap.buf c).reverse.filter fun v =>
            Nat.ble s.cap.trig.bp (v.tag.bp + s.cap.pre)) = a :: r →
          HoldsRec (s.wRecord c false true (Nat.blt (s.cap.trig.bp - (s.cap.armBp + 1)) s.cap.pre) 0 a
            (wRun a.tag.bp a.tag.orbit a.tag.bp (a :: r))).r t)

/-- ARM fixes a capture, its area is allocated, and it is sent. Model's choices: logs 47, 74. -/
def Obligations.CapturesAreArmedAndSent : Prop :=
  Claims.ArmFixesTheWindow ∧ Claims.CapturesAreSent

/-- R188, R321 and R520: EMIT makes a program record of g[ga]'s words, waits for its queue, and is refused with RANGE for a
length or an address out of bounds. Model's choices: logs 5, 57, 65. -/
def Claims.EmitMakesARecord : Prop :=
  (∀ (by_ : Issuer) (ga : Reg) (tag : BitVec 6) (n : BitVec 12) (s : State), s.issuable by_ = true →
    let i := by_.idx
    let a := (s.reg i ga).toNat
    let k := n.toNat
    let ws := (List.range k).map fun j => Memory.read s.scratch (a + j)
    let c : Instr := .emit by_ ga tag n
    (k = 0 ∨ 2040 < k ∨ 4096 < a + k → ∃ t, exec c s = .next t ∧ RefusedWith by_ 0x35 .range 0 0 s t) ∧
    (1 ≤ k → k ≤ 2040 → a + k ≤ 4096 → (∀ j, j < k → a + j ∉ s.scratchBad) →
      (∀ u, emitNow i tag ws s = some u →
        ∃ t, exec c s = .next t ∧ Completes by_ true 0 u t ∧ RecordPath s u ∧ KeptRegs i s t ∧ KeptFlags i s t ∧
          HoldsRec (.m 3 i s.mode.code s.bcid tag ws) t) ∧
      (emitNow i tag ws s = none → ∃ t, exec c s = .next t ∧ Holds by_ (.emit tag ws) s t)) ∧
    (1 ≤ k → k ≤ 2040 → a + k ≤ 4096 → (∃ j, j < k ∧ a + j ∈ s.scratchBad) →
      ∃ t, exec c s = .next t ∧ F.ERR_STICKY_CELLUE.is t = true ∧ SameSquares i s t)) ∧
  (∀ (tag : BitVec 6) (ws : List Word) (i : Nat) (s : State), s.ringFills = true ∨ s.portBlocked regionC .m = true →
    emitNow i tag ws s = none) ∧
  ∀ (sq : Fin 64) (tag : BitVec 6) (ws : List Word) (s u : State), (s.square sq).held = some (.emit tag ws) →
    s.mode.runs = true → emitNow sq tag ws s = some u →
    ∃ t, exec (.emitQueueAccept sq) s = .next t ∧ Finished sq 0 u t ∧ HoldsRec (.m 3 sq s.mode.code s.bcid tag ws) t

/-- R85, R307, R310 to R312, R316, R322, R323, R339 and R340: hits and windows become records, records wait for space without
being lost, and an open packet closes after FLUSH BP. Model's choices: logs 45, 70, 74, 75. -/
def Claims.RecordsReachPackets : Prop :=
  (∀ (c : Chan) (h : Hit) (r : List Hit) (l : List Samp) (s : State), s.coreOn = true → s.stoppedAt (c / 16) s.bp = false →
    (s.slice c).waiting = h :: r → s.hitWindow c h = some l →
    let v := windowValues l
    let amp := amplitude (F.ACQ_HWIN_AMODE.at h.tag.bp s == 1) (signedOf 20 (s.freeNow 0).toNat) v.2
    let x := s.slice c
    let pile := h.double || otherEdge x.leads h ((F.ADC_CFG_MODE c).at h.tag.bp s == 1) l
    let full := Rec.h c h.tag.bcid h.fine h.tot amp v.1 pile (x.cut == some h.tag.orbit)
    let w := fun (aged hold stale : Bool) => ({ region := c / 64, cls := .h, tag := h.tag, stale := stale, hold := hold
                                                aged := aged, part := false, r := full } : Waiting)
    let cost := 640 + s.openCharge (w false false false)
    ∃ t, exec (.hRecordComplete c) s = .next t ∧ SameSlices c s t ∧
      t = { s with free := t.free, regs := t.regs, raised := t.raised, seq := t.seq, slices := t.slices, ledgers := t.ledgers
                   packets := t.packets, nextPid := t.nextPid, waiting := t.waiting
                   bufErr := t.bufErr, scrubBack := t.scrubBack, served := t.served } ∧
      (t.slice c).waiting = r ∧
      ((cost : Int) ≤ s.credit false → HoldsRec full t ∧ (t.slice c).cut = none ∧ (t.slice c).acc = x.acc) ∧
      (s.credit false < (cost : Int) → (t.slice c).cut = some h.tag.orbit ∧ (Fld.mk 0x9031 0 0).is t = true ∧
        (s.overShed = false → HoldsRec (.hc c h.tag.bcid (log11 amp.toNat)) t ∧
          (h.tag.orbit = s.orbit → s.drained (c / 16) = false → (t.slice c).acc = { x.acc with demoted := x.acc.demoted + 1 })) ∧
        (s.overShed = true → (Fld.mk 0x9031 2 2).is t = true ∧ t.packets = s.packets ∧ t.waiting = s.waiting ∧
          (h.tag.orbit = s.orbit → s.drained (c / 16) = false → (t.slice c).acc = { x.acc with shed := x.acc.shed + 1 })))) ∧
  (∀ (c : Chan) (pre post : List Window) (w : Window) (a : Samp) (r : List Samp) (s : State), s.coreOn = true →
    s.wins = pre ++ w :: post → (∀ x ∈ pre, c.val ∉ x.chans) → c.val ∈ w.chans →
    let from_ := (sget (fun _ => none) w.starts c).getD w.first
    let l := (s.slice c).ring.reverse.filter fun v => Nat.ble from_ v.tag.bp && Nat.ble v.tag.bp w.last
    l = a :: r →
    let run := wRun a.tag.bp a.tag.orbit a.tag.bp l
    let b := match run.getLast? with | some z => z.tag.bp | none => a.tag.bp
    let late := w.last + 4 < s.bp
    let closes := run.length < l.length ∨ b = w.last ∨ a.tag.bp + 511 ≤ b ∨ late
    let ends := w.last ≤ b ∨ (late ∧ run.length = l.length)
    let rc := s.wRecord c (sget (fun _ => none) w.starts c).isSome false false w.markSeq a run
    let v := { w with paid := sput (fun _ => 0) c (sget (fun _ => 0) w.paid c - 80 * rc.r.size) w.paid }
    ∃ t, exec (.wRecordClose c) s = .next t ∧ (¬closes → t = s) ∧
      t = { s with regs := t.regs, raised := t.raised, seq := t.seq, wins := t.wins, ledgers := t.ledgers
                   packets := t.packets, nextPid := t.nextPid, waiting := t.waiting
                   free := t.free, bufErr := t.bufErr, scrubBack := t.scrubBack, served := t.served } ∧
      (closes → HoldsRec rc.r t ∧
        (ends → t.wins = (pre ++ { v with chans := v.chans.filter fun d => !(d == c.val) } :: post).filter
          fun x => !x.chans.isEmpty) ∧
        (¬ends → t.wins = pre ++ { v with starts := sput (fun _ => none) c (some (b + 1)) v.starts } :: post))) ∧
  (∀ (cls : Cls) (p : Packet) (s : State), s.coreOn = true → s.openPacket cls = some p →
    p.lastBp + max 1 (F.ACQ_METER_FLUSH.rd s) + 1 ≤ s.bp → (∀ x ∈ s.packets, x.pid = p.pid → x = p) →
    ∃ t, exec (.packetCloseIdle cls) s = .next t ∧
      t = { s with raised := t.raised, seq := s.seq + 1, ledgers := t.ledgers, packets := t.packets
                   free := t.free, bufErr := t.bufErr, scrubBack := t.scrubBack, served := t.served } ∧
      ∃ x ∈ t.packets, x.pid = p.pid ∧ x.seq = s.seq ∧ x.recs = p.recs ∧
        (s.creq cls = false → x.st = .complete ∧ x.form = .plain) ∧
        (s.creq cls = true → (∃ e, e < 8 ∧ s.engineUp e = true) → x.st = .queued ∧ x.form = .plain) ∧
        (s.creq cls = true → (∀ e, e < 8 → s.engineUp e = false) → x.st = .complete ∧ x.form = .stored 4 0 0 0 0)) ∧
  ∀ (r : Fin 6) (s : State), s.coreOn = true →
    ∃ t, exec (.recordSpaceGrant r) s = .next t ∧ (s.ringFills = true → t = s) ∧
      t = { s with regs := t.regs, raised := t.raised, seq := t.seq, ledgers := t.ledgers, packets := t.packets
                   nextPid := t.nextPid, waiting := t.waiting
                   free := t.free, bufErr := t.bufErr, scrubBack := t.scrubBack, served := t.served } ∧
      (∀ w ∈ s.waiting, (∀ l, w.r ≠ .trailer l) → HoldsRec w.r t) ∧
      ∀ w, s.waiting = [w] → s.ringFills = false → w.region = r.val → (∀ l, w.r ≠ .trailer l) → s.openPacket w.cls = none →
        s.descFor w.cls = true → (∀ n, n ≤ 64 → s.pagesFor w.cls n = true) → w.r.size ≤ 16000 →
        t.waiting = [] ∧ ∃ p ∈ t.packets, w.r ∈ p.recs

/-- EMIT, hits and windows become records of packets. Model's choices: logs 5, 45, 57, 65, 70, 74, 75. -/
def Obligations.RecordsReachPackets : Prop :=
  Claims.EmitMakesARecord ∧ Claims.RecordsReachPackets

/-- R94 to R101, R190 and Table 4-2: POWER asks for a transition, which is pending until a BP boundary or an orbit start, cancels
a pending entry, or is refused; gd receives the mode code in effect at its issue. The groups that an entry or an exit needs
start to leave their states, as far as their wake is decided. Model's choices: logs 39, 40. -/
def Claims.PowerRequests : Prop :=
  ∀ (by_ : Issuer) (gd : Reg) (target : BitVec 4) (s : State), s.issuable by_ = true →
    let c : Instr := .power by_ gd target
    let v : Word := BitVec.ofNat 32 s.mode.code
    let asks := fun (g : Option Mode) (wakes : List Nat) =>
      ∃ t, exec c s = .next t ∧ t.target = g ∧ SquareFrame by_ true s t ∧ SameSquares by_.idx s t ∧
        Wrote by_.idx gd v s t ∧ KeptFlags by_.idx s t ∧ Responds by_ (fun id => .ack id (if gd = 0 then 0 else v)) s t ∧
        SameWords ([0x430, 0x431] ++ responseWords) s t ∧
        (∀ n ∈ wakes, (s.group n).st ≠ .active → (t.group n).exit = some .active) ∧
        (∀ n, n ∉ wakes ∨ (s.group n).st = .active → t.group n = s.group n) ∧
        t = { s with regs := t.regs, target := t.target, groups := t.groups, squares := t.squares
                     a1 := { s.a1 with wait := t.a1.wait }, rr := t.rr, bucket := t.bucket, debt := t.debt
                     hwreqs := t.hwreqs, sid := t.sid, lanes := t.lanes }
    let quads := ((List.range 4).filter fun q => s.hasQuad q && (List.range 64).any fun i => s.enabled (64 * q + i)).map (· + 5)
    let refusedState := ∃ t, exec c s = .next t ∧ RefusedWith by_ 0x37 .state 0 0 s t
    (12 ≤ target.toNat → ∃ t, exec c s = .next t ∧ RefusedWith by_ 0x37 .range 0 0 s t) ∧
    -- target IDLE
    (target = 4 → s.target = some .idle → refusedState) ∧
    (target = 4 → ∀ m, s.target = some m → m ≠ .idle → asks none []) ∧
    (target = 4 → s.target = none →
      (s.mode = .stream ∨ s.mode = .capture ∨ s.mode = .test → asks (some .idle) []) ∧
      (s.mode = .doze ∨ s.mode = .deep → asks (some .idle) ((List.range 9).filter s.hasFn)) ∧
      (s.mode = .idle ∨ s.mode = .calibrate → refusedState)) ∧
    -- another target
    (target.toNat < 12 → target ≠ 4 → s.target ≠ none → refusedState) ∧
    (s.target = none →
      (target = 6 → if s.mode = .idle ∧ F.PWR_ADM_ADMITTED.is s = true ∧ s.calibrated = true
        then asks (some .stream) (4 :: quads) else refusedState) ∧
      (target = 7 → if s.mode = .idle ∧ (∀ c ∈ s.chans, (F.ADC_STAMP_VALID c).is s = true)
        then asks (some .capture) quads else refusedState) ∧
      (target = 8 → if s.mode = .idle then asks (some .doze) [] else refusedState) ∧
      (target = 9 → if s.mode = .idle ∨ s.mode = .doze then asks (some .deep) [] else refusedState) ∧
      (target = 10 → if s.mode = .idle ∧ s.pins.testen = true then asks (some .test) [] else refusedState) ∧
      (target.toNat < 12 → target.toNat ∉ [4, 6, 7, 8, 9, 10] → refusedState))

/-- R93, R96, R100, R101, R106 and Table 4-2: the transitions of a BP boundary. IDLE begins CALIBRATE for a self-calibration that
has been accepted, which cancels a pending request with a flag and a report, or the entry that is pending and whose groups
are ready; CALIBRATE, CAPTURE, DOZE, DEEP and TEST end in IDLE. At every other boundary the mode stays. Model's choices: logs
39, 40, 60. -/
def Claims.ModesTurn : Prop :=
  ∀ s : State,
    let t := modeTurn s
    let calibrates := s.adcCal = true ∨ s.mon.cal ≠ none
    let awake := ∀ n, n < 9 → s.hasFn n = true → (s.group n).st = .active
    let goes := fun (m : Mode) => t.mode = m ∧ t.target = none
    let quads := ∀ q, q < 4 → s.hasQuad q = true → (∃ i, i < 64 ∧ s.enabled (64 * q + i) = true) → (s.group (5 + q)).st = .active
    let fusing := ∃ i, i < 64 ∧ (s.square i).fusing = true
    let flagged := fun (g m : Mode) => FlagSet 0x40D 2 s t ∧ Reported s t (.m 4 0xFF m.code s.bcid 0 [BitVec.ofNat 32 (16 * g.code + m.code)])
    (s.mode = .idle →
      (calibrates → goes .calibrate ∧ ∀ g, s.target = some g → flagged g .idle) ∧
      (¬calibrates →
        (s.target = some .capture → quads → goes .capture) ∧ (s.target = some .capture → ¬quads → t = s) ∧
        (s.target = some .doze → goes .doze ∧ ∀ n, n < 9 → s.hasFn n = true → (t.group n).exit = none ∨ (t.group n).exit = some .idle) ∧
        (s.target = some .deep → goes .deep ∧ ∀ n, n < 9 → s.hasFn n = true → (t.group n).st = .deep) ∧
        (s.target = some .test → goes .test) ∧
        (s.target = none ∨ s.target = some .stream → t = s))) ∧
    (s.mode = .calibrate → (calibrates → t = s) ∧ (¬calibrates → goes .idle ∧ ∀ g, s.target = some g → flagged g .calibrate)) ∧
    (s.mode = .capture →
      (s.target = some .idle ∧ s.cap.st ≠ .post → goes .idle ∧ t.cap.st ≠ .armed ∧ t.cap.st ≠ .waitRel) ∧
      (s.target ≠ some .idle ∨ s.cap.st = .post → t = s)) ∧
    (s.mode = .doze ∨ s.mode = .deep →
      (s.target = some .idle → (awake → goes .idle) ∧ (¬awake → t = s)) ∧ (s.target = none → t = s)) ∧
    (s.mode = .doze → s.target = some .deep → goes .deep) ∧
    (s.mode = .test →
      (s.target = some .idle ∨ s.testEnd = true → ¬fusing → goes .idle) ∧
      (s.testEnd = true → ¬fusing → ∀ g, s.target = some g → flagged g .test) ∧
      (s.target ≠ some .idle → s.testEnd = false → t = s) ∧ (fusing → t = s)) ∧
    (s.mode = .hold ∨ s.mode = .fuseLoad ∨ s.mode = .search ∨ s.mode = .settle ∨ s.mode = .safe ∨ s.mode = .stream → t = s)

/-- What POWER asks for in each mode, and how the mode turns at a BP boundary. Model's choices: logs 39, 40, 60. -/
def Obligations.PowerTransitions : Prop :=
  Claims.PowerRequests ∧ Claims.ModesTurn

/-- R90, R109 to R115, R398 and Tables 4-4 and 4-5: function groups. An exit that completes leaves the group in its state, as a
returning unit out of DEEP; a group that has been idle for 64 BP moves deeper; a written tolerance takes effect at once, on a
group that is on its way too, and a raised one counts its 64 BP anew. Model's choices: logs 5, 40. -/
def Obligations.PowerGroupsMove : Prop :=
  ∀ (g : Fin 11) (s : State),
    let others := fun (t : State) => ∀ n, n ≠ g.val → t.group n = s.group n
    let x := s.group g
    (∀ e, s.coreOn = true → x.exit = some e →
      ∃ t, exec (.groupExitComplete g) s = .next t ∧ others t ∧ t.group g = { x with st := e, exit := none } ∧
        t = { s with free := t.free, regs := t.regs, groups := t.groups, gap := t.gap, slices := t.slices, fto := t.fto
                     refresh := t.refresh, lanes := t.lanes, led := t.led, portOut := t.portOut } ∧
        (x.st = .deep →
          (g.val < 4 → t.staleBlock (16 + g.val) = true) ∧
          (5 ≤ g.val → g.val < 9 → ∀ i, i < 4 → t.staleBlock (4 * (g.val - 5) + i) = true) ∧
          (g.val = 9 → t.staleBlock 23 = true) ∧ (g.val = 10 → t.staleBlock 24 = true))) ∧
    (s.coreOn = true → s.hasFn g = true → s.fnIdle g = true → x.exit = none → x.st ≠ .off → x.st.code < (s.restState g).code →
      (s.bp < x.since + 64 → exec (.groupIdleTimeout g) s = .next s) ∧
      (x.since + 64 ≤ s.bp →
        ∃ t, exec (.groupIdleTimeout g) s = .next t ∧ others t ∧ t.group g = { x with st := s.restState g, exit := none } ∧
          t = { s with free := t.free, regs := t.regs, groups := t.groups, gap := t.gap, slices := t.slices, fto := t.fto
                       lanes := t.lanes, portOut := t.portOut })) ∧
    (s.fnIdle g = false → exec (.groupIdleTimeout g) s = .next s) ∧
    (s.accessible = true →
      ∀ value : Word, ∃ t, exec (.pwrLtolWrite g value) s = .next t ∧ t = { s with regs := t.regs, groups := t.groups } ∧
        let v := value.toNat % 2 ^ 24
        let bound := x.exit.getD x.st
        let late := (bound = .idle ∧ v < exitIdle g) ∨ (bound = .deep ∧ v < exitDeep g)
        let present := s.coreOn = true ∧ s.hasFn g = true
        let moves := present ∧ late ∧ (t.restState g).code < bound.code
        SameWords [(F.PWR_LTOL_NS g).addr] s t ∧ (F.PWR_LTOL_NS g).rd t = v ∧ others t ∧
          (moves → t.group g = { x with exit := some (t.restState g) }) ∧
          (¬moves → present → (F.PWR_LTOL_NS g).rd s < v → t.group g = { x with since := s.bp }) ∧
          (¬moves → ¬present ∨ v ≤ (F.PWR_LTOL_NS g).rd s → t.groups = s.groups))

/-- R193, R545 and R557: FUSE holds its square while it programs, in TEST only; of the requested bits those that programmed read
1, and gd and Z tell which did not. Model's choices: logs 58, 65. -/
def Claims.FuseProgrammes : Prop :=
  (∀ (by_ : Issuer) (gd ga : Reg) (offset : BitVec 8) (s : State), s.issuable by_ = true →
    let off := offset.toNat
    let c : Instr := .fuse by_ gd ga offset
    (off = 10 → s.isB = true → ∃ t, exec c s = .next t ∧ RefusedWith by_ 0x3B .absent 0 0 s t) ∧
    (¬(off = 10 ∧ s.isB = true) → s.mode ≠ .test → ∃ t, exec c s = .next t ∧ RefusedWith by_ 0x3B .state 0 0 s t) ∧
    (¬(off = 10 ∧ s.isB = true) → s.mode = .test →
      (off < 8 ∨ 13 < off → ∃ t, exec c s = .next t ∧ RefusedWith by_ 0x3B .range 0 0 s t) ∧
      (8 ≤ off → off ≤ 13 → (s.fuseWord 12).getLsbD (off - 8) = true →
        ∃ t, exec c s = .next t ∧ RefusedWith by_ 0x3B .range 0 0 s t) ∧
      (8 ≤ off → off ≤ 13 → (s.fuseWord 12).getLsbD (off - 8) = false →
        ∃ t, exec c s = .next t ∧ Holds by_ (.fuse offset (s.reg by_.idx ga) gd) s t))) ∧
  ∀ (i : Nat) (offset : BitVec 8) (bits burned : Word) (gd : Reg) (s : State), i < 64 →
    (s.square i).held = some (.fuse offset bits gd) → (∀ j, j < i → (s.square j).fusing = false) →
    (s.mode ≠ .test → exec (.fuseProgramDone burned) s = .next s) ∧
    (s.mode = .test →
    let off := offset.toNat
    let new := s.fuseWord off ||| (bits &&& burned &&& BitVec.ofNat 32 (fuseMask off))
    let left := bits &&& ~~~new
    ∃ t, exec (.fuseProgramDone burned) s = .next t ∧
      Finished i (if gd = 0 then 0 else left)
        ((setReg i gd left { s with fuses := t.fuses }).modSquare i fun q => { q with z := left == 0 }) t ∧
      t.fuseWord off = new ∧ (∀ o, o ≠ off → t.fuseWord o = s.fuseWord o) ∧ Wrote i gd left s t)

/-- R96, R555, R556: the pins TESTEN and TRSTN, and the test access port at an edge of TCK. Model's choices: log 20. -/
def Claims.TestAccess : Prop :=
  ∀ (s : State),
    exec .trstnAssert s = .next { s with tap := {} } ∧
    exec .testenRise s = .next { s with pins := { s.pins with testen := true }
                                        tap := { s.tap with drives := s.tap.inst == 3 } } ∧
    (let low := { s with pins := { s.pins with testen := false }, tap := { s.tap with drives := false } };
      (s.mode ≠ .test → s.target ≠ some .test → exec .testenFall s = .next low) ∧
      (s.mode = .test → exec .testenFall s = .next { low with testEnd := true }) ∧
      (s.mode ≠ .test → s.target = some .test → ∃ t, exec .testenFall s = .next t ∧ t.mode = s.mode ∧ t.target = none ∧
        t.pins = low.pins ∧ t.tap = low.tap ∧ FlagSet 0x40D 2 s t ∧
        Reported s t (.m 4 0xFF s.mode.code s.bcid 0 [BitVec.ofNat 32 (160 + s.mode.code)]))) ∧
    ∀ (tms tdi : Bool),
      (s.rst.por = true → exec (.tckRisingEdge tms tdi) s = .next s) ∧
      (s.rst.por = false → ∃ t, exec (.tckRisingEdge tms tdi) s = .next t ∧ t = { s with free := t.free, tap := t.tap } ∧
        let n := s.tap.st.next tms
        t.tap.st = n ∧
        (s.tap.st = .shDr → t.tap.dr = (s.tap.dr ++ [tdi]).drop 1) ∧
        (s.tap.st = .shIr → t.tap.ir = (s.tap.ir ++ [tdi]).drop 1) ∧
        (s.tap.st ≠ .shDr → s.tap.st ≠ .capDr → t.tap.dr = s.tap.dr) ∧
        (s.tap.st = .capDr → s.tap.inst = 1 → t.tap.dr = (List.range 32).map (natBit tapIdcode)) ∧
        (s.tap.st = .capDr → s.tap.inst = 0 → t.tap.dr = [false]) ∧
        t.tap.tdo = (if n = .shDr then t.tap.dr.head? else if n = .shIr then t.tap.ir.head? else none) ∧
        t.tap.inst = (if n = .reset then 1 else if n = .upIr then tapInst t.tap.ir else s.tap.inst) ∧
        (t.tap.drives = true → t.tap.inst = 3 ∨ s.tap.drives = true))

/-- FUSE programs requested bits in TEST; TESTEN, TRSTN and the test access port. Model's choices: logs 20, 58, 65. -/
def Obligations.FusesAndTestAccess : Prop :=
  Claims.FuseProgrammes ∧ Claims.TestAccess

/-- R84 to R90, R189 and Tables 3-7 and 4-3: RESTART starts the restart of a block; the block acknowledges when it has drained,
or is forced after the timeout; its reset begins at a BP boundary, and 8 BP later it resumes at one, stale, with a report.
Model's choices: logs 5, 25, 26, 68. -/
def Obligations.BlocksRestart : Prop :=
  (∀ (by_ : Issuer) (block : BitVec 5) (s : State), s.issuable by_ = true →
    let n := block.toNat
    let busy := s.mode.restartOk = false ∨ s.restarting n = true ∨ (n < 16 ∧ (s.adcCal = true ∨ s.adcAsk = true))
    let c : Instr := .restart by_ block
    (n < 29 → s.hasBlock n = false → ∃ t, exec c s = .next t ∧ RefusedWith by_ 0x36 .absent 0 0 s t) ∧
    (29 ≤ n ∨ s.hasBlock n = true → busy → ∃ t, exec c s = .next t ∧ RefusedWith by_ 0x36 .state 0 0 s t) ∧
    (29 ≤ n → ¬busy → ∃ t, exec c s = .next t ∧ RefusedWith by_ 0x36 .range 0 0 s t) ∧
    (n < 29 → s.hasBlock n = true → ¬busy →
      ∃ t, exec c s = .next t ∧ KeptRegs by_.idx s t ∧ KeptFlags by_.idx s t ∧
        Completes by_ true 0 { s with restarts := s.restarts ++ [{ block := n, stopBp := s.bp + 1 }] } t)) ∧
  ∀ (block : BitVec 5) (s : State), s.coreOn = true →
    let n := block.toNat
    ∀ r, r ∈ s.restarts → r.block = n → (∀ x ∈ s.restarts, x.block = n → x = r) →
    let resets := fun (forced : Bool) (t : State) =>
      (∀ x, x ∈ t.restarts ↔ ∃ y ∈ s.restarts, x = if y.block = n
        then { y with forced := y.forced || forced, hDisc := x.hDisc, wDisc := x.wDisc, resetting := true, resetBp := s.bp, waits := false }
        else y) ∧
        (n = 26 → F.TIM_CTL_STATE.rd t = 0 ∧ t.tim.step = none) ∧
        (n < 16 → ∀ c, s.hasChan c = true → c / 16 = n →
          (t.slice c).openHit = none ∧ (t.slice c).queue = [] ∧ (t.slice c).waiting = [])
    let waits := fun (forced : Bool) (t : State) => ∀ x, x ∈ t.restarts ↔ ∃ y ∈ s.restarts, x = if y.block = n
      then { y with forced := y.forced || forced, hDisc := x.hDisc, wDisc := x.wDisc, waits := true } else y
    -- the steps that begin at a BP boundary
    (s.restarts.filter Restart.waits = [r] → turnRestarts s = nextStep n s) ∧
    (r.resetting = false → let t := nextStep n s
      t = { s with restarts := t.restarts, slices := t.slices, regs := t.regs, tim := t.tim } ∧ resets false t ∧
        SameWords [F.TIM_CTL_STATE.addr] s t ∧ (n ≠ 26 → t.regs = s.regs ∧ t.tim = s.tim) ∧ (16 ≤ n → t.slices = s.slices)) ∧
    (r.resetting = true → let t := nextStep n s
      t = { s with free := t.free, regs := t.regs, restarts := s.restarts.filter fun x => !(x == r), raised := t.raised
                   hwreqs := t.hwreqs, reports := t.reports, sid := t.sid, seq := t.seq, gap := t.gap, slices := t.slices
                   tb := t.tb, ledgers := t.ledgers, packets := t.packets, nextPid := t.nextPid, waiting := t.waiting
                   refresh := t.refresh, mon := t.mon, led := t.led
                   bufErr := t.bufErr, scrubBack := t.scrubBack, served := t.served } ∧
        (n < 29 → t.staleBlock n = true) ∧ FlagSet 0x205 0 s t ∧
        (s.reports + 2 < 64 → HoldsRec (reportRec s 0x0A n (b2n r.forced)) t) ∧
        (n < 16 → ∀ c, s.hasChan c = true → c / 16 = n →
          (t.slice c).from_ = s.bp ∧ (t.slice c).conv = [] ∧ (t.slice c).blk = [] ∧ (F.TDC_STAT_FRESH c).is t = false)) ∧
    -- the commands
    (r.stop ≠ none → r.resetting = false → r.waits = false →
      (s.blockDrained n = false → exec (.quiesceAck block) s = .next s) ∧
      (s.blockDrained n = true →
        (s.cyc = 0 → exec (.quiesceAck block) s = .next (nextStep n s)) ∧
        (s.cyc ≠ 0 → ∃ t, exec (.quiesceAck block) s = .next t ∧ t = { s with restarts := t.restarts } ∧ waits false t)) ∧
      (s.bp < r.stopBp + F.RST_QTIMEOUT_BP.rd s → exec (.quiesceTimeout block) s = .next s) ∧
      (r.stopBp + F.RST_QTIMEOUT_BP.rd s ≤ s.bp → ∃ t, exec (.quiesceTimeout block) s = .next t ∧
        let discarded := if n < 16 then (s.waiting.filter fun w => w.ofGroup n).length else r.hDisc + r.wDisc
        r.mDisc = 0 →
        t = { s with free := t.free, regs := t.regs, restarts := t.restarts, raised := t.raised, reports := t.reports
                     seq := t.seq, tim := t.tim, slices := t.slices, ledgers := t.ledgers, packets := t.packets
                     nextPid := t.nextPid, waiting := t.waiting, jobs := t.jobs, sends := t.sends, led := t.led
                     bufErr := t.bufErr, scrubBack := t.scrubBack, served := t.served, portOut := t.portOut } ∧
        (s.cyc = 0 → resets true t) ∧ (s.cyc ≠ 0 → waits true t) ∧
        (∀ w ∈ t.waiting, n < 16 → w.ofGroup n = false) ∧
        FlagSet 0x205 1 s t ∧ F.RST_LASTLOSS_BLOCK.rd t = n ∧ F.RST_LASTLOSS_RECORDS.rd t = min discarded 0xFFFF ∧
        Reported s t (faultRec s 3 9 n (blockRegion n) (BitVec.ofNat 32 discarded)))) ∧
    (r.resetting = true → r.waits = false →
      (s.bp < r.resetBp + 8 → exec (.blockResetEnd block) s = .next s) ∧
      (r.resetBp + 8 ≤ s.bp →
        (s.cyc = 0 → exec (.blockResetEnd block) s = .next (nextStep n s)) ∧
        (s.cyc ≠ 0 → ∃ t, exec (.blockResetEnd block) s = .next t ∧ t = { s with restarts := t.restarts } ∧ waits false t)))

/-- R406: a fast command acts only where the core clock runs and on the side that is the PLL reference, SNAPSHOT on either side.
Model's choices: log 59. -/
def Obligations.FastCommandsActOnTheReference : Prop :=
  ∀ (side : Side) (s : State),
    (s.coreOn = false ∨ s.clk.ref ≠ some side →
      ∀ c ∈ [Instr.orbit side, .gapBegin side, .gapEnd side, .trigger side, .calstrobe side, .resync side],
        exec c s = .next s) ∧
    (s.coreOn = false → exec (.snapshot side) s = .next s) ∧
    (s.coreOn = true → exec (.snapshot side) s = .next { s with
      sid := { s.sid with snap := s.sid.snap.set side (s.sid.snap.get side ++ s.snapshot false) } })

/-- R13, R14, R98 to R100, R303, R407, R408 and R456: an orbit starts at the wrap of the BCID count, by an ORBIT elsewhere than
in BCID 0, and by a RESYNC outside STREAM; STREAM begins and ends there, and with it open windows end. At the wrap, the BP of
the orbit that were still to come pass first, and the boundary's other work follows. Model's choices: logs 22, 23, 24, 59,
61. -/
def Obligations.OrbitStarts : Prop :=
  ∀ (side : Side) (s : State), s.coreOn = true →
    let needed := fun (n : Nat) => n = 4 ∨ n ∈ s.neededQuads
    let turn := fun (s t : State) =>
      (s.mode = .stream → s.target = some .idle → t.mode = .idle ∧ t.target = none) ∧
      (¬(s.mode = .stream ∧ s.target = some .idle) → ¬(s.mode = .idle ∧ s.target = some .stream) → t.mode = s.mode) ∧
      (s.mode = .idle → s.target = some .stream → s.rwo = [] → s.bgDone = [] → F.PWR_ADM_ADMITTED.is s = true →
        s.calibrated = true → (∀ n, needed n → (s.group n).st = .active) → t.mode = .stream ∧ t.target = none)
    let kept := fun (s t : State) =>
      t.prog = s.prog ∧ t.scratch = s.scratch ∧ t.fuses = s.fuses ∧ t.shadow = s.shadow ∧ t.tm = s.tm ∧ t.pins = s.pins ∧
        t.rst = s.rst ∧ t.portOut = s.portOut ∧ t.mon = s.mon ∧ t.tb = s.tb ∧
        t.wins = if s.mode = .stream ∧ s.target = some .idle
          then (s.wins.map fun w => { w with last := min w.last (s.bp - 1) }).filter (fun w => w.first ≤ w.last) else s.wins
    (s.rst.chipDue = false →
      ∃ n u v, exec .orbitStart s = .next { noteSets s (atBoundary n v) with cycle0 := true } ∧ 1 ≤ n ∧
        u.bp = s.bp + max 1 (s.orbStart + s.nb - s.bp) ∧ u.orbit = s.orbit ∧ u.orbSeen = false ∧ u.orbStart = s.orbStart ∧
        u.rwo = s.rwo ∧ BeginsOrbit (s.orbit + 1) u v ∧ turn u v ∧ kept u v ∧ v.bp = u.bp) ∧
    (s.clk.ref = some side →
      (s.bcid = 0 → exec (.orbit side) s = .next { s with orbSeen := true }) ∧
      (s.bcid ≠ 0 → ∃ t, exec (.orbit side) s = .next t ∧ BeginsOrbit (s.orbit + 1) s t ∧ turn s t ∧ kept s t ∧
        t.orbSeen = true ∧ t.bp = s.bp ∧ (Fld.mk 0xB645 3 3).is t = true) ∧
      (s.mode = .stream → exec (.resync side) s = .next (raiseFlag 0xB645 1 s)) ∧
      (s.mode ≠ .stream → s.bcid = 0 → exec (.resync side) s =
        .next (F.TIM_ORBSTAMP4_ORBIT.wr 0 { s with orbit := 0, orbSeen := true })) ∧
      (s.mode ≠ .stream → s.bcid ≠ 0 → ∃ t, exec (.resync side) s = .next t ∧ BeginsOrbit 0 s t ∧ turn s t ∧ kept s t ∧
        t.orbSeen = true ∧ t.bp = s.bp ∧ (Fld.mk 0xB645 3 3).is t = true))

/-- R141, R263, R265, R409, R461, R462, R465 and R469: GAP_BEGIN and GAP_END, with the requests they raise and withdraw; each is
ignored where it does not fit. Model's choices: logs 54, 59. -/
def Obligations.GapsBeginAndEnd : Prop :=
  ∀ (side : Side) (s : State), s.coreOn = true → s.clk.ref = some side →
    (s.gap.inGap = true → exec (.gapBegin side) s = .next (raiseFlag 0xB645 1 s)) ∧
    (s.gap.inGap = false → exec (.gapEnd side) s = .next (raiseFlag 0xB645 1 s)) ∧
    (s.gap.inGap = false → ∃ t, exec (.gapBegin side) s = .next t ∧
      t = { s with gap := t.gap, hwreqs := t.hwreqs, raised := s.raised ++ [.all .gapBegin], tb := t.tb, regs := t.regs
                   free := t.free } ∧
      SameWords [F.TDC_CALSTAT_RUNNING.addr] s t ∧
      t.gap.inGap = true ∧ t.gap.start = s.bp ∧ t.gap.number = s.gap.begun ∧ t.gap.begun = s.gap.begun + 1 ∧
      (F.ERR_GAPCFG_SCRUBEN.is s = true → (⟨.scrub, 30⟩ : HwReq) ∈ t.hwreqs) ∧
      (∀ r ∈ s.hwreqs, r ∈ t.hwreqs) ∧
      (F.TDC_CALCTL_EN.is s = true → s.gap.ran = false → s.gap.begun = F.ERR_GAPCFG_TDCGAP.rd s →
        F.TDC_CALSTAT_RUNNING.is t = true ∧ t.gap.ran = true ∧
          ∃ q g, t.gap.tdc = some { quads := q, groups := g, start := s.bp, moved := 0, ended := false }) ∧
      (∀ n, n < 4 → (s.line n).align = true → (t.line n).align = false ∧ (t.line n).alignDue = some (s.bp + 8))) ∧
    (s.gap.inGap = true → ∃ t, exec (.gapEnd side) s = .next t ∧
      t = { s with gap := t.gap, hwreqs := s.hwreqs.filter fun r => !r.work.gapBound, raised := s.raised ++ [.all .gapEnd]
                   tb := t.tb, tbCells := t.tbCells, led := t.led, regs := t.regs, slices := t.slices } ∧
      t.gap.inGap = false ∧ t.gap.scrub = false ∧ t.gap.tdc = none ∧ t.gap.lane = .idle ∧
      F.LNK_GAP_LAST.rd t = min (s.bp - s.gap.start) 0xFFFF ∧
      (∀ c b, s.gap.lane = .adc c b → (Fld.mk 0x1F09 0 0).is t = true) ∧
      ((∃ r ∈ s.hwreqs, r.work.gapBound = true) → (Fld.mk 0x430 3 3).is t = true) ∧
      (∀ n d, n < 4 → (s.line n).alignDue = some d → (t.line n).align = true ∧ (t.line n).alignDue = none))

/-- R263 to R265: a calibration run ends after its 48 BP, and is accepted once its gap has lasted 64 BP. Model's choices: logs 5,
54. -/
def Claims.CalibrationRunEnds : Prop :=
  ∀ (r : TdcRun) (s : State), s.coreOn = true → s.gap.tdc = some r →
    (r.ended = false → r.start + 48 ≤ s.bp → ∃ t, exec .tdcRunEnd s = .next t ∧
      t = { s with gap := t.gap, regs := t.regs, tbCells := t.tbCells, slices := t.slices } ∧ F.TDC_CALSTAT_RUNNING.is t = false ∧
      t.gap = { s.gap with tdc := some { r with moved := max r.moved 2, ended := true } }) ∧
    (r.ended = false → s.bp < r.start + 48 → exec .tdcRunEnd s = .next s) ∧
    (r.ended = true → s.gap.inGap = true → s.gap.start + 64 ≤ s.bp → ∃ t, exec .tdcRunAccept s = .next t ∧
      t = { s with gap := t.gap, regs := t.regs } ∧ SameWords [F.TDC_CALSTAT_ACCEPTED.addr] s t ∧
      F.TDC_CALSTAT_ACCEPTED.is t = true ∧ t.gap.tdc = none ∧
      ∃ g, (∀ k, r.groups.getLsbD k = true → g.getLsbD k = true) ∧ t.gap.tdcAccepted = some { r with groups := g }) ∧
    (r.ended = false ∨ s.gap.inGap = false ∨ s.bp < s.gap.start + 64 → exec .tdcRunAccept s = .next s)

/-- R248, R250 and R463: a background run ends after its 48 BP with the temperature of its quadrant, and the lane chooses again,
as it does when the quiet time ends. Model's choices: logs 5, 54. -/
def Claims.LaneServicesEnd : Prop :=
  ∀ (s : State), s.coreOn = true →
    (∀ c start, s.gap.lane = .adc c start → start + 48 ≤ s.bp →
      ∃ t, exec .backgroundRunEnd s = .next t ∧
        t = { s with gap := t.gap, hwreqs := t.hwreqs, free := t.free, bgDone := t.bgDone } ∧
        t.bgDone = (if s.quadState (c / 64) = .active then s.bgDone ++ [(c, (F.ERR_TEMP_T (c / 64)).rd s)] else s.bgDone) ∧
        (t.gap.lane = .idle ∨ t.gap.lane = .waiting) ∧ (∀ r ∈ s.hwreqs, r ∈ t.hwreqs) ∧
        (s.gap.inGap = false → t.gap.lane = .idle ∧ t.hwreqs = s.hwreqs)) ∧
    (s.gap.lane = .quiet →
      ∃ t, exec .quietTimeEnd s = .next t ∧ t = { s with gap := t.gap, hwreqs := t.hwreqs, free := t.free } ∧
        (t.gap.lane = .idle ∨ t.gap.lane = .waiting) ∧ (∀ r ∈ s.hwreqs, r ∈ t.hwreqs) ∧
        (s.gap.inGap = false → t.gap.lane = .idle ∧ t.hwreqs = s.hwreqs))

/-- Calibration runs and the services of the analog lane end. Model's choices: logs 5, 54. -/
def Obligations.GapServicesEnd : Prop :=
  Claims.CalibrationRunEnds ∧ Claims.LaneServicesEnd

/-- R206 to R211, R313 and Table 7-3: a TRIGGER makes a mark in STREAM where commands are enabled as its source; CALSTROBE and
the pulser's BCID fire the pulsers that select them, each with its charge at its fine time, unless it is busy. Model's
choices: logs 45, 59. -/
def Claims.TriggersAndPulsers : Prop :=
  (∀ (side : Side) (s : State), s.coreOn = true → s.clk.ref = some side →
    (F.ACQ_MARKCFG_CMDEN.is s = false ∨ s.mode ≠ .stream → exec (.trigger side) s = .next s) ∧
    (F.ACQ_MARKCFG_CMDEN.is s = true → s.mode = .stream →
      (∀ m ∈ s.marks, ¬(m.orbit = s.orbit ∧ m.source = 1 ∧ m.line = 0 ∧ m.bcid = s.bcid)) →
      ∃ t, exec (.trigger side) s = .next t ∧ (∃ l, t.raised = s.raised ++ .all .trig :: l) ∧
        t.marks = s.marks ++ [⟨1, 0, s.orbit, s.bcid⟩] ∧
        (∃ win thin, HoldsRec (.mark 1 0 win thin s.bcid 0 0 ((s.marks.filter fun m => m.orbit == s.orbit).length % 65536)) t) ∧
        t = { s with regs := t.regs, raised := t.raised, seq := t.seq, slices := t.slices, wins := t.wins, marks := t.marks
                     ledgers := t.ledgers, packets := t.packets, nextPid := t.nextPid, waiting := t.waiting
                     free := t.free, bufErr := t.bufErr, scrubBack := t.scrubBack, served := t.served } ∧
        SameWords ([F.ACQ_CREDW_CREDIT.addr, 0x9031, 0x9033] ++ recordWords) s t)) ∧
  ∀ (s : State), s.coreOn = true →
    let amp := fun (c : Nat) => (F.AFE_PAMP_AMP c).rd s
    let instant := fun (c : Nat) => s.bp * 1024 + (F.AFE_PULSE_FINE c).rd s
    let armed := fun (c : Nat) => s.stagePowered c = true ∧ s.adcCal = false ∧ amp c ≠ 0
    let idle := fun (c : Nat) => ∀ p, (s.slice c).pulse = some p → p.step + 79872 ≤ instant c
    let busy := fun (c : Nat) => ∃ p, (s.slice c).pulse = some p ∧ instant c < p.step + 63488
    let shot := fun (c : Nat) => ({ firing := s.bp, step := instant c, mv := 4 * amp c
                                    charge := if (F.AFE_PULSE_CAP c).is s then 32 * amp c else 2 * amp c
                                    inward := (F.AFE_CFG_POL c).is s } : Pulse)
    let fires := fun (c : Nat) (t : State) =>
      (armed c → idle c → t.slice c = { s.slice c with pulse := some (shot c) }) ∧
      (¬armed c ∨ busy c → t.slice c = s.slice c)
    (∀ side, s.clk.ref = some side →
      ∃ t, exec (.calstrobe side) s = .next t ∧ t = { s with slices := t.slices, free := t.free } ∧
        (∀ c, c ∈ s.chans → (F.AFE_PULSE_SRC c).rd s % 2 = 1 → fires c t) ∧
        ∀ c, c ∉ s.chans ∨ (F.AFE_PULSE_SRC c).rd s % 2 = 0 → t.slice c = s.slice c) ∧
    ∀ (c : Chan), s.hasChan c = true →
      (2 ≤ (F.AFE_PULSE_SRC c).rd s → (F.AFE_PULSE_BCID c).rd s = s.bcid →
        ∃ t, exec (.pulserFire c) s = .next t ∧ t = { s with slices := t.slices, free := t.free } ∧ SameSlices c s t ∧ fires c t) ∧
      ((F.AFE_PULSE_SRC c).rd s < 2 ∨ (F.AFE_PULSE_BCID c).rd s ≠ s.bcid → exec (.pulserFire c) s = .next s)

/-- R296 to R300, R328 and R380: every trigger port that sends carries the frame of the primitives of 12 BP before, and outside
STREAM the empty frame. Model's choices: log 50. -/
def Claims.TriggerFrames : Prop :=
  ∀ (s : State), s.coreOn = true →
    let m := s.tagAgo 12
    ∃ t, exec .triggerFrame s = .next t ∧ t = { s with portOut := t.portOut } ∧
      ∀ p, let b := if s.mode = .stream then s.frameBits (p % 2 == 1) m.bp else (0, 0)
        t.lineOf p =
          if 18 ≤ p ∧ p ≤ 21 ∧ s.sendsOwn p = true then
            let body := packBits [(2, b.1), (8, m.bcid % 256), (106, b.2)]
            some (lineFrame 128 (body * 256 + crcBits 8 7 116 body 0) (s.lineOf p))
          else s.lineOf p

/-- TRIGGER, CALSTROBE, the pulsers and the trigger frames. Model's choices: logs 45, 50, 59. -/
def Obligations.TriggersAndFrames : Prop :=
  Claims.TriggersAndPulsers ∧ Claims.TriggerFrames

/-- R123, R404, R405, R410 to R414, R417 and R420: a downlink frame. A command of two parts goes to square a1's queue, K's ahead
of a Q's of the same core cycle, or is answered DUP or QFULL; a frame that fails its check counts as one and drops what was
open. Model's choices: log 29. -/
def Obligations.DownlinkFrames : Prop :=
  ∀ (side : Side) (hdr : BitVec 2) (fc : BitVec 8) (payload : BitVec 44) (s : State), s.clk.locked.get side = true →
    let p := ctlPort side
    let n := payload.toNat
    let hi : BitVec 16 := BitVec.ofNat 16 (n / 2 ^ 27)
    let lo : BitVec 16 := BitVec.ofNat 16 (n / 2 ^ 11)
    let cmderr := Fld.mk (F.LNK_LSTICKY_CMDERR p).addr 1 1
    let flagged := fun (w b : Nat) (t : State) => (Fld.mk w b b).is t = true
    let kept := fun (t : State) =>
      t = { s with regs := t.regs, clk := t.clk, mode := t.mode, degraded := t.degraded, a1 := t.a1, raised := t.raised
                   reports := t.reports, sid := t.sid, tm := t.tm, seq := t.seq, ledgers := t.ledgers, packets := t.packets
                   nextPid := t.nextPid, waiting := t.waiting, portOut := t.portOut
                   free := t.free, bufErr := t.bufErr, scrubBack := t.scrubBack, served := t.served } ∧
        (s.loopOn p = false → t.portOut = s.portOut)
    (∃ t, exec (.downlinkFrame side false hdr fc payload) s = .next t ∧ kept t ∧ t.a1 = s.a1 ∧
      flagged (F.LNK_STICKY_CODEERR p).addr 1 t ∧ t.sid.part.get side = none ∧
      sget (fun _ => none) t.tm.inbox p = none ∧
      (s.sid.part.get side ≠ none → cmderr.is t = true) ∧
      t.sid.frames.get side = true :: (s.sid.frames.get side).take 1023) ∧
    (∃ t, exec (.downlinkFrame side true hdr fc payload) s = .next t ∧ kept t ∧
      (F.LNK_FRAMES_COUNT p).rd t = ((F.LNK_FRAMES_COUNT p).rd s + 1) % 2 ^ 32 ∧
      t.sid.frames.get side = false :: (s.sid.frames.get side).take 1023 ∧
      (hdr ≠ 2 → t.a1 = s.a1 ∧ t.sid.part.get side = none ∧ (s.sid.part.get side ≠ none → cmderr.is t = true)) ∧
      (hdr = 0 → flagged (F.LNK_LSTICKY_HDRBAD p).addr 0 t) ∧
      (7 < fc.toNat → flagged 0xB645 0 t) ∧
      (hdr = 2 → s.stoppedAt (27 + side.code) s.bp = false →
        (n / 2 ^ 43 = 1 → t.a1 = s.a1 ∧ t.sid.part.get side = some (hi, lo)) ∧
        (n / 2 ^ 43 = 0 → s.sid.part.get side = none → t.a1 = s.a1 ∧ cmderr.is t = true) ∧
        (n / 2 ^ 43 = 0 → ∀ id w, s.sid.part.get side = some (id, w) →
          t.sid.part.get side = none ∧
          (s.mode.runs = false ∨ s.rating side = 0 → t.a1 = s.a1 ∧ t.sid.own = s.sid.own) ∧
          (s.mode.runs = true → s.rating side ≠ 0 →
            (∀ d, s.duplicate side id = some d → t.a1 = s.a1 ∧ flagged 0x1004 3 t ∧
              t.sid.own.get side = s.sid.own.get side ++ [.dup id d.1 d.2]) ∧
            (s.duplicate side id = none → s.a1.queue.length < 64 →
              let c : Cmd := ⟨side, id, w ++ hi, 8 * s.bp + s.cyc⟩
              let tie := fun (l : Cmd) => s.a1.queue.getLast? = some l ∧ side = .k ∧ l.side = .q ∧ l.cycle = c.cycle
              t.sid.own = s.sid.own ∧ ((∀ l, ¬tie l) → t.a1 = { s.a1 with queue := s.a1.queue ++ [c] }) ∧
                ∀ l, tie l → t.a1 = { s.a1 with queue := s.a1.queue.dropLast ++ [c, l] }) ∧
            (s.duplicate side id = none → 64 ≤ s.a1.queue.length → t.a1 = s.a1 ∧ flagged 0x814 0 t ∧
              t.sid.own.get side = s.sid.own.get side ++ [.qfull id]))))) ∧
    (s.clk.locked.get side.other = false → ∀ ok, exec (.downlinkFrame side.other ok hdr fc payload) s = .next s)

/-- R399, R400, R416, R418, R420 and R427: a control transmitter that sends its own stream puts one frame on its line in a BP,
which carries status at BCID 0, and else the first there is of a time message in progress, the side's own responses, its time
message, its snapshot, its mirror responses, and status. Model's choices: log 15. -/
def Claims.UplinkFrames : Prop :=
  ∀ (side : Side) (s : State),
    let p := ctlPort side
    let own := s.sid.own.get side
    let snap := s.sid.snap.get side
    let status := fun (t : State) => Sends p 1 s.statusPayload s t ∧ t = { s with portOut := t.portOut }
    let snapshot := fun (f : SnapFrame) (rest : List SnapFrame) (t : State) =>
      Sends p 2 f.payload.toNat s t ∧ t.sid.snap.get side = rest ∧ t = { s with portOut := t.portOut, sid := t.sid, regs := t.regs } ∧
        (f.last = true → (Fld.mk 0x1004 0 0).is t = true) ∧ (f.last = false → t.regs = s.regs)
    (s.sendsOwn p = false → exec (.uplinkFrame side) s = .next s) ∧
    (s.sendsOwn p = true → ∃ t, exec (.uplinkFrame side) s = .next t ∧
      (s.bcid = 0 → status t) ∧
      (s.bcid ≠ 0 → s.rating side = 0 → (∀ f rest, snap = f :: rest → snapshot f rest t) ∧ (snap = [] → status t)) ∧
      (s.bcid ≠ 0 → s.rating side ≠ 0 →
        (∀ r rest, own = r :: rest → (∀ m, s.sendingAt p = some m → m.done = 0) →
          Sends p 2 (r.payload false) s t ∧
            t = { s with portOut := t.portOut, sid := { s.sid with own := s.sid.own.set side rest } }) ∧
        (∀ m, s.sendingAt p = some m → m.done ≠ 0 ∨ own = [] →
          let c := m.chunk 4
          Sends p 2 (packBits ([(4, 7)] ++ c.1 ++ [(12, 0), (32, c.2)])) s t ∧ t = { s with portOut := t.portOut, tm := t.tm } ∧
            t.sendingAt p = if m.msg.length ≤ m.done + 4 then none else some { m with done := m.done + 4 }) ∧
        (s.sendingAt p = none → own = [] →
          (∀ f rest, snap = f :: rest → snapshot f rest t) ∧
          (snap = [] → ∀ r rest, s.sid.mirror.get side = r :: rest →
            Sends p 2 (r.payload true) s t ∧
              t = { s with portOut := t.portOut, sid := { s.sid with mirror := s.sid.mirror.set side rest } }) ∧
          (snap = [] → s.sid.mirror.get side = [] → status t))))

/-- R378, R399, R433 and R434: a partner port sends the edge map of the BP 6 BP ago with its BCID, and its near-end loop takes
the frame in; a frame that arrives is latched, and a coincidence with the hub's own map of that BP counts, while a bad one
counts as an error. Model's choices: log 15. -/
def Claims.PartnerFrames : Prop :=
  ∀ (side : Side) (s : State),
    let p := partnerPort side
    let delivered := fun (map : BitVec 16) (bcid : Nat) (t : State) =>
      (F.LNK_PEDGE_MAP p).rd t = map.toNat ∧ (F.LNK_PEDGE_BCID p).rd t = bcid ∧
        (F.LNK_FRAMES_COUNT p).rd t = ((F.LNK_FRAMES_COUNT p).rd s + 1) % 2 ^ 32 ∧
        (∀ r, (s.bpHist.take 64).find? (fun r => r.tag.bcid % 256 == bcid) = some r →
          (F.LNK_PCOINC_COUNT p).rd t = if r.map &&& map = 0 then (F.LNK_PCOINC_COUNT p).rd s
            else min ((F.LNK_PCOINC_COUNT p).rd s + 1) (2 ^ (F.LNK_PCOINC_COUNT p).width - 1)) ∧
        ((s.bpHist.take 64).find? (fun r => r.tag.bcid % 256 == bcid) = none →
          FlagSet (F.LNK_LSTICKY_NOMATCH p).addr 3 s t)
    (s.sendsOwn p = false → exec (.partnerFrameSend side) s = .next s) ∧
    (s.sendsOwn p = true → ∀ r, s.bpHist[5]? = some r →
      let head := [(16, r.map.toNat), (8, r.tag.bcid % 256)]
      let sends := fun (hdr : Nat) (tail : List (Nat × Nat)) (t : State) =>
        SendsFrame p 64 (withCrc6 (packBits ([(2, hdr)] ++ head ++ tail))) s t
      let loops := s.nearLoop p = true ∧ (F.LNK_PSTAT_LOCKED p).is s = true
      ∃ t, exec (.partnerFrameSend side) s = .next t ∧ t = { s with portOut := t.portOut, tm := t.tm, regs := t.regs } ∧
        (s.sendingAt p = none → sends 1 [(4, 0), (24, 0)] t ∧ t.tm = s.tm) ∧
        (∀ m, s.sendingAt p = some m → sends 2 ((m.chunk 3).1 ++ [(24, (m.chunk 3).2)]) t ∧
          t.sendingAt p = if m.msg.length ≤ m.done + 3 then none else some { m with done := m.done + 3 }) ∧
        (¬loops → t.regs = s.regs) ∧ (loops → delivered r.map (r.tag.bcid % 256) t)) ∧
    ∀ (ok : Bool) (map : BitVec 16) (bcid : BitVec 8),
      let takes := s.coreOn = true ∧ s.hasPort p = true ∧ (F.LNK_PSTAT_LOCKED p).is s = true ∧ s.nearLoop p = false
      (¬takes → exec (.partnerFrameReceived side map bcid ok) s = .next s) ∧
      (takes → ∃ t, exec (.partnerFrameReceived side map bcid ok) s = .next t ∧
        t = { s with regs := t.regs, portOut := t.portOut, free := t.free } ∧ (s.loopOn p = false → t.portOut = s.portOut) ∧
        (ok = true → delivered map bcid.toNat t) ∧
        (ok = false → FlagSet (F.LNK_STICKY_CODEERR p).addr 1 s t ∧
          SameWords [(F.LNK_STICKY_CODEERR p).addr, (F.LNK_STICKY_CODEERR p).addr + 2] s t))

/-- What an uplink frame and a partner frame carry. Model's choices: log 15. -/
def Obligations.UplinkAndPartnerFrames : Prop :=
  Claims.UplinkFrames ∧ Claims.PartnerFrames

/-- R307 and R319: 64 BP after the end of an orbit its S records and its trailer enter the buffer, or wait to; the trailer waits
where a hit of the orbit has not yielded its record. Model's choices: log 44. -/
def Obligations.LedgersCloseWithATrailer : Prop :=
  ∀ (l : Ledger) (rest : List Ledger) (s : State), s.coreOn = true → s.ledgers = l :: rest → l.ended = true → 64 ≤ l.age →
    (∀ w ∈ s.waiting, ∀ x, w.r ≠ .trailer x) →
    ∃ t, exec .ledgerTrailer s = .next t ∧ (∃ x, x.orbit = l.orbit ∧ HoldsRec (.trailer x) t) ∧
      (∀ c ∈ s.chans, ∀ e ∈ (t.slice c).ended, e.1 ≠ l.orbit) ∧
      (∀ c ∈ s.chans, ∀ e ∈ (s.slice c).ended, e.1 = l.orbit → e.2.count ≠ 0 →
        HoldsRec (.s c { e.2 with hold := s.holdOverlaps l.first l.final }) t) ∧
      ((∃ c, (s.slice c).owes l.orbit = true) → (∃ w ∈ t.waiting, w.r = .trailer l) ∧ ∃ x ∈ t.ledgers, x.orbit = l.orbit) ∧
      t = { s with free := t.free, regs := t.regs, raised := t.raised, seq := t.seq, slices := t.slices, ledgers := t.ledgers
                   packets := t.packets, nextPid := t.nextPid, waiting := t.waiting
                   bufErr := t.bufErr, scrubBack := t.scrubBack, served := t.served }

/-- R204 to R206, R257 to R262, R268 to R270: a leading edge opens a hit at its fine time, or reopens the newest one when it
follows that hit's trailing edge by less than 2.0 ns. The interpolator of the role gives the fine time, or the one that the
role has left while that is busy; an edge in the 2 ns after a change of the threshold is timed at their end. Model's choices:
log 19. -/
def Obligations.LeadingEdgesOpenHits : Prop :=
  ∀ (c : Chan) (raw e : BitVec 7) (near : Bool) (s : State), s.coreOn = true → s.discActive c = true →
    (s.slice c).high = false →
    let x := s.slice c
    let role := s.edgeFine c true raw e
    let stopped := s.stoppedAt (c / 16) s.bp
    ∃ fine last t, exec (.discLeadingEdge c raw e near) s = .next t ∧ fine ≤ 1023 ∧
      (s.discHolds c = false → last = s.bp + (16 * e.toNat - 1) / 1024) ∧
      (s.discHolds c = false → x.relieved = none → fine = role) ∧
      (s.discHolds c = false → ∀ k p, x.relieved = some (true, k) → x.ledAt = some p →
        let old := s.interpFine c k raw e
        (s.bp * 1024 + old < p + 61 → fine = old) ∧ (p + 95 ≤ s.bp * 1024 + old → fine = role)) ∧
      (s.discHolds c = true → 61 ≤ fine ∧ (x.relieved = none → (role < 61 → fine < 95) ∧ (95 ≤ role → fine = role))) ∧
      t = { s with regs := t.regs, slices := t.slices, fto := t.fto, free := t.free
                   edges := if stopped = true then s.edges else s.edges ||| BitVec.ofNat 16 (2 ^ (c.val / 16)) } ∧
      SameSlices c s t ∧ (t.slice c).high = true ∧ Counted (F.AFE_DSTAT0_EDGES c) s t ∧
      SameWords [(F.AFE_DSTAT0_EDGES c).addr, (F.TRG_FTOCNT_COUNT (c / 64)).addr, (F.TDC_HSTAT1_MERGED c).addr] s t ∧
      (stopped = true → (t.slice c).openHit = x.openHit ∧ (t.slice c).queue = x.queue ∧ (t.slice c).acc = x.acc) ∧
      (stopped = false → near = false ∨ x.queue = [] ∨ x.timedOut = true →
        (t.slice c).queue = x.queue ∧ (t.slice c).timedOut = false ∧ (t.slice c).openHit = some
          { tag := s.tag, fine := fine, double := near && x.timedOut, aged := s.aged c, leadTo := last
            live := s.mode == .stream && s.enabled c }) ∧
      (stopped = false → near = true → x.timedOut = false → ∀ n, x.queue.getLast? = some n →
        (t.slice c).queue = x.queue.dropLast ∧ Counted (F.TDC_HSTAT1_MERGED c) s t ∧ (t.slice c).openHit = some
          { tag := n.tag, fine := n.fine, double := true, aged := n.aged || s.aged c, leadTo := n.leadTo, live := n.live
            again := true })

/-- R204, R269 to R275, R303 and R310: a trailing edge, or the time-out 1020 bins after the leading edge, completes a hit into
the slice's queue of eight; a hit leaves the queue 3 BP later, one in a BP. Model's choices: logs 5, 70. -/
def Obligations.HitsAreCompleted : Prop :=
  ∀ (c : Chan) (s : State), s.coreOn = true → s.hasChan c = true →
    let x := s.slice c
    let kept := fun (t : State) => t = { s with regs := t.regs, slices := t.slices, fto := t.fto, free := t.free } ∧
      SameSlices c s t ∧ SameWords [(F.TDC_HSTAT0_HITS c).addr, (F.TDC_HSTAT1_MERGED c).addr] s t
    let done := fun (h : OpenHit) (aged : Bool) (endBin : Nat) (trail : Option (Nat × Nat)) (t : State) =>
      (t.slice c).openHit = none ∧ (h.again = false → Counted (F.TDC_HSTAT0_HITS c) s t) ∧
      (x.queue.length < 8 →
        (t.slice c).queue = x.queue ++ [{ tag := h.tag, fine := h.fine, tot := totOf (endBin - (h.tag.bp * 1024 + h.fine))
                                          double := h.double, aged := h.aged || aged, live := h.live
                                          doneBp := endBin / 1024, leadTo := h.leadTo, trail := trail }]) ∧
      (8 ≤ x.queue.length → ∀ n, x.queue.getLast? = some n →
        (t.slice c).queue = x.queue.dropLast ++ [{ n with
          tot := totOf (endBin - (n.tag.bp * 1024 + n.fine)), double := true, aged := n.aged || h.aged || aged
          doneBp := endBin / 1024, trail := trail }] ∧
        Counted (F.TDC_HSTAT1_MERGED c) s t)
    (∀ raw e, x.high = true → x.relieved = none → s.discHolds c = false →
      let endBin := s.bp * 1024 + s.edgeFine c false raw e
      ∃ t, exec (.discTrailingEdge c raw e) s = .next t ∧ kept t ∧ (t.slice c).high = false ∧
        (x.timedOut = true ∨ s.stoppedAt (c / 16) s.bp = true →
          (t.slice c).openHit = x.openHit ∧ (t.slice c).queue = x.queue) ∧
        (x.timedOut = false → s.stoppedAt (c / 16) s.bp = false →
          (x.openHit = none → (t.slice c).queue = x.queue ∧ Counted (F.TDC_HSTAT1_ORPHAN c) s t) ∧
          (∀ h, x.openHit = some h → endBin ≤ h.tag.bp * 1024 + h.fine + 1020 →
            done h (s.aged c) endBin (some (s.bp, s.bp + (16 * e.toNat - 1) / 1024)) t) ∧
          ∀ h, x.openHit = some h → h.tag.bp * 1024 + h.fine + 1020 < endBin →
            (t.slice c).timedOut = true ∧ done h false (h.tag.bp * 1024 + h.fine + 1020) none t)) ∧
    (∀ h, x.openHit = some h →
      let limit := h.tag.bp * 1024 + h.fine + 1020
      (s.bp * 1024 + s.cyc * 128 + 128 ≤ limit → exec (.hitTimeout c) s = .next s) ∧
      (limit < s.bp * 1024 + s.cyc * 128 + 128 →
        ∃ t, exec (.hitTimeout c) s = .next t ∧ kept t ∧ (t.slice c).high = x.high ∧ (t.slice c).timedOut = true ∧
          done h false limit none t)) ∧
    ∀ h r, x.queue = h :: r →
      (s.bp < h.doneBp + 3 ∨ x.deqBp = some s.bp → exec (.hitDequeue c) s = .next s) ∧
      (h.doneBp + 3 ≤ s.bp → x.deqBp ≠ some s.bp →
        ∃ t, exec (.hitDequeue c) s = .next t ∧ t = { s with slices := t.slices } ∧ SameSlices c s t ∧
          t.slice c = { x with queue := r, deqBp := some s.bp
                               waiting := if h.live && s.hen h.tag.bp c then x.waiting ++ [h] else x.waiting })

/-- R212 to R215, R523 and R524: a slice is quarantined by software, by its stuck detector, by parity errors above PARMAX and by
a lost majority, each with its cause; a 1 written to QUAR ends the quarantine and the slice's group is stale. Model's
choices: log 42. -/
def Obligations.SlicesAreQuarantined : Prop :=
  ∀ (c : Chan) (s : State), s.hasChan c = true →
    let kept := fun (t : State) => t = { s with
      free := t.free, regs := t.regs, raised := t.raised, reports := t.reports, seq := t.seq, slices := t.slices, fto := t.fto
      ledgers := t.ledgers, packets := t.packets, nextPid := t.nextPid, waiting := t.waiting, refresh := t.refresh
      bufErr := t.bufErr, scrubBack := t.scrubBack, served := t.served }
    let reported := fun (cause : Nat) (t : State) => Reported s t (reportRec s 8 c cause)
    let after := fun (k : Nat) (r : Rec) (t : State) => s.reports + k < 64 → HoldsRec r t
    (s.quar c = false →
      (s.accessible = true → s.absentWord (F.AFE_STAT_QREQ c).addr = false →
        ∃ t, exec (.quarantineRequest c) s = .next t ∧ kept t ∧ Quarantined c 1 s t ∧ reported 1 t) ∧
      (s.coreOn = true →
        ((F.AFE_STUCK_BP c).rd s ≠ 0 → (F.AFE_STUCK_BP c).rd s ≤ (s.slice c).highRun →
          ∃ t, exec (.stuckDetect c) s = .next t ∧ kept t ∧ Quarantined c 2 s t ∧ reported 2 t) ∧
        (∀ errors : Word, F.ERR_CFG_PARMAX.rd s < errors.toNat →
          ∃ t, exec (.parityQuarantine c errors) s = .next t ∧ kept t ∧ Quarantined c 3 s t ∧
            Reported s t (faultRec s 2 6 (c / 16) c errors) ∧ after 1 (reportRec s 8 c 3) t) ∧
        ∃ t, exec (.cellNoMajority (.slice c)) s = .next t ∧ kept t ∧ Quarantined c 3 s t ∧
          F.ERR_STICKY_NOMAJ.is t = true ∧ Counted (F.ERR_VOTE_UE (c / 64)) s t ∧
          Reported s t (faultRec s 2 5 (c / 16) c (BitVec.ofNat 32 c)) ∧ after 1 (reportRec s 8 c 3) t)) ∧
    (s.quar c = true → s.accessible = true → s.absentWord (F.AFE_STAT_QUAR c).addr = false →
      ∃ t, exec (.quarantineEnd c) s = .next t ∧ kept t ∧ t.quar c = false ∧ (F.AFE_STAT_QCAUSE c).rd t = 0 ∧
        t.staleBlock (c / 16) = true ∧ t.slices = s.slices ∧ Reported s t (reportRec s 9 c 0))

/-- R216, R218 and R220: a written FTO enable takes effect while the quadrant's fast OR and its 2 ns stretcher are low. -/
def Claims.FtoEnableTakesEffect : Prop :=
  ∀ (n : Fin 4) (s : State), s.coreOn = true → s.hasQuad n = true →
    let now := s.bp * 1024 + s.cyc * 128
    (s.orHigh n = true ∨ (∃ p, (s.ftoOf n).rise = some p ∧ now < p + 61) → exec (.ftoEnableApply n) s = .next s) ∧
    (s.orHigh n = false → (∀ p, (s.ftoOf n).rise = some p → p + 95 ≤ now) →
      ∃ t, exec (.ftoEnableApply n) s = .next t ∧ t = { s with fto := t.fto, free := t.free } ∧
        t.ftoOf n = { s.ftoOf n with en := (F.TRG_FTOCFG_EN n).is s } ∧ ∀ m, m ≠ n.val → t.ftoOf m = s.ftoOf m)

/-- R276, R329 and R330: the lines of the trigger bus. An edge on an armed cell's line is captured; a rising edge after 1 BP low
will be a compensated one after the line's delay; a driver asserts its line for WIDTH BP, 2 BP after its source or 8 BP after
the GAP_BEGIN that follows ALIGN. Model's choices: log 49. -/
def Claims.TriggerBusLines : Prop :=
  ∀ (n : Fin 4) (s : State),
    let x := s.line n
    let other := fun (t : State) => ∀ m, m ≠ n.val → t.line m = s.line m
    let a := (F.TDC_TBCAP_ARM n).addr
    (s.coreOn = true →
      (∀ rising raw e, x.level = rising → exec (.tbLineEdge n rising raw e) s = .next s) ∧
      (∀ rising raw e, x.level ≠ rising →
        let cell := s.tbCell n
        let at_ := s.bp * 64 + (e.toNat - 1)
        let captured := (F.TDC_TBCAP_ARM n).is s = true ∧ (F.TDC_TBCAP_EDGE n).is s ≠ rising
        ∃ t, exec (.tbLineEdge n rising raw e) s = .next t ∧ t = { s with tb := t.tb, regs := t.regs } ∧
          (rising = false → t.line n = { x with level := false, fell := some at_ }) ∧
          (rising = true → (∀ f, x.fell = some f → f + 64 ≤ at_) → t.line n = { x with
            level := true
            edges := x.edges ++ [(at_ + 64 * (F.TRG_TBCOMP_COARSE n).rd s + (F.TRG_TBCOMP_FINE n).rd s) / 64] }) ∧
          (rising = true → (∃ f, x.fell = some f ∧ at_ < f + 64) → t.line n = { x with level := true }) ∧ other t ∧ SameWords [a, a + 1] s t ∧ (¬captured → t.regs = s.regs) ∧
          (captured → (F.TDC_TBCAP_ARM n).is t = false ∧ (F.TDC_TBCAP_VALID n).is t = true ∧
            (F.TDC_TBCAP_AGED n).is t = !cell.fresh ∧ (F.TDC_TBCAP_BCID n).rd t = s.bcid % 8192 ∧
            (F.TDC_TBCAP_FINE n).rd t = cell.fine rising raw e ∧ (F.TDC_TBORB_ORBIT n).rd t = s.orbit.toNat)) ∧
      (∀ d r, x.dues = d :: r → d ≤ s.bp →
        ∃ t, exec (.tbDrive n) s = .next t ∧ t = { s with tb := t.tb } ∧ other t ∧ t.line n = { x with
          dues := r
          driveEnd := if (F.TRG_TBDRV_EN n).is s then max x.driveEnd (s.bp + max 1 ((F.TRG_TBDRV_WIDTH n).rd s)) else x.driveEnd }) ∧
      (∀ d, x.alignDue = some d → d ≤ s.bp →
        ∃ t, exec (.tbAlignPulse n) s = .next t ∧ t = { s with tb := t.tb } ∧ other t ∧ t.line n = { x with
          alignDue := none
          driveEnd := if (F.TRG_TBDRV_EN n).is s then max x.driveEnd (s.bp + max 1 ((F.TRG_TBDRV_WIDTH n).rd s))
            else x.driveEnd })) ∧
    (s.accessible = true →
      (∃ t, exec (.tbAlignWrite n) s = .next t ∧ t = { s with tb := t.tb } ∧ other t ∧ t.line n = { x with align := true }) ∧
      ∀ value : Word, ∃ t, exec (.tbcapArmWrite n value) s = .next t ∧ t = { s with regs := t.regs } ∧ SameWords [a] s t ∧
        (F.TDC_TBCAP_ARM n).is t = value.getLsbD 31 ∧ (F.TDC_TBCAP_EDGE n).is t = value.getLsbD 28 ∧
        (F.TDC_TBCAP_VALID n).is t = ((F.TDC_TBCAP_VALID n).is s && !value.getLsbD 31))

/-- Fast OR enables and the lines of the trigger bus. Model's choices: log 49. -/
def Obligations.OutputsAndTriggerBus : Prop :=
  Claims.FtoEnableTakesEffect ∧ Claims.TriggerBusLines

/-- R85, R292, R294, R313, R314, R327 and R329: the oldest compensated edge of a line, once its BP has come, and the oldest
threshold event of a channel make marks in STREAM and trigger an armed capture, where they are selected; a threshold event
also sets its map bit, counts and raises TEV. Model's choices: logs 47, 48. -/
def Obligations.BusEdgesAndThresholdEvents : Prop :=
  let triggers := fun (g : Tag) (s t : State) =>
    t.cap = { s.cap with st := .post, trig := g, buf := t.cap.buf } ∧ Raised.all .trig ∈ t.raised ∧
      (∀ c, sget (fun _ => []) t.cap.buf c = (sget (fun _ => []) s.cap.buf c).filter fun v => decide (v.tag.bp < g.bp + s.cap.post)) ∧
      F.ACQ_CAPSTAT_BCID.rd t = g.bcid % 8192 ∧ F.ACQ_CAPORB_ORBIT.rd t = g.orbit.toNat
  (∀ (n : Fin 4) (b : Nat) (r : List Nat) (s : State), s.coreOn = true → (s.line n).edges = b :: r →
    let g := s.tagOf b
    let marks := (F.ACQ_MARKCFG_TBEN.rd s).testBit n = true ∧ s.modeAt g.bp = .stream ∧
      ∀ m ∈ s.marks, ¬(m.orbit = g.orbit ∧ m.source = 2 ∧ m.line = n ∧ m.bcid = g.bcid)
    let fires := F.ACQ_CAPCFG_SRC.rd s = 1 ∧ F.ACQ_CAPCFG_TBLINE.rd s = n ∧ s.cap.st = .armed ∧ s.cap.armBp < g.bp
    let line := fun (t : State) => t.line n = { s.line n with edges := r } ∧ ∀ m, m ≠ n.val → t.line m = s.line m
    (s.bp < b → exec (.tbCompensatedEdge n) s = .next s) ∧
    (b ≤ s.bp → s.stoppedAt 25 b = true →
      ∃ t, exec (.tbCompensatedEdge n) s = .next t ∧ t = { s with tb := t.tb } ∧ line t) ∧
    (b ≤ s.bp → s.stoppedAt 25 b = false →
      ∃ t, exec (.tbCompensatedEdge n) s = .next t ∧ line t ∧
        t = { s with regs := t.regs, raised := t.raised, seq := t.seq, slices := t.slices, tb := t.tb, wins := t.wins
                     marks := t.marks, cap := t.cap, ledgers := t.ledgers, packets := t.packets, nextPid := t.nextPid
                     waiting := t.waiting, free := t.free, bufErr := t.bufErr, scrubBack := t.scrubBack, served := t.served } ∧
        (marks → t.marks = s.marks ++ [⟨2, n, g.orbit, g.bcid⟩] ∧ Raised.all .trig ∈ t.raised ∧
          ∃ win thin k, HoldsRec (.mark 2 n win thin g.bcid 0 0 k) t) ∧
        (¬fires → t.cap = s.cap) ∧ (fires → triggers g s t))) ∧
  ∀ (c : Chan) (v : Tev) (r : List Tev) (s : State), s.coreOn = true → (s.slice c).tevs = v :: r →
    let marks := F.ACQ_MARKCFG_TEVCH.rd s = c ∧ F.ACQ_MARKCFG_TEVEN.is s = true ∧ s.modeAt v.tag.bp = .stream ∧
      ∀ m ∈ s.marks, ¬(m.orbit = v.tag.orbit ∧ m.source = 3 ∧ m.line = 0 ∧ m.bcid = v.tag.bcid)
    let fires := F.ACQ_CAPCFG_SRC.rd s ≠ 1 ∧ F.ACQ_CAPCFG_CH.rd s = c ∧ s.cap.st = .armed ∧ s.cap.armBp < v.tag.bp
    (s.bp < v.due → exec (.thresholdEvent c) s = .next s) ∧
    (v.due ≤ s.bp → ∃ t, exec (.thresholdEvent c) s = .next t ∧ (t.slice c).tevs = r ∧
      t = { s with regs := t.regs, raised := t.raised, seq := t.seq, slices := t.slices, tb := t.tb, wins := t.wins
                   marks := t.marks, cap := t.cap, ledgers := t.ledgers, packets := t.packets, nextPid := t.nextPid
                   waiting := t.waiting
                   free := t.free, bufErr := t.bufErr, scrubBack := t.scrubBack, served := t.served } ∧
      ((F.FLT_TEVMAP_MAP (c / 32)).rd t).testBit (c % 32) = true ∧ Counted (F.FLT_TSTAT0_EVENTS c) s t ∧
      (v.seq = true → Raised.group (c / 16) ∈ t.raised) ∧
      (marks → t.marks = s.marks ++ [⟨3, 0, v.tag.orbit, v.tag.bcid⟩] ∧ Raised.all .trig ∈ t.raised ∧
        ∃ win thin k, HoldsRec (.mark 3 0 win thin v.tag.bcid c (if v.falling then 1 else 0) k) t) ∧
      (¬fires → t.cap = s.cap) ∧ (fires → triggers v.tag s t))

/-- R21, R247 and R470: a region's reading of a grid point is written, one for each point; at a BP boundary TEMP is raised for
each quadrant of which a slice has become due. -/
def Obligations.TemperatureReadings : Prop :=
  (∀ (r : Fin 6) (v : BitVec 16) (s : State), s.coreOn = true →
    let seen := sget (fun _ => 0) s.tempSeen r
    let point := (s.bp - s.tempBase) / 1024
    (point ≤ seen → exec (.tempReading r v) s = .next s) ∧
    (seen < point → ∃ t, exec (.tempReading r v) s = .next t ∧ t = { s with regs := t.regs, tempSeen := t.tempSeen } ∧
      (F.ERR_TEMP_VALID r).is t = true ∧ (F.ERR_TEMP_T r).rd t = v.toNat ∧ SameWords [(F.ERR_TEMP_T r).addr] s t ∧
      ∀ q, sget (fun _ => 0) t.tempSeen q = if q = r.val then point else sget (fun _ => 0) s.tempSeen q)) ∧
  ∀ s : State,
    let new := fun (q : Nat) => (quadChans q).any fun c => s.due c && !s.dueSeen.contains c
    let t := raiseTemp s
    t = { s with raised := t.raised, dueSeen := t.dueSeen } ∧ (∀ c, c ∈ t.dueSeen ↔ s.due c = true) ∧
      t.raised = s.raised ++ List.replicate ((List.range 4).filter new).length (.all .temp)

/-- R225 to R238, R251, R315 and R317: the codes of a sampling edge reach the stitcher 2 BP later; the per-core values follow the
factors; two BP on, the edge's corrected samples are delivered. Model's choices: logs 43, 44. -/
def Obligations.SamplesAreDelivered : Prop :=
  ∀ (c : Chan) (codeA codeB : BitVec 14) (s : State), s.coreOn = true → s.hasChan c = true → 2 ≤ s.bpHist.length →
    let e := s.tagAgo 2
    let n := s.convOf c e codeA codeB
    let value := fun (gain : Fld) (off : Fld) (code : BitVec 14) =>
      rne ((gain.at e.bp s : Int) * (16 * ((code.toNat : Int) - 1024) - off.intAt e.bp s)) (16384 * 16)
    let kept := ((s.slice c).conv.filter fun m => Nat.ble e.bp (m.tag.bp + 6))
    let l := if s.converted c e true then n :: kept else kept
    n.xA = value (F.ADC_CALA_GAIN c) (F.ADC_CALA_OFF c) codeA ∧ n.xB = value (F.ADC_CALB_GAIN c) (F.ADC_CALB_OFF c) codeB ∧
    n.xBlow = rne (((F.ADC_RQ_K c).at e.bp s : Int) * n.xB) 2048 ∧
    ∃ t, exec (.correctedSampleDelivered c codeA codeB) s = .next t ∧ SameSlices c s t ∧
      t = { s with regs := t.regs, slices := t.slices, cap := t.cap } ∧ (t.slice c).conv = l ∧
      (s.converted c e true = true ∨ s.converted c e false = true → (F.ADC_ACC0_SAT c).is s = false →
        (F.ADC_ACC0_COUNT c).rd t = (F.ADC_ACC0_COUNT c).rd s + 1 ∨ (F.ADC_ACC0_SAT c).is t = true) ∧
      (s.converted c e true = false → s.converted c e false = false → (F.ADC_ACC0_COUNT c).rd t = (F.ADC_ACC0_COUNT c).rd s) ∧
      ((∀ m ∈ l, m.tag.bp + 2 ≠ e.bp) → (t.slice c).ring = (s.slice c).ring ∧ t.cap = s.cap) ∧
      ∀ m, l.find? (fun m => m.tag.bp + 2 == e.bp) = some m →
        (∀ v ∈ m.samples l, v ∈ (t.slice c).ring) ∧
        (s.modeAt m.tag.bp = .stream → m.tag.orbit = s.orbit → s.drained (c / 16) = false →
          (t.slice c).acc.count = (s.slice c).acc.count + (m.samples l).length)

/-- R65 to R73, R76, R93, R96, R330, Tables 3-1, 3-2 and 3-9: the sources. A source of reach CHIP leaves the machine as after
reset but for the fuses, the pins and the counts of the model; reach CORE clears all but what Table 3-2 keeps; reach CONTROL
clears the squares, the queue of a1 and a pending transition, and lets go of the trigger bus. Every reach forces the outputs,
and none touches the fuses where no FUSE is cut short. Model's choices: logs 6, 60, 67. -/
def Obligations.SourcesReset : Prop :=
  let cancelled := fun (s t : State) => (∀ g, s.target = some g → (Fld.mk 0x40D 2 2).is t = true) ∧ t.target = none ∧
    ((∀ i, (s.square i).fusing = false) → t.fuses = s.fuses) ∧ ∀ o, t.fuseWord o &&& s.fuseWord o = s.fuseWord o
  (∀ (vdd vdda vddio : Bool) (s : State), (vdd || vdda || vddio) = true →
    let chip := fun (por pin : Bool) (tap : Tap) (t : State) =>
      t = { State.reset with
        pending := s.pending, free := t.free, bp := s.bp, fuses := t.fuses, shadow := s.shadow, orbStart := s.orbStart
        orbSeen := s.orbSeen, scrubProg := s.scrubProg, scrubScratch := s.scrubScratch, nextPid := t.nextPid
        setNow := s.setNow, tempBase := s.tempBase, tempSeen := s.tempSeen, adcStart := s.adcStart
        pins := { s.pins with forcing := true }, rst := { por := por, pin := pin, reach := some .chip }
        clk := { act := s.clk.act }, tap := tap, regs := t.regs, raised := t.raised, packets := t.packets
        waiting := t.waiting, reports := t.reports, seq := t.seq, bufErr := t.bufErr, scrubBack := t.scrubBack, served := t.served } ∧
      cancelled s t ∧ F.RST_CAUSE_REACH.rd t = 3 ∧
      (s.target = none → t.packets = [] ∧ t.waiting = [] ∧ t.reports = 0 ∧ t.seq = 0 ∧ t.bufErr = []) ∧
      ∀ a, a ∉ [F.RST_CAUSE_REACH.addr, 0x205, 0x208, 0x40D, 0x410] ++ recordWords → t.word a = wordReset a
    (∃ t, exec (.porAssert vdd vdda vddio) s = .next t ∧ chip true s.rst.pin {} t ∧
      (vdd = true → F.RST_CAUSE_POR_VDD.is t = true) ∧ (vdda = true → F.RST_CAUSE_POR_VDDA.is t = true) ∧
      (vddio = true → F.RST_CAUSE_POR_VDDIO.is t = true)) ∧
    (s.rst.pin = false → s.pinReach = .chip →
      ∃ t, exec .rstnAssert s = .next t ∧ chip s.rst.por true s.tap t ∧ F.RST_CAUSE_PIN.is t = true)) ∧
  ∀ (s : State), s.rst.pin = false → s.episode = false →
    (s.pinReach = .core →
      ∃ t, exec .rstnAssert s = .next t ∧ cancelled s t ∧ t.mode = .hold ∧ t.pins = { s.pins with forcing := true } ∧
        t.groups = [] ∧ t.squares = [] ∧ t.a1 = {} ∧ t.scratch = [] ∧ t.slices = [] ∧ t.rwo.length ≤ 1 ∧
        (t.sid.live = s.sid.live → s.target = none → t.packets = [] ∧ t.waiting = [] ∧ t.seq = s.seq) ∧
        t.prog = s.prog ∧ t.progBad = s.progBad ∧ t.shadow = s.shadow ∧ t.tim = s.tim ∧
        t.orbit = s.orbit ∧ t.bcid = s.bcid ∧ t.tap = s.tap ∧
        F.RST_CAUSE_REACH.rd t = 2 ∧ F.RST_CAUSE_PIN.is t = true ∧
        ∀ a, 0x2000 ≤ a → a < 0xA000 → t.word a = if keptByCore a then s.word a else wordReset a) ∧
    (s.pinReach = .control →
      ∃ t, exec .rstnAssert s = .next t ∧ cancelled s t ∧ (∀ n, t.line n = { s.line n with dues := [], driveEnd := 0 }) ∧
        Settles { s with squares := [], a1 := {}, rr := [], target := none, pins := { s.pins with forcing := true }
                         fuses := t.fuses, tb := t.tb
                         rst := { s.rst with pin := true, reach := some .control, starting := false, finish := false
                                             stayed := s.clk.locked, pllKept := s.clk.pllLock } } t ∧
        F.RST_CAUSE_REACH.rd t = 1 ∧ F.RST_CAUSE_PIN.is t = true)

/-- R43, R44, R59, R72, R76, R78, R80, R83, R109, R397, R420, R542, R579 and Table 4-2: the start sequence of each reach, from
the release of the last source to IDLE. A warm start of reach CORE keeps the core clock only where a control port and the PLL
have stayed locked through the episode. Model's choices: logs 6, 60. -/
def Obligations.StartSequenceRuns : Prop :=
  (∀ (s : State),
    let latched := { s.pins with setcode := s.pins.clkset }
    let released := fun (pin por : Bool) (t : State) =>
      Settles { s with pins := latched
                       rst := { s.rst with por := por, pin := pin, starting := true, initBp := t.rst.initBp } } t ∧
        (s.rst.reach = some .chip → t.mode = .fuseLoad ∧ F.RST_STATUS_STEP.rd t = 1) ∧
        (s.rst.reach = some .core → s.mode ≠ .safe →
          let kept := s.coreOn = true ∧ s.clk.ref ≠ none ∧ s.rst.pllKept = true ∧ (s.rst.stayed.k = true ∨ s.rst.stayed.q = true)
          (kept → t.mode = .hold ∧ F.RST_STATUS_STEP.rd t = 2 ∧ t.rst.initBp = s.bp) ∧
          (¬kept → t.mode = .search ∧ F.RST_STATUS_STEP.rd t = 3 ∧ t.coreOn = false ∧ t.clk.pllLock = false)) ∧
        (s.rst.reach = some .control → s.mode ≠ .settle → F.RST_STATUS_STEP.rd t = 5)
    (s.rst.por = true → s.rst.pin = true →
      exec .porRelease s = .next { s with rst := { s.rst with por := false } } ∧
      exec .rstnRelease s = .next { s with rst := { s.rst with pin := false } }) ∧
    (s.rst.por = true → s.rst.pin = false → ∃ t, exec .porRelease s = .next t ∧ released false false t) ∧
    (s.rst.por = false → s.rst.pin = true → ∃ t, exec .rstnRelease s = .next t ∧ released false false t)) ∧
  (∀ (s : State), s.mode = .fuseLoad →
    (F.RST_STATUS_STEP.rd s = 1 → ∃ t, exec .fuseLoadDone s = .next t ∧ Settles { s with shadow := s.fuses } t ∧
      t.mode = .fuseLoad ∧ F.RST_STATUS_STEP.rd t = 2) ∧
    (F.RST_STATUS_STEP.rd s = 2 → ∃ t, exec .memoryInitDone s = .next t ∧ t.mode = .search ∧ F.RST_STATUS_STEP.rd t = 3 ∧
      Settles { s with prog := [], progBad := [], scratch := [], scratchBad := [], jobs := [], sends := [], cap := {}
                       wins := [], marks := [], revived := ⟨false, false⟩ } t)) ∧
  (∀ (s : State), s.mode = .settle → s.clk.pllLock = true → s.clk.ref ≠ none → s.topClaim ≠ 0 →
    (s.clk.count ≠ s.clk.ref → exec .coreClockRelease s = .next s) ∧
    (s.clk.count = s.clk.ref →
      ∃ t, exec .coreClockRelease s = .next t ∧ t.clk.settled = true ∧ (∀ r, r < 6 → (F.ERR_TEMP_VALID r).is t = false) ∧
        (s.rst.reach = some .chip → t.mode = .idle ∧ F.RST_STATUS_STEP.rd t = 0 ∧
          Settles { s with cyc := 0, bcid := 0, orbit := 0, orbStart := s.bp, orbSeen := true, gap := t.gap, groups := t.groups
                           lanes := t.lanes, portOut := t.portOut, tempBase := s.bp, tempSeen := []
                           pins := { s.pins with forcing := false }
                           rst := { s.rst with reach := none, starting := false } } t) ∧
        (s.rst.reach ≠ some .chip → t.mode = .hold ∧ F.RST_STATUS_STEP.rd t = 2 ∧
          Settles { s with cyc := 0, bcid := 0, orbit := s.orbit + 1, orbStart := s.bp, orbSeen := true, gap := t.gap
                           groups := t.groups, lanes := t.lanes, portOut := t.portOut, tempBase := s.bp, tempSeen := []
                           rst := { s.rst with initBp := s.bp } } t))) ∧
  (∀ (s : State), s.mode = .hold → s.coreOn = true → F.RST_STATUS_STEP.rd s = 2 →
    (s.bp < s.rst.initBp + 6144 → exec .memoryInitDone s = .next s) ∧
    (s.rst.initBp + 6144 ≤ s.bp → ∃ t, exec .memoryInitDone s = .next t ∧ F.RST_STATUS_STEP.rd t = 5 ∧
      SameWords [F.RST_STATUS_STEP.addr] s t ∧
      t = { s with regs := t.regs, scratch := [], scratchBad := [], packets := [], waiting := [], served := [], bufErr := []
                   scrubBack := [], revived := ⟨false, false⟩, jobs := [], sends := [], ledgers := [], cap := {}, wins := []
                   marks := [] })) ∧
  (∀ (s : State), s.rst.starting = true → s.rst.por = false → s.rst.pin = false → F.RST_STATUS_STEP.rd s = 5 →
    (s.rst.reach = some .control → ∃ t, exec .warmStartDone s = .next t ∧ F.RST_STATUS_STEP.rd t = 0 ∧
      t = { s with regs := t.regs, rst := { s.rst with reach := none, starting := false }
                   pins := { s.pins with forcing := false } } ∧
      SameWords [F.RST_STATUS_STEP.addr] s t) ∧
    (s.rst.reach = some .core → s.coreOn = true → s.mode = .hold →
      exec .warmStartDone s = .next { s with rst := { s.rst with finish := true } })) ∧
  ∀ (s : State), s.rst.finish = true →
    let t := warmTurn s
    t.mode = .idle ∧ t.pins = { s.pins with forcing := false } ∧
      t.rst.reach = none ∧ t.rst.starting = false ∧ t.rst.fromSafe = false ∧ t.rst.finish = false ∧ F.RST_STATUS_STEP.rd t = 0 ∧
      t.prog = s.prog ∧ t.shadow = s.shadow ∧ t.orbit = s.orbit ∧ t.bcid = s.bcid ∧
      (s.rst.fromSafe = true → t.squares = [] ∧ t.a1 = {} ∧ t.scratch = [] ∧ F.RST_CAUSE_SAFEREC.is t = true ∧
        F.RST_CAUSE_REACH.rd t = F.RST_CAUSE_REACH.rd s) ∧
      (s.rst.fromSafe = false → t.squares = s.squares ∧ t.a1 = s.a1 ∧ t.scratch = s.scratch ∧ t.fuses = s.fuses)

/-- R36, R37, R40 to R42, R44, R47, R48, R50 to R59, R96, R97 and R580: the clock controller. Activity, lock and loss of lock of
the PLL, phase steps, the reference switch, holdover with the records and packets that it flags, the hand-over that ends it,
the time-out into SAFE, and the exit from SAFE. Model's choices: logs 4, 51, 60, 72. -/
def Obligations.ClockFollows : Prop :=
  (∀ (s : State),
    (exec .slewComplete s = .next { s with clk := { s.clk with slew := false } }) ∧
    (∀ side, exec (.activityResume side) s = .next { s with clk := { s.clk with act := s.clk.act.set side true } }) ∧
    (∀ side, s.clk.act.get side = true → ∃ t, exec (.activityStop side) s = .next t ∧
      Settles { s with rst := { s.rst with stayed := s.rst.stayed.set side false } } t ∧
      t.clk.act = s.clk.act.set side false ∧ t.clk.locked = s.clk.locked.set side false ∧
      (s.clk.locked.get side = true → FlagSet (F.LNK_STICKY_UNLOCK (ctlPort side)).addr 0 s t) ∧
      (s.clk.ref = some side → s.clk.holdover = false →
        t.clk.holdover = true ∧ t.clk.ref = none ∧ t.clk.slew = false ∧ t.clk.holdSince = s.bp - 5 ∧ FlagSet 0x302 0 s t ∧
        (s.coreOn = true → t.sid.live = s.sid.live →
          t.packets = s.packets.map (fun p => if s.bp - 5 < p.dataBp then { p with hold := true } else p) ∧
          t.waiting = s.waiting.map (fun w => if s.bp - 5 < w.dataBp then { w with hold := true } else w)))) ∧
    (s.clk.ref ≠ none → s.clk.pllLock = false → ∃ t, exec .pllLock s = .next t ∧
      t = { s with clk := { s.clk with pllLock := true, count := if s.mode = .search then s.clk.ref else s.clk.count }, mode := if s.mode = .search then .settle else s.mode, regs := t.regs } ∧
      SameWords [F.RST_STATUS_STEP.addr] s t ∧ (s.mode = .search → F.RST_STATUS_STEP.rd t = 4) ∧
      (s.mode ≠ .search → t.regs = s.regs)) ∧
    (s.clk.ref ≠ none → s.clk.pllLock = true → s.clk.holdover = false → ∃ t, exec .pllLossOfLock s = .next t ∧
      Settles { s with rst := { s.rst with pllKept := false } } t ∧
      t.clk.pllLock = false ∧ FlagSet 0x302 3 s t ∧ t.clk.holdover = true ∧ t.clk.ref = none ∧ FlagSet 0x302 0 s t ∧
      (s.mode = .settle → t.mode = .search ∧ F.RST_STATUS_STEP.rd t = 3)) ∧
    (∀ (bins : BitVec 11) (side : Side), s.clk.ref = some side → s.clk.pllLock = true → s.clk.holdover = false →
      ∃ t, exec (.phaseStep bins) s = .next t ∧ t = { s with clk := { s.clk with slew := t.clk.slew }, regs := t.regs, free := s.free + 1 } ∧
        (2 < bins.toInt.natAbs → t.clk.slew = true) ∧ (bins.toInt.natAbs < 2 → t.clk.slew = s.clk.slew) ∧
        SameWords [F.CLK_PHDIFF_PHASE.addr, 0x302, 0x305] s t ∧
        F.CLK_PHDIFF_PHASE.int t =
          signedOf 10 (wrapTo 10 (F.CLK_PHDIFF_PHASE.int s + if side = .k then -bins.toInt else bins.toInt)) ∧
        (256 < bins.toInt ∨ bins.toInt < -256 → FlagSet 0x302 2 s t) ∧
        (-256 ≤ bins.toInt → bins.toInt ≤ 256 → t.word 0x302 = s.word 0x302)) ∧
    (∀ (bins : BitVec 11) (side : Side), s.clk.switchTo = some side → s.coreOn = true → s.claims side = true → s.pllOff = false →
      s.controlling = side ∨ s.clk.act.get side = true →
      ∃ t, exec (.referenceSwitch bins) s = .next t ∧ Settles s t ∧ FlagSet 0x302 1 s t ∧
        t.clk = { s.clk with ref := some side, slew := bins ≠ 0
                             count := if s.mode = .settle ∧ s.clk.pllLock = true then some side else none
                             switchTo := if s.controlling = side then none else some s.controlling } ∧
        (256 < bins.toInt ∨ bins.toInt < -256 → FlagSet 0x302 2 s t) ∧
        (s.clk.ref ≠ some side → Raised.all .link ∈ t.raised)) ∧
    (s.clk.holdover = true → s.topClaim ≠ 0 → s.coreOn = true → s.clk.holdBp + 2 ≤ s.bp →
      ∃ t, exec .holdoverHandover s = .next t ∧ Settles { s with free := s.free + 2 } t ∧ FlagSet 0x302 1 s t ∧
        t.clk = { s.clk with ref := some s.controlling, switchTo := none, slew := true, holdover := false
                             count := if s.mode = .settle ∧ s.clk.pllLock = true then some s.controlling else none
                             holds := s.clk.holds ++ [(s.clk.holdSince, s.bp - 1)] } ∧
        F.CLK_LASTHOLD_CYCLES.rd t = min (8 * (s.bp + 5 - s.clk.holdBp)) 0xFFFF) ∧
    (s.clk.holdover = true → s.topClaim = 0 → s.coreOn = true →
      ∃ t, exec .holdoverTimeout s = .next t ∧ t.mode = .safe ∧ t.clk.settled = false ∧ t.clk.holdover = false ∧
        t.clk.pllLock = false ∧ t.rst.fromSafe = true ∧ t.rst.starting = true ∧ F.RST_STATUS_STEP.rd t = 6 ∧
        FlagSet 0x302 4 s t ∧ t.groups = [] ∧ t.portOut = [] ∧ t.restarts = [] ∧ t.target = none ∧ t.adcCal = false ∧ t.adcAsk = false ∧ t.ledgers = [] ∧
        t.mon = { s.mon with cal := none, calStart := none } ∧ t.rst.reach ≠ none ∧ t.rst.reach ≠ some .control ∧
        t.led = { s.led with slots := [], dues := [], cols := [], rowOn := false, blanking := false, diag := none } ∧
        t.squares = s.squares ∧ t.prog = s.prog ∧ t.scratch = s.scratch ∧ t.bp = s.bp) ∧
    (s.mode = .safe → ∃ t, exec .safeForcing s = .next t ∧
      t = { s with pins := { s.pins with forcing := true }, fto := [], tb := t.tb } ∧
      ∀ n, t.line n = { s.line n with dues := [], driveEnd := 0 }) ∧
    (s.mode = .safe → s.clk.pllLock = true → s.clk.ref ≠ none → s.topClaim ≠ 0 → s.rst.por = false → s.rst.pin = false →
      ∃ t, exec .safeExit s = .next t ∧
        t = { s with mode := .settle, clk := { s.clk with count := s.clk.ref }, regs := t.regs } ∧ F.RST_STATUS_STEP.rd t = 4 ∧
        F.TIM_CTL_STATE.rd t = 0 ∧ SameWords [F.RST_STATUS_STEP.addr, F.TIM_CTL_STATE.addr] s t))

/-- R37, R48, R378 and R421 to R427: the control ports' lock makes and unmakes health; while the core clock runs a side that
becomes healthy returns, with a snapshot, and takes its claim when its return is done, or at a BP boundary while no side is
live. Model's choices: logs 18, 66. -/
def Obligations.SidesReturn : Prop :=
  ∀ (side : Side) (s : State),
    (s.clk.locked.get side = false → s.clk.act.get side = true → ¬(s.rst.reach = some .chip ∧ s.mode = .hold) →
      ∃ t, exec (.controlPortLock side) s = .next t ∧ Settles { s with free := t.free } t ∧
        t.clk.locked = s.clk.locked.set side true ∧ t.sid.frames.get side = [] ∧
        t.sid.healthy.get side = !s.sid.held.get side ∧ t.sid.healthy.get side.other = s.sid.healthy.get side.other ∧
        (s.coreOn = true → s.sid.held.get side = false → s.sid.healthy.get side = false →
          t.sid.ret.get side = some ⟨true, 0⟩ ∧ t.sid.snap.get side = s.sid.snap.get side ++ s.snapshot true ∧
          t.sid.live = s.sid.live) ∧
        (s.coreOn = false → t.sid.live.get side = BitVec.ofNat 4 (if s.sid.held.get side then 0 else s.rating side))) ∧
    (s.clk.locked.get side = true →
      ∃ t, exec (.controlPortLoss side) s = .next t ∧
        Settles { s with rst := { s.rst with stayed := s.rst.stayed.set side false } } t ∧ t.clk.locked = s.clk.locked.set side false ∧
        FlagSet (F.LNK_STICKY_UNLOCK (ctlPort side)).addr 0 s t ∧ t.sid.healthy.get side = false ∧
        (s.sid.healthy.get side = true → t.sid.live.get side = 0) ∧
        (s.sid.healthy.get side = true → s.coreOn = true → t.sid.ret.get side = none)) ∧
    (s.coreOn = true → s.sid.ret.get side ≠ none → s.topClaim = 0 → s.rating side ≠ 0 → s.sid.ret.get side.other = none →
      Settles s (loneTurn s) ∧ (loneTurn s).sid.live.get side = BitVec.ofNat 4 (s.rating side)) ∧
    ∀ r, s.coreOn = true → s.sid.ret.get side = some r → r.snapPend = false → 1 ≤ r.count →
      F.SID_CFG_HOLDOFF.rd s ≤ r.count →
      ∃ t, exec (.returnComplete side) s = .next t ∧ Settles s t ∧ t.sid.ret.get side = none ∧
        t.sid.live.get side = BitVec.ofNat 4 (s.rating side) ∧
        (s.topClaim ≠ 0 → s.controlling ≠ side → (s.sid.live.get side.other).toNat < s.rating side →
          s.rating side < 16 → FlagSet 0x1004 2 s t)

/-- R348, R350, R357, R363 to R369 and R523: compression jobs. The packet closed first takes the lowest free engine with an
output slot in free pages; its job ends in compressed or in stored form; an engine at fault is quarantined until software
returns it. Model's choices: logs 27, 31, 74. -/
def Obligations.EnginesCompress : Prop :=
  (∀ (s : State), s.coreOn = true → s.stoppedAt 22 s.bp = false →
    (∀ p e, oldestPacket (s.packets.filter fun p => p.st == .queued) = some p → s.freeEngine = some e →
      s.pagesFor p.cls (pagesOf p.slot) = true → let l := (s.takePages (pagesOf p.slot)).1
      (∀ q ∈ l, q < 24576 ∧ q ∉ s.usedPages) ∧ l.Nodup ∧ l.length = pagesOf p.slot ∧
      ∃ t, exec .compressionJobStart s = .next t ∧
        t = { s with free := t.free, bufErr := t.bufErr, scrubBack := t.scrubBack, jobs := s.jobs ++ [(e, p.pid)]
                     packets := s.packets.map fun x => if x.pid = p.pid then { x with st := .job e, slotChain := l } else x } ∧
        ∀ k, t.errAt k = if k / 32 ∈ l then none else s.errAt k) ∧
    ((∀ e, e < 8 → s.engineUp e = false) → ∃ t, exec .compressionJobStart s = .next t ∧
      t = { s with raised := t.raised, packets := t.packets } ∧
      (∀ x ∈ t.packets, x.st ≠ .queued) ∧
      ∀ p ∈ s.packets, p.st = .queued → ∃ x ∈ t.packets, x.pid = p.pid ∧ x.recs = p.recs ∧ x.st = .complete ∧
        x.form = .stored 4 0 0 0 0)) ∧
  (∀ (e : Fin 8) (p : Packet) (upsets : List Upset) (s : State), s.coreOn = true → s.ringFills = false →
    s.jobOf e = some p → let u := strikeWords p.chain (wordsOf p.ilen) upsets s
    (p.compressed.length ≤ p.slot → u.badInput p = none → ∃ t, exec (.compressionJobSuccess e upsets) s = .next t ∧
      t = { s with regs := t.regs, raised := t.raised, bufErr := u.bufErr, jobs := s.jobs.filter fun j => !(j.1 == e.val)
                   packets := s.packets.map fun x => if x.pid = p.pid then
                     { x with st := .complete, form := .compressed p.compressed, chain := if x.capt then x.chain else [] } else x } ∧
      SameWords ([F.CMP_JOBS_COUNT.addr, F.CMP_BYTESIN_BYTES.addr, F.CMP_BYTESOUT_BYTES.addr, 0xA00A, 0xA00B] ++
        (List.range 16).map fun k => (F.BUF_ECC_CE k).addr) s t ∧
      Counted F.CMP_JOBS_COUNT s t ∧ F.CMP_BYTESIN_BYTES.rd t = min (F.CMP_BYTESIN_BYTES.rd s + p.ilen) (2 ^ 32 - 1) ∧
      F.CMP_BYTESOUT_BYTES.rd t = min (F.CMP_BYTESOUT_BYTES.rd s + p.compressed.length) (2 ^ 32 - 1)) ∧
    ∀ (fault : Bool), p.st = .job e → (∀ y ∈ s.packets, y.pid = p.pid → y = p) → p.pid < s.nextPid →
      let reason := if fault then some 3 else (u.jobEnd p).map Prod.fst
      ∃ t, exec (.compressionJobFail e upsets fault) s = .next t ∧ (reason = none → t = s) ∧
        t = { s with free := t.free, regs := t.regs, raised := t.raised, reports := t.reports, seq := t.seq
                     ledgers := t.ledgers, packets := t.packets, nextPid := t.nextPid, waiting := t.waiting, jobs := t.jobs
                     sends := t.sends, portOut := t.portOut
                     bufErr := t.bufErr, scrubBack := t.scrubBack, served := t.served } ∧
        ∀ k, reason = some k → t.jobs = (s.jobs.filter fun j => !(j.1 == e.val)) ∧ Counted F.CMP_FAILS_COUNT s t ∧
          FlagSet 0xA806 0 s t ∧ t.sends = (s.sends.filter fun x => !(x.pid == p.pid)) ∧
          (∃ x ∈ t.packets, x.pid = p.pid ∧ x.st = .complete ∧ x.slotChain = [] ∧ (k = 2 → x.poisoned = true) ∧
            ∃ obytes, obytes ≤ p.slot ∧ (k = 1 → obytes = p.slot) ∧ x.form = .stored k p.b e obytes p.slot) ∧
          (k = 2 → FlagSet 0xA806 1 s t) ∧
          (k = 3 → natBit (F.CMP_STAT_ENGQ.rd t) e = true ∧
            (upsets = [] → s.bufErr = [] → Reported s t (faultRec s 2 4 22 e p.seq)))) ∧
  ∀ (e : Fin 8) (s : State), s.accessible = true → s.absentWord F.CMP_STAT_ENGQ.addr = false →
    ∃ t, exec (.engineReturn e) s = .next t ∧ natBit (F.CMP_STAT_ENGQ.rd t) e = false ∧
      (∀ k, k < 8 → k ≠ e.val → natBit (F.CMP_STAT_ENGQ.rd t) k = natBit (F.CMP_STAT_ENGQ.rd s) k) ∧
      (natBit (F.CMP_STAT_ENGQ.rd s) e = false → t = s) ∧
      (natBit (F.CMP_STAT_ENGQ.rd s) e = true → Reported s t (reportRec s 7 e 0) ∧ t.staleBlock 22 = true) ∧
      t = { s with regs := t.regs, raised := t.raised, reports := t.reports, seq := t.seq, ledgers := t.ledgers
                   packets := t.packets, nextPid := t.nextPid, waiting := t.waiting
                   refresh := t.refresh, free := t.free, bufErr := t.bufErr, scrubBack := t.scrubBack, served := t.served } ∧
      SameWords ([F.CMP_STAT_ENGQ.addr, F.RST_STALE_BLOCK.addr] ++ recordWords) s t

/-- R114, R306, R344 to R349, R352 to R354, R383, R388 and R429 to R431: framers. The next ready packet, or one in a job by
gambit, starts on its place; a packet sent whole, while its lane group is ACTIVE, has gone out on its lines as it was read,
is counted, and is released when no side needs it. Model's choices: logs 32, 33, 73, 74. -/
def Claims.FramersSend : Prop :=
  (∀ (side : Side) (s : State), s.framerUp side = true →
    let starts := fun (p : Packet) (q : Nat) (t : State) =>
      t = { s with regs := t.regs, sends := s.sends ++ [⟨side, q, p.pid, p.inJob, p.resent.get side⟩]
                   revived := s.revived.set side false
                   packets := s.packets.map fun x => if x.pid = p.pid then { x with first := x.first.set side none } else x } ∧
      SameWords [F.BUF_GSTAT_GAMBITS.addr] s t ∧ (p.inJob = true → Counted F.BUF_GSTAT_GAMBITS s t) ∧
      (p.inJob = false → t.regs = s.regs)
    (∀ p q, s.nextSend side = some (p, q) → (s.group (lgOf q)).st = .active →
      ∃ t, exec (.framerSendStart side) s = .next t ∧ starts p q t) ∧
    ∀ (e : Fin 8) p q, s.jobOf e = some p → s.mayGambit p = true → s.unsentBy side p = true →
      (∀ r ∈ s.readyFor side, s.ahead side r p = false) → s.placeFor side p = some q → (s.group (lgOf q)).st = .active →
      ∃ t, exec (.gambitStart side e) s = .next t ∧ starts p q t) ∧
  ∀ (side : Side) (port : Port) (upsets : List Upset) (x : Send) (p : Packet) (s : State), s.coreOn = true →
    s.sends.find? (fun y => y.side == side && y.port == s.placeOf port) = some x → s.packet x.pid = some p →
    p.st = .complete → (∀ y ∈ s.packets, y.pid = p.pid → y = p) → p.pid < s.nextPid →
    ((s.group (lgOf x.port)).st ≠ .active → exec (.packetSent side port upsets) s = .next s) ∧
    ((s.group (lgOf x.port)).st = .active →
      let n := wordsOf p.held.length
      let u := readWords p.pid p.heldIn n (strikeWords p.heldIn n upsets s)
      let bad := (List.range n).any fun i => match placeOfWord p.heldIn i with
        | some k => (match (strikeWords p.heldIn n upsets s).errAt k with | some (.double _) => true | _ => false)
        | none => false
      let sent := { p with poisoned := p.poisoned || bad, sent := p.sent.set side true }
      ∃ t, exec (.packetSent side port upsets) s = .next t ∧
        t = { s with free := t.free, regs := t.regs, raised := t.raised, reports := t.reports, portOut := t.portOut, seq := t.seq
                     cap := t.cap, ledgers := t.ledgers, packets := t.packets, nextPid := t.nextPid, waiting := t.waiting
                     sends := s.sends.filter fun y => !(y == x)
                     bufErr := t.bufErr, scrubBack := t.scrubBack, served := t.served } ∧
        t.portOut = (sendPacket x.port x.gambit (({ p with poisoned := p.poisoned || bad }).wire side x.gambit (u.readBytes p)) u).portOut ∧
        (∀ q, q ≠ x.port ∧ q ∉ s.members (lgOf x.port) → t.lineOf q = s.lineOf q) ∧
        (upsets = [] → s.bufErr = [] → bad = false ∧ u = s ∧ u.readBytes p = p.held) ∧
        (x.port < 24 → (F.LNK_PKTS_COUNT x.port).rd t = ((F.LNK_PKTS_COUNT x.port).rd s + 1) % 2 ^ 32) ∧
        (p.sent.get side.other = true ∨ s.dead side.other = true → sent ∉ t.packets) ∧
        (p.sent.get side.other = false → s.dead side.other = false → sent ∈ t.packets) ∧
        (bad = true → (Fld.mk 0xA00A 1 1).is t = true ∧ F.BUF_POISONSEQ_SEQ.rd t = p.seq.toNat))

/-- R345 to R347: a side without a lane in service for the timeout, or declared dead, is dead: its sends end, and packets that
only it still had to send are released; it lives again when neither holds, and begins with the oldest packet. Model's
choices: log 34. -/
def Claims.DeadSidesLetGo : Prop :=
  (∀ (side : Side) (s : State), s.coreOn = true →
    let timed := F.BUF_DEAD_BP.rd s ≠ 0 ∧ F.BUF_DEAD_BP.rd s ≤ s.deadCnt.get side
    let now := s.declaredDead side = true ∨ timed
    let was := natBit (F.BUF_SIDE_DEAD.rd s) side.code = true
    ∃ t, exec (.sideDeadTimeout side) s = .next t ∧ (natBit (F.BUF_SIDE_DEAD.rd t) side.code = true ↔ now) ∧
      ((now ↔ was) → t = s) ∧
      t = { s with regs := t.regs, raised := t.raised, reports := t.reports, seq := t.seq, cap := t.cap, ledgers := t.ledgers
                   packets := t.packets, nextPid := t.nextPid, waiting := t.waiting, sends := t.sends, revived := t.revived
                   free := t.free, bufErr := t.bufErr, scrubBack := t.scrubBack, served := t.served } ∧
      (now → ¬was → FlagSet 0xA00A (2 + side.code) s t ∧ t.sends = s.sends.filter (fun x => !(x.side == side)) ∧
        (s.bufErr = [] → Reported s t (reportRec s 4 side.code 0)) ∧ t.revived = s.revived ∧
        ∀ p ∈ t.packets, p.st = .complete → p.sent.get side.other = false) ∧
      (was → ¬now → t.sends = s.sends ∧ t.revived = s.revived.set side true ∧ Reported s t (reportRec s 5 side.code 0))) ∧
  ∀ (value : Word) (s : State), s.accessible = true →
    ∃ t, exec (.bufDeadWrite value) s = .next t ∧ F.BUF_DEAD_BP.rd t = value.toNat % 65536 ∧
      F.BUF_DEAD_OFFK.is t = value.getLsbD 30 ∧ F.BUF_DEAD_OFFQ.is t = value.getLsbD 31 ∧
      t = { s with regs := t.regs, raised := t.raised, reports := t.reports, seq := t.seq, cap := t.cap, ledgers := t.ledgers
                   packets := t.packets, nextPid := t.nextPid, waiting := t.waiting, sends := t.sends, revived := t.revived
                   free := t.free, bufErr := t.bufErr, scrubBack := t.scrubBack, served := t.served } ∧
      (value.getLsbD 30 = true → natBit (F.BUF_SIDE_DEAD.rd t) 0 = true ∧ ∀ x ∈ t.sends, x.side = .k → natBit (F.BUF_SIDE_DEAD.rd s) 0 = true) ∧
      (value.getLsbD 31 = true → natBit (F.BUF_SIDE_DEAD.rd t) 1 = true ∧ ∀ x ∈ t.sends, x.side = .q → natBit (F.BUF_SIDE_DEAD.rd s) 1 = true)

/-- Framers send packets whole; a dead side lets its packets go. Model's choices: logs 32, 33, 34, 73, 74. -/
def Obligations.FramersSendAndSidesDie : Prop :=
  Claims.FramersSend ∧ Claims.DeadSidesLetGo

/-- R82, R336, R348, R349, R351, R462, R520 to R522: a BP of scrubbing moves on by a word of each memory. A corrected word of a
bank is counted and written back, or waits for that while a capture ring is filled; an uncorrectable one is counted and
poisons its packet. An uncorrectable word of program memory clears PMVALID, and a bad word is reported with its class and
address. Model's choices: logs 28, 30, 38. -/
def Obligations.ScrubbingMovesOn : Prop :=
  ∀ (upsets : List Upset) (prog scratch : Scrubbed) (s : State), s.coreOn = true → s.gap.inGap = true →
    s.gap.scrub = true →
    let a := s.scrubProg
    let b := s.scrubScratch
    let badProg := prog = .uncorrectable ∨ a ∈ s.progBad
    let badScratch := scratch = .uncorrectable ∨ b ∈ s.scratchBad
    let found := fun (cls addr : Nat) => faultRec s 1 cls 31 5 (BitVec.ofNat 32 addr)
    let quiet := upsets = [] ∧ s.bufErr = []
    ∃ t, exec (.scrubPass upsets prog scratch) s = .next t ∧
      t = { s with free := t.free, regs := t.regs, progBad := t.progBad, scratchBad := t.scratchBad, raised := t.raised
                   reports := t.reports, seq := t.seq, ledgers := t.ledgers, packets := t.packets, nextPid := t.nextPid
                   waiting := t.waiting, scrubProg := (a + 1) % 16384, scrubScratch := (b + 1) % 4096
                   bufErr := t.bufErr, scrubBack := t.scrubBack, served := t.served } ∧
      F.BUF_SCRUB_POS.rd t = (if 49151 ≤ F.BUF_SCRUB_POS.rd s then 0 else F.BUF_SCRUB_POS.rd s + 1) ∧
      (∀ x, x ∈ t.progBad ↔ x ∈ s.progBad ∨ (x = a ∧ badProg)) ∧
      (∀ x, x ∈ t.scratchBad ↔ x ∈ s.scratchBad ∨ (x = b ∧ badScratch)) ∧
      (badProg → F.RST_STATUS_PMVALID.is t = false ∧ F.ERR_STICKY_CELLUE.is t = true ∧
        (quiet → Reported s t (found 2 a))) ∧
      (¬badProg → F.RST_STATUS_PMVALID.is t = F.RST_STATUS_PMVALID.is s) ∧
      (badScratch → F.ERR_STICKY_CELLUE.is t = true ∧ (quiet → ¬badProg → Reported s t (found 3 b))) ∧
      ∀ k flips, k < 16 → s.bufErr = [] → upsets = [⟨k, flips⟩] → let w := 16 * F.BUF_SCRUB_POS.rd s + k
        (flips = none → Counted (F.BUF_ECC_CE k) s t ∧ (Fld.mk 0xA00A 0 0).is t = true ∧
          (s.ringFills = false → t.errAt w = none) ∧ (s.ringFills = true → w ∈ t.scrubBack)) ∧
        (flips ≠ none → Counted (F.BUF_ECC_UE k) s t ∧ F.ERR_STICKY_CELLUE.is t = true ∧
          ∀ p ∈ s.packets, w / 32 ∈ p.chain ++ p.slotChain → (∀ y ∈ s.packets, w / 32 ∈ y.chain ++ y.slotChain → y = p) →
            ∃ x ∈ t.packets, x.pid = p.pid ∧ x.poisoned = true)

/-- R90, R378, R384, R388 to R394, R430 and Table 13-9: receivers, lanes and bonds. Lock and its loss; a lane fails by its loss
count or by software, is asked back and rejoins; a bond re-forms with a new epoch; the configuration changes in IDLE and
TEST; markers. Model's choices: logs 35, 36, 73. -/
def Obligations.LanesAndBonds : Prop :=
  ∀ (p : Port) (s : State),
    let g := lgOf p
    let single := (F.LNK_LGSTAT_SINGLE g).is s
    let alone := ∀ q ∈ groupPorts g, q ≠ p.val → s.backDue q = false ∧ s.failDue q = false
    let lanes := fun (bonds : Bool) (f : LaneSt → LaneSt) (t : State) => ∀ q,
      let x := if q = p.val then f (s.lane q) else s.lane q
      t.lane q = if bonds ∧ q = 2 + 4 * g then { x with markBp := s.bp } else x
    let epoch := fun (t : State) => (F.LNK_LGSTAT_EPOCH g).rd t = ((F.LNK_LGSTAT_EPOCH g).rd s + 1) % 16
    let rebonds := fun (t : State) => epoch t ∧ FlagSet (0xB602 + 16 * g) 0 s t ∧ ∀ x ∈ t.sends, x.port ≠ 2 + 4 * g
    let failed := fun (t : State) =>
      t = { s with regs := t.regs, raised := t.raised, reports := t.reports, portOut := t.portOut, seq := t.seq
                   ledgers := t.ledgers, packets := t.packets, nextPid := t.nextPid, waiting := t.waiting, sends := t.sends
                   lanes := t.lanes
                   free := t.free, bufErr := t.bufErr, scrubBack := t.scrubBack, served := t.served } ∧
      lanes (!single) (fun x => { x with rejoin := false }) t ∧ (F.LNK_PSTAT_FAILED p).is t = true ∧
      natBit ((F.LNK_LGSTAT_MEMBERS g).rd t) (laneBit p) = false ∧
      FlagSet (0xB005 + 64 * p.val) 2 s t ∧ Reported s t (reportRec s 1 p 0) ∧
      (single = false → rebonds t) ∧ (single = true → ∀ x ∈ t.sends, x.port ≠ p.val)
    (s.coreOn = true → 2 ≤ p.val → s.powered p = true → (F.LNK_PSTAT_LOCKED p).is s = false →
      ∃ t, exec (.laneLock p) s = .next t ∧ (F.LNK_PSTAT_LOCKED p).is t = true ∧ (F.LNK_PSTAT_CDR p).is t = true ∧
        lanes false (fun x => { x with changeBp := s.bp }) t ∧ (t.inService p = true → t.deadCnt.get (portSide p) = 0) ∧
        t = { s with regs := t.regs, raised := t.raised, reports := t.reports, seq := t.seq, cap := t.cap
                     ledgers := t.ledgers, packets := t.packets, nextPid := t.nextPid, waiting := t.waiting
                     sends := t.sends, deadCnt := t.deadCnt, lanes := t.lanes, revived := t.revived
                     free := t.free, bufErr := t.bufErr, scrubBack := t.scrubBack, served := t.served }) ∧
    (∀ stop : Bool, s.coreOn = true → 2 ≤ p.val → (F.LNK_PSTAT_LOCKED p).is s = true →
      let n := if isData p then (if single then 16 else 4) else if 18 ≤ p.val ∧ p.val ≤ 21 ∧ stop = false then 4 else 0
      let errors := (Fld.mk (0xB007 + 64 * p.val) 15 0)
      ∃ t, exec (.laneUnlock p stop) s = .next t ∧ (F.LNK_PSTAT_LOCKED p).is t = false ∧
        FlagSet (0xB005 + 64 * p.val) 0 s t ∧ errors.rd t = min (errors.rd s + n) 0xFFFF ∧
        (F.LNK_STICKY_CODEERR p).is t = ((F.LNK_STICKY_CODEERR p).is s || decide (0 < n)) ∧
        lanes false (fun x => { x with changeBp := s.bp }) t ∧
        t = { s with free := s.free + 1, regs := t.regs, lanes := t.lanes }) ∧
    (isData p = true → s.hasPort p = true → s.absentWord (F.LNK_LGCFG_SINGLE g).addr = false →
      (s.coreOn = true → alone → (F.LNK_PCFG_EN p).is s = true → (F.LNK_PSTAT_LOCKED p).is s = false →
        (s.group g).st = .active → s.loopOn p = false → (F.LNK_PSTAT_FAILED p).is s = false →
        max (s.lane p).changeBp ((s.lane p).freshBp + 7500) + max 1 ((F.LNK_LOSSBP_BP p).rd s) ≤ s.bp →
        ∃ t, exec (.laneFail p) s = .next t ∧ failed t) ∧
      (s.accessible = true → (F.LNK_PSTAT_FAILED p).is s = false → exec (.laneRejoinWrite p) s = .next s ∧
        (alone → ∃ t, exec (.laneDrop p) s = .next t ∧ failed t)) ∧
      (s.accessible = true → (F.LNK_PSTAT_FAILED p).is s = true →
        exec (.laneDrop p) s = .next s ∧ ∃ t, exec (.laneRejoinWrite p) s = .next t ∧
          t = { s with lanes := t.lanes } ∧ lanes false (fun x => { x with rejoin := true }) t) ∧
      (s.coreOn = true → alone → (s.lane p).rejoin = true → (F.LNK_PSTAT_FAILED p).is s = true →
        (F.LNK_PSTAT_LOCKED p).is s = true → (s.lane p).changeBp + 256 ≤ s.bp → (∀ x ∈ s.sends, x.port ≠ s.placeOf p) →
        ∃ t, exec (.laneRejoin p) s = .next t ∧
          lanes (!single) (fun x => { x with rejoin := false, freshBp := s.bp }) t ∧
          (F.LNK_PSTAT_FAILED p).is t = false ∧ natBit ((F.LNK_LGSTAT_MEMBERS g).rd t) (laneBit p) = true ∧
          FlagSet (0xB602 + 16 * g) 1 s t ∧ Reported s t (reportRec s 2 p 0) ∧ t.staleBlock (16 + g) = true ∧
          (single = false → rebonds t) ∧ (single = true → epoch t) ∧
          t = { s with regs := t.regs, raised := t.raised, reports := t.reports, portOut := t.portOut, seq := t.seq, cap := t.cap
                       ledgers := t.ledgers, packets := t.packets, nextPid := t.nextPid, waiting := t.waiting
                       sends := t.sends, deadCnt := t.deadCnt, lanes := t.lanes, revived := t.revived, refresh := t.refresh
                       free := t.free, bufErr := t.bufErr, scrubBack := t.scrubBack, served := t.served })) ∧
    ∀ (lg : Fin 4),
      (s.accessible = true → s.absentWord (F.LNK_LGCFG_SINGLE lg).addr = false → ∀ value : Bool,
        ∃ t, exec (.singleWrite lg value) s = .next t ∧ t = { s with regs := t.regs } ∧
          (s.mode = .idle ∨ s.mode = .test → (F.LNK_LGCFG_SINGLE lg).is t = value ∧
            SameWords [(F.LNK_LGCFG_SINGLE lg).addr] s t) ∧
          (s.mode ≠ .idle → s.mode ≠ .test → (F.LNK_LGCFG_SINGLE lg).is t = (F.LNK_LGCFG_SINGLE lg).is s ∧
            FlagSet (0xB602 + 16 * lg.val) 2 s t)) ∧
      (let place := 2 + 4 * lg.val
       let busy := fun (q : Nat) => ∃ x ∈ s.sends, x.port = q
       let kept := fun (l : List Nat) (t : State) => (∀ q, q ∉ l → t.lineOf q = s.lineOf q) ∧
         t = { s with free := t.free, portOut := t.portOut, lanes := t.lanes }
       (s.single lg = false →
         (busy place ∨ s.bp < (s.lane place).markBp + 160 ∨ (∀ q ∈ s.members lg, s.sendsOwn q = false) →
           exec (.alignMarker lg) s = .next s) ∧
         (¬busy place → (s.lane place).markBp + 160 ≤ s.bp → (∃ q ∈ s.members lg, s.sendsOwn q = true) →
           ∃ t, exec (.alignMarker lg) s = .next t ∧ kept (s.members lg) t ∧ (t.lane place).markBp = s.bp ∧
             (∀ q, q ≠ place → t.lane q = s.lane q) ∧
             ∀ q i, (s.members lg)[i]? = some q →
               let l := [Ch.k281, .d (BitVec.ofNat 8 (packBits [(2, (s.members lg).length - 1), (2, i), (4, (F.LNK_LGSTAT_EPOCH lg).rd s)]))]
               t.lineOf q = if s.sendsOwn q then some (Line.ofBits (codeGroups (natBit (s.freeNow 0).toNat (8 + i)) l)) else s.lineOf q)) ∧
       (s.single lg = true →
         let due := fun (q : Nat) => q ∈ groupPorts lg ∧ s.sendsOwn q = true ∧ ¬busy q ∧ (s.lane q).markBp + 544 ≤ s.bp
         (∃ t, exec (.alignMarker lg) s = .next t ∧ kept (groupPorts lg) t ∧
           ∀ q, (due q → (t.lane q).markBp = s.bp) ∧ (¬due q → t.lane q = s.lane q ∧ t.lineOf q = s.lineOf q)) ∧
         ∀ q, due q → (∀ o, o ≠ q → ¬due o) → ∃ t, exec (.alignMarker lg) s = .next t ∧
           let align := (⟨true, packBits [(8, 0xE1), (12, F.ACQ_HUBID_ID.rd s), (5, q), (7, 0)]⟩ : LaneWord)
           t.lineOf q = (sendWords q [] [align] s).lineOf q))

/-- R85, R440 to R447 and R455: the time counter's commands. GO makes a step pending, which is judged at a later BP boundary;
UNSYNC and a new increment wait for the boundary; a read of NOWNS copies the rest; a compare is armed, and fires once with
the tick at which the counter has come to its target. Model's choices: logs 6, 9, 24. -/
def Claims.TimeCounterCommands : Prop :=
  ∀ (s : State),
    (s.accessible = true →
      let sec := signedOf 48 (F.TIM_STEPSECH_SEC.rd s * 2 ^ 32 + F.TIM_STEPSECL_SEC.rd s)
      let d := (sec * 10 ^ 9 + F.TIM_STEPNS_NS.int s) * 65536 + (F.TIM_STEPFRAC_FRAC.rd s : Int)
      (s.stoppedAt 26 s.bp = false → exec .stepGo s = .next { s with tim := { s.tim with step := some (d, s.bp) } }) ∧
      (s.stoppedAt 26 s.bp = true → exec .stepGo s = .next s) ∧
      exec .unsync s = .next { s with tim := { s.tim with unsync := true } } ∧
      (∀ value, exec (.timIncWrite value) s = .next { s with tim := { s.tim with incNew := some value } }) ∧
      (∃ t, exec .timNownsRead s = .next t ∧ t = { s with regs := t.regs } ∧
        F.TIM_NOWSECH_SEC.rd t = s.tim.now.sec.toNat / 2 ^ 32 ∧ F.TIM_NOWSECL_SEC.rd t = s.tim.now.sec.toNat % 2 ^ 32 ∧
        F.TIM_NOWFRAC_FRAC.rd t = s.tim.now.frac / 2 ^ 10 % 65536 ∧
        SameWords [F.TIM_NOWSECH_SEC.addr, F.TIM_NOWSECL_SEC.addr, F.TIM_NOWFRAC_FRAC.addr] s t) ∧
      ∀ (n : Fin 2) (value : Word), ∃ t, exec (.compareArm n value) s = .next t ∧
        (F.TIM_CMPNS_CNS n).rd t = value.toNat % 2 ^ 30 ∧
        (s.stoppedAt 26 s.bp = false → (F.TIM_CMPST_ARMED n).is t = true ∧ t.cmpTag n = none) ∧
        (s.stoppedAt 26 s.bp = true → (F.TIM_CMPST_ARMED n).is t = (F.TIM_CMPST_ARMED n).is s ∧ t.tim = s.tim) ∧
        (∀ k, k ≠ n.val → t.cmpTag k = s.cmpTag k) ∧
        t = { s with regs := t.regs, tim := { s.tim with cmpDue := t.tim.cmpDue } } ∧
        SameWords [(F.TIM_CMPNS_CNS n).addr, (F.TIM_CMPST_ARMED n).addr] s t) ∧
    (∀ d b, s.coreOn = true → s.cyc = 0 → s.tim.step = some (d, b) →
      (s.bp ≤ b → exec .stepJudgement s = .next s) ∧
      (b < s.bp → ∃ t, exec .stepJudgement s = .next t ∧ t = { s with regs := t.regs, tim := t.tim } ∧
        let tooFar := s.synced = true ∧ F.TIM_THR_NS.rd s * 65536 < d.natAbs
        (tooFar → t.tim = { s.tim with step := none } ∧ FlagSet 0x140C 0 s t ∧ F.TIM_CTL_STATE.rd t = F.TIM_CTL_STATE.rd s) ∧
        (¬tooFar → t.tim = { s.tim with step := none, now := s.tim.now.plus (d * 1024), base := s.tim.base.plus (d * 1024)
                                        cmpDue := t.tim.cmpDue } ∧
          FlagSet 0x140C 1 s t ∧ F.TIM_CTL_STATE.rd t = 1 ∧
          ∀ k, k < 2 → (F.TIM_CMPST_ARMED k).is s = true → (∀ g, s.cmpTag k = some g → g.bp = s.bp) →
            t.cmpTag k = if 0 ≤ t.pastTarget k then some s.tag else none))) ∧
    (∀ k i, s.ticksToTarget k = some i →
      0 < i ∧ 0 ≤ (timTicks i s).pastTarget k ∧ (1 < i → (timTicks (i - 1) s).pastTarget k < 0)) ∧
    ∀ (n : Fin 2), s.coreOn = true → (F.TIM_CMPST_ARMED n).is s = true →
      (s.cmpTag n = none ∨ s.stepDue = true → exec (.compareFire n) s = .next s) ∧
      ∀ g, s.cmpTag n = some g → s.stepDue = false →
        ∃ t, exec (.compareFire n) s = .next t ∧ t = { s with regs := t.regs, tim := { s.tim with cmpDue := t.tim.cmpDue } } ∧
          (F.TIM_CMPST_ARMED n).is t = false ∧ (F.TIM_CMPST_BCID n).rd t = g.bcid % 8192 ∧
          (F.TIM_CMPORB_ORBIT n).rd t = g.orbit.toNat ∧ FlagSet 0x140C (4 + n.val) s t ∧ t.cmpTag n = none

/-- R435, R448 to R454 and R457: time messages. A message that is received whole is stamped, corrected, stored in the ring and
forwarded; a forwarded message leaves with its residence; the hub's own is queued, stamped as it leaves; a slot is freed.
Model's choices: log 37. -/
def Claims.TimeMessagesTravel : Prop :=
  (∀ (p : Port) (bytes : List Byte) (ago : Nat) (cyc : Fin 8) (bin : BitVec 7) (k : Nat) (s : State), s.coreOn = true →
    rxBit p = some k → s.hasPort p = true → 1 ≤ bytes.length → bytes.length ≤ 64 → 0 < ago ∨ cyc.val ≤ s.cyc →
    let l := if msgType bytes = 0 then addCorrection (s.asym p) bytes else bytes
    let n := F.TIM_RXCTL_NEXT.rd s
    let at_ := s.stampOf ago cyc bin.toNat
    let on := natBit (F.TIM_RXEN_PORTS.rd s) k = true ∧ s.stoppedAt 26 s.bp = false
    let held := (F.TIM_SLOTST_VALID n).is s = true
    ∃ t, exec (.timeMessageReceived p bytes ago cyc bin) s = .next t ∧ t = { s with regs := t.regs, tm := t.tm } ∧
      (F.LNK_TRX_COUNT p).rd t = ((F.LNK_TRX_COUNT p).rd s + 1) % 2 ^ 32 ∧
      (on → held → FlagSet 0x140C 2 s t ∧ F.TIM_RXCTL_NEXT.rd t = n) ∧
      (on → ¬held → F.TIM_RXCTL_NEXT.rd t = (n + 1) % 8 ∧ (F.TIM_SLOTST_VALID n).is t = true ∧
        (F.TIM_SLOTST_PORT n).rd t = p.val ∧ (F.TIM_SLOTST_LEN n).rd t = bytes.length - 1 ∧
        (F.TIM_SLOTSECH_SEC n).rd t = at_.1.toNat / 2 ^ 32 ∧ (F.TIM_SLOTSECL_SEC n).rd t = at_.1.toNat % 2 ^ 32 ∧
        (F.TIM_SLOTNS_NS n).rd t = at_.2.1 ∧ (F.TIM_SLOTFRAC_FRAC n).rd t = at_.2.2 ∧
        ∀ j, j < 16 → (F.TIM_SLOT_BYTES n j).rd t = bytesNat ((l.drop (4 * j) ++ List.replicate 4 0).take 4)) ∧
      (∀ e path, forwardTo p = some (e, path) →
        let sent := natBit (F.LNK_TCFWD_PATHS.rd s) path = true ∧ s.hasPort e = true
        (sent → (s.egress e).length < 4 →
          t.egress e = s.egress e ++ [⟨l, some ((s.bp - ago) * 1024 + cyc.val * 128 + bin.toNat)⟩]) ∧
        (sent → 4 ≤ (s.egress e).length → t.tm = s.tm ∧ FlagSet (0xB021 + 64 * e) 2 s t) ∧ (¬sent → t.tm = s.tm) ∧
        ∀ q, q ≠ e → t.egress q = s.egress q)) ∧
  (∀ (p : Port) (bin : BitVec 7) (m : TmMsg) (rest : List TmMsg) (s : State), s.portFree p = true →
    s.egress p = m :: rest →
    let others := fun (t : State) => ∀ q, q ≠ p.val → t.egress q = s.egress q ∧ t.sendingAt q = s.sendingAt q
    let fix := if msgType m.bytes = 1 then -(s.asym p) else 0
    let begun := fun (l : List Byte) (t : State) => t.egress p = rest ∧ t.sendingAt p = some ⟨l, 0⟩ ∧ others t ∧
      (F.LNK_TFWD_COUNT p).rd t = ((F.LNK_TFWD_COUNT p).rd s + 1) % 2 ^ 32 ∧ t = { s with regs := t.regs, tm := t.tm }
    (∀ at_, m.ingress = some at_ →
      let r := (rne (((s.nowBins + bin.toNat - at_) * s.inc : Nat) : Int) (2 ^ 17)).toNat
      ∃ t, exec (.timeMessageForward p bin) s = .next t ∧
        (msgType m.bytes ≤ 1 → begun (addCorrection ((r : Int) + fix) m.bytes) t ∧
          (16 ≤ m.bytes.length → (F.LNK_TRES_RES p).rd t = min r 0xFFFFFFFF)) ∧
        (1 < msgType m.bytes → begun m.bytes t)) ∧
    (m.ingress = none →
      let st := stampAt s.tim.now s.inc bin.toNat
      ∃ t, exec (.timTxEgress p bin) s = .next t ∧ begun (addCorrection fix m.bytes) t ∧ F.TIM_TXCTL_BUSY.is t = false ∧
        F.TIM_TXSTAMP0_VALID.is t = true ∧ F.TIM_TXSTAMP0_SEC.rd t = st.1.toNat / 2 ^ 32 ∧
        F.TIM_TXSTAMP1_SEC.rd t = st.1.toNat % 2 ^ 32 ∧ F.TIM_TXSTAMP2_NS.rd t = st.2.1 ∧ F.TIM_TXSTAMP3_FRAC.rd t = st.2.2)) ∧
  ∀ (s : State), s.accessible = true →
    (∀ value : Word, s.stoppedAt 26 s.bp = false →
      let p := value.toNat / 2 ^ 24 % 32
      let n := value.toNat % 128
      let bad := F.TIM_TXCTL_BUSY.is s = true ∨ rxBit p = none ∨ s.hasPort p = false ∨ s.rating (portSide p) = 0 ∨ n = 0 ∨ 64 < n
      ∃ t, exec (.timSend value) s = .next t ∧ t = { s with regs := t.regs, tm := t.tm } ∧
        F.TIM_TXCTL_PORT.rd t = p ∧ F.TIM_TXCTL_LEN.rd t = n ∧
        (bad → t.tm = s.tm ∧ FlagSet 0x140C 3 s t ∧ F.TIM_TXCTL_BUSY.is t = F.TIM_TXCTL_BUSY.is s) ∧
        (¬bad → (s.egress p).length < 4 → t.egress p = s.egress p ++ [⟨s.txMessage n, none⟩] ∧ F.TIM_TXCTL_BUSY.is t = true ∧
          ∀ q, q ≠ p → t.egress q = s.egress q) ∧
        (¬bad → 4 ≤ (s.egress p).length → t.tm = s.tm ∧ FlagSet (0xB021 + 64 * p) 2 s t)) ∧
    ∀ (n : Fin 8), ∃ t, exec (.timSlotFree n) s = .next t ∧ t = { s with regs := t.regs } ∧
      (F.TIM_SLOTST_VALID n).is t = false ∧ (F.TIM_SLOTST_PORT n).rd t = (F.TIM_SLOTST_PORT n).rd s ∧
      (F.TIM_SLOTST_LEN n).rd t = (F.TIM_SLOTST_LEN n).rd s ∧ SameWords [(F.TIM_SLOTST_VALID n).addr] s t

/-- The time counter's steps and compares, and time messages. Model's choices: logs 6, 9, 24, 37. -/
def Obligations.TimeCounterAndMessages : Prop :=
  Claims.TimeCounterCommands ∧ Claims.TimeMessagesTravel

/-- R197, R199, R202 to R204, R220 and Table 7-2: the bleed path is closed unless the stage is powered and no self-calibration of
the converters runs; the ranges of the two paths; the current of baseline restore; the hysteresis; the discriminator's output
from one signal level to the next; and a forced FTO output is low. -/
def Claims.FrontEndLevels : Prop :=
  ∀ (c : Nat) (s : State),
    (s.bleedClosed c = false ↔ s.stagePowered c = true ∧ s.adcCal = false) ∧
    s.lowRange c * s.feedback c = 10 ^ 15 ∧ s.highRange c * 16 = s.lowRange c ∧
    (∀ k, (F.AFE_CFG_FB c).rd s = k → s.feedback c = 200 * 4 ^ k) ∧
    (s.bleedClosed c = false → s.baseline c * (s.feedback c : Int) = (F.AFE_BLR_CODE c).int s * 10 ^ 15) ∧
    (s.bleedClosed c = true → s.baseline c = 0) ∧
    ((F.AFE_DISC_HYST c).rd s = 0 → s.hysteresis c = 0) ∧
    (∀ k, (F.AFE_DISC_HYST c).rd s = k + 1 → s.hysteresis c = 2 ^ k) ∧
    (∀ old new : Int,
      let rise : Int := ((F.AFE_DISC_THR c).rd s * s.highRange c : Nat)
      let fall : Int := (((F.AFE_DISC_THR c).rd s - s.hysteresis c) * s.highRange c : Nat)
      (s.discActive c = false → s.discNext c old new = false) ∧
      (s.discActive c = true → (s.slice c).high = false → (s.discNext c old new = true ↔ old < rise ∧ rise ≤ new)) ∧
      (s.discActive c = true → (s.slice c).high = true → (s.discNext c old new = false ↔ new ≤ fall))) ∧
    ∀ q at_, (s.ftoOf q).en = false ∨ s.hasQuad q = false ∨ s.mode = .hold ∨ s.mode = .safe ∨ s.quadState q = .deep ∨
      s.quadState q = .off → s.ftoLevel q at_ = false

/-- R381 and Table 13-3: a character of a bond is a code group of ten bits, which moves the running disparity by its ones; no
data byte has the code group of a special character. Model's choices: log 73. -/
def Claims.LineCodes : Prop :=
  (∀ (plus : Bool) (l : List Ch), (codeGroups plus l).length = 10 * l.length) ∧
  (∀ (plus : Bool) (c : Ch), (c.group plus).1 < 1024 ∧ onesIn 10 (c.group plus).1 + b2n plus = 5 + b2n (c.group plus).2) ∧
  (∀ (plus : Bool) (b : Byte) (c : Ch), (∀ x, c ≠ .d x) → ((Ch.d b).group plus).1 ≠ (c.group plus).1) ∧
  codeGroups false [.k285] = msbBits 10 0b0011111010

/-- What the front end holds and compares, and the code groups of the lines. Model's choices: log 73. -/
def Obligations.FrontEndAndLineCodes : Prop :=
  Claims.FrontEndLevels ∧ Claims.LineCodes

/-- R82, R366, R391, R520 to R528: faults and their containment at the levels of the cell, the block and the chip. Model's
choices: logs 27, 68, 69. -/
def Obligations.FaultsAreContained : Prop :=
  (∀ (s : State), s.coreOn = true →
    let voted := fun (region : Nat) (t : State) =>
      FlagSet F.ERR_STICKY_NOMAJ.addr 1 s t ∧ Counted (F.ERR_VOTE_UE region) s t
    (∀ p : Port, isData p = true → s.hasPort p = true → (F.LNK_PSTAT_FAILED p).is s = false →
      ∃ t, exec (.cellNoMajority (.lane p)) s = .next t ∧ voted 4 t ∧ (F.LNK_PSTAT_FAILED p).is t = true ∧
        natBit ((F.LNK_LGSTAT_MEMBERS (lgOf p)).rd t) (laneBit p) = false ∧
        Reported s t (faultRec s 2 5 (16 + lgOf p) p (BitVec.ofNat 32 p)) ∧
        t = { s with regs := t.regs, raised := t.raised, reports := t.reports, portOut := t.portOut, seq := t.seq
                     ledgers := t.ledgers, packets := t.packets, nextPid := t.nextPid, waiting := t.waiting
                     sends := t.sends, lanes := t.lanes, cap := t.cap, deadCnt := t.deadCnt, revived := t.revived
                     refresh := t.refresh
                     free := t.free, bufErr := t.bufErr, scrubBack := t.scrubBack, served := t.served }) ∧
    (∀ e : Fin 8, s.hasCmp = true →
      ∃ t, exec (.cellNoMajority (.engine e)) s = .next t ∧ voted 4 t ∧ natBit (F.CMP_STAT_ENGQ.rd t) e = true ∧
        Reported s t (faultRec s 2 5 22 e (BitVec.ofNat 32 e)) ∧ (∀ j ∈ t.jobs, s.jobOf e ≠ none → j.1 ≠ e.val) ∧
        t = { s with free := t.free, regs := t.regs, raised := t.raised, reports := t.reports, seq := t.seq
                     ledgers := t.ledgers, packets := t.packets, nextPid := t.nextPid, waiting := t.waiting, jobs := t.jobs
                     sends := t.sends, portOut := t.portOut
                     bufErr := t.bufErr, scrubBack := t.scrubBack, served := t.served }) ∧
    ∀ (block : BitVec 5), s.hasBlock block.toNat = true →
      let n := block.toNat
      let asked := fun (t : State) =>
        t = { s with regs := t.regs, restarts := t.restarts, raised := t.raised, reports := t.reports, seq := t.seq
                     ledgers := t.ledgers, packets := t.packets, nextPid := t.nextPid, waiting := t.waiting
                     free := t.free, bufErr := t.bufErr, scrubBack := t.scrubBack, served := t.served } ∧
        (F.ERR_CFG_AUTO.is s = true → FlagSet F.ERR_STICKY_ESCAL.addr 3 s t ∧
          t.restarts = if s.restarting n then s.restarts else s.restarts ++ [{ block := n, stopBp := s.bp + 1 }]) ∧
        (F.ERR_CFG_AUTO.is s = false → t.restarts = s.restarts)
      (∃ t, exec (.blockNoMajority block) s = .next t ∧ voted (blockRegion n) t ∧ asked t ∧
        Reported s t (faultRec s 3 8 n (blockRegion n) (BitVec.ofNat 32 n))) ∧
      (F.ERR_CFG_WDOG.rd s = 0 ∨ s.holdsWork n = false → exec (.watchdogExpiry block) s = .next s) ∧
      (F.ERR_CFG_WDOG.rd s ≠ 0 → s.holdsWork n = true → ∃ t, exec (.watchdogExpiry block) s = .next t ∧ asked t ∧
        FlagSet F.ERR_STICKY_WDOG.addr 4 s t ∧ Reported s t (faultRec s 3 7 n (blockRegion n) (BitVec.ofNat 32 n)))) ∧
  (∀ (what : ChipState) (s : State), s.coreOn = true →
    ∃ t, exec (.chipFault what) s = .next t ∧ FlagSet F.ERR_STICKY_CHIP.addr 5 s t ∧ FlagSet F.ERR_STICKY_NOMAJ.addr 1 s t ∧
      (∀ side, what = .portBlock side → t.sid.held.get side = true ∧ t.sid.healthy.get side = false ∧
        natBit (F.BUF_SIDE_DEAD.rd t) side.code = true ∧
        F.ERR_LASTDET_DETAIL.rd t = side.code ∧
        F.ERR_LAST_WORD0.rd t = 4 * 2 ^ 28 + 10 * 2 ^ 22 + 31 * 2 ^ 17 + ctlPort side * 2 ^ 8) ∧
      ((∀ side, what ≠ .portBlock side) → t.rst.chipDue = true ∧ t.rst.chipLost ≠ none ∧
        F.ERR_CHIPCAUSE_VALID.is t = true ∧ F.ERR_CHIPCAUSE_CLASS.rd t = 11 ∧ F.ERR_CHIPCAUSE_STATE.rd t = (chipCode what).1)) ∧
  (∀ (s : State), s.coreOn = true → s.rst.chipDue = true →
    let t := nextBp s
    t.mode = .safe ∧ t.clk.settled = false ∧ t.rst.chipDue = false ∧ F.RST_STATUS_STEP.rd t = 6 ∧ F.CLK_STICKY_SAFE.is t = true) ∧
  ∀ (s : State), s.accessible = true →
    ∃ t, exec .pmvalidWrite s = .next t ∧ t = { s with regs := t.regs } ∧ F.RST_STATUS_PMVALID.is t = true ∧
      SameWords [F.RST_STATUS_PMVALID.addr] s t
end

