-- ==== Sys2Proof/Laws/Sparse.lean ====
section
/-!
SUPPORT. Sys2Proof/Laws/Sparse.lean: the laws of sparse data: what a key reads after a write, and that every operation keeps
the canonical form.
-/
set_option Elab.async false
namespace Sys2Proof.Machine

variable {α : Type}

/-! ### Reading -/

@[simp] theorem sget_nil (d : Nat → α) (k : Nat) : sget d [] k = d k := rfl

theorem sget_cons (d : Nat → α) (e : Nat × α) (r : Sparse α) (k : Nat) :
    sget d (e :: r) k = if e.1 = k then e.2 else sget d r k := rfl

theorem sget_sinsert_same (d : Nat → α) (k : Nat) (v : α) (m : Sparse α) (h : ∀ e ∈ m, e.1 ≠ k) :
    sget d (sinsert k v m) k = v := by
  induction m with
  | nil => simp [sinsert, sget]
  | cons e r ih =>
    have he : e.1 ≠ k := h e (by simp)
    have hr : ∀ e ∈ r, e.1 ≠ k := fun x hx => h x (by simp [hx])
    unfold sinsert
    split
    · simp [sget]
    · simp [sget_cons, he, ih hr]

theorem sget_sinsert_ne (d : Nat → α) {k j : Nat} (v : α) (m : Sparse α) (h : k ≠ j) :
    sget d (sinsert k v m) j = sget d m j := by
  induction m with
  | nil => simp [sinsert, sget_cons, h]
  | cons e r ih =>
    unfold sinsert
    split
    · simp [sget_cons, h]
    · simp [sget_cons, ih]

theorem serase_cons (k : Nat) (e : Nat × α) (r : Sparse α) :
    serase k (e :: r) = if e.1 = k then serase k r else e :: serase k r := by
  by_cases h : e.1 = k <;> simp [serase, List.filter_cons, h]

theorem mem_serase {k : Nat} {e : Nat × α} {m : Sparse α} : e ∈ serase k m ↔ e ∈ m ∧ e.1 ≠ k := by
  have h : e.1.beq k = false ↔ e.1 ≠ k := by
    rw [← Bool.not_eq_true, Nat.beq_eq]
  simp [serase, h]

theorem sget_serase_same (d : Nat → α) (k : Nat) (m : Sparse α) : sget d (serase k m) k = d k := by
  induction m with
  | nil => rfl
  | cons e r ih =>
    rw [serase_cons]
    split
    · exact ih
    · rename_i h; simp [sget_cons, h, ih]

theorem sget_serase_ne (d : Nat → α) {k j : Nat} (m : Sparse α) (h : k ≠ j) : sget d (serase k m) j = sget d m j := by
  induction m with
  | nil => rfl
  | cons e r ih =>
    rw [serase_cons]
    split
    · rename_i he; simp [sget_cons, he, h, ih]
    · simp [sget_cons, ih]

variable [DecidableEq α]

/-- A key reads what was written to it. -/
@[simp] theorem sget_sput_same (d : Nat → α) (k : Nat) (v : α) (m : Sparse α) : sget d (sput d k v m) k = v := by
  unfold sput
  split
  · rename_i h; rw [sget_serase_same, h]
  · exact sget_sinsert_same d k v _ fun e he => (mem_serase.mp he).2

/-- Every other key reads as before a write. -/
theorem sget_sput_ne (d : Nat → α) {k j : Nat} (v : α) (m : Sparse α) (h : k ≠ j) :
    sget d (sput d k v m) j = sget d m j := by
  unfold sput
  split
  · exact sget_serase_ne d m h
  · rw [sget_sinsert_ne d v _ h, sget_serase_ne d m h]

theorem sget_sput (d : Nat → α) (k j : Nat) (v : α) (m : Sparse α) :
    sget d (sput d k v m) j = if k = j then v else sget d m j := by
  split
  · rename_i h; subst h; exact sget_sput_same d k v m
  · rename_i h; exact sget_sput_ne d v m h

/-! ### The canonical form -/

theorem swf_iff (d : Nat → α) (m : Sparse α) :
    swf d m = true ↔ (m.Pairwise fun a b => a.1 < b.1) ∧ ∀ e ∈ m, e.2 ≠ d e.1 := by
  simp [swf]

@[simp] theorem swf_nil (d : Nat → α) : swf d [] = true := by simp [swf_iff]

theorem mem_sinsert {k : Nat} {v : α} {e : Nat × α} {m : Sparse α} : e ∈ sinsert k v m ↔ e = (k, v) ∨ e ∈ m := by
  induction m with
  | nil => simp [sinsert]
  | cons x r ih =>
    unfold sinsert
    split
    · simp
    · simp [ih]; tauto

theorem pairwise_sinsert {k : Nat} {v : α} {m : Sparse α} (hk : ∀ e ∈ m, e.1 ≠ k)
    (h : m.Pairwise fun a b => a.1 < b.1) : (sinsert k v m).Pairwise fun a b => a.1 < b.1 := by
  induction m with
  | nil => simp [sinsert]
  | cons x r ih =>
    rw [List.pairwise_cons] at h
    unfold sinsert
    split
    · rename_i hx
      refine List.pairwise_cons.mpr ⟨fun e he => ?_, List.pairwise_cons.mpr h⟩
      rcases List.mem_cons.mp he with rfl | he
      · exact hx
      · exact Nat.lt_trans hx (h.1 e he)
    · rename_i hx
      have hx' : x.1 < k := by have := hk x (by simp); omega
      refine List.pairwise_cons.mpr ⟨fun e he => ?_, ih (fun e he => hk e (by simp [he])) h.2⟩
      rcases mem_sinsert.mp he with rfl | he
      · exact hx'
      · exact h.1 e he

/-- A write keeps the canonical form. -/
theorem swf_sput (d : Nat → α) (k : Nat) (v : α) {m : Sparse α} (h : swf d m = true) : swf d (sput d k v m) = true := by
  rw [swf_iff] at h ⊢
  have hp : (serase k m).Pairwise fun a b => a.1 < b.1 := h.1.filter _
  unfold sput
  split
  · exact ⟨hp, fun e he => h.2 e (mem_serase.mp he).1⟩
  · rename_i hv
    refine ⟨pairwise_sinsert (fun e he => (mem_serase.mp he).2) hp, fun e he => ?_⟩
    rcases mem_sinsert.mp he with rfl | he
    · exact hv
    · exact h.2 e (mem_serase.mp he).1

/-- A change of every listed value gives the canonical form. -/
theorem swf_smap (d : Nat → α) (f : α → α) (m : Sparse α) : swf d (smap d f m) = true := by
  induction m with
  | nil => simp [smap]
  | cons e r ih => exact swf_sput d e.1 (f e.2) ih

/-- After a change that leaves the default of a key as it is, the key reads its changed value. -/
theorem sget_smap (d : Nat → α) (f : α → α) (m : Sparse α) (k : Nat) (h : f (d k) = d k) :
    sget d (smap d f m) k = f (sget d m k) := by
  induction m with
  | nil => simp [smap, h]
  | cons e r ih =>
    have hs : smap d f (e :: r) = sput d e.1 (f e.2) (smap d f r) := rfl
    rw [hs, sget_sput, sget_cons]
    by_cases hk : e.1 = k
    · simp [hk]
    · simp [hk, ih]

end Sys2Proof.Machine
end

