-- ==== Sys2Proof/Laws/Memory.lean ====
section
/-!
SUPPORT. Sys2Proof/Laws/Memory.lean: the laws of program memory and scratch memory: a word reads what was written to it, every
other word reads as before, and every operation keeps the canonical form.
-/
set_option Elab.async false
namespace Sys2Proof.Machine

theorem Memory.read_write (m : Memory) (a b : Nat) (v : Word) :
    (m.write a v).read b = if a = b then v else m.read b := sget_sput _ a b v m

@[simp] theorem Memory.read_write_same (m : Memory) (a : Nat) (v : Word) : (m.write a v).read a = v :=
  sget_sput_same _ a v m

theorem Memory.read_write_ne (m : Memory) {a b : Nat} (v : Word) (h : a ≠ b) : (m.write a v).read b = m.read b :=
  sget_sput_ne _ v m h

theorem Memory.wf_write {m : Memory} (a : Nat) (v : Word) (h : m.wf = true) : (m.write a v).wf = true :=
  swf_sput _ a v h

/-! ### The state's memories -/

theorem State.scratchWrite_read (s : State) (a b : Nat) (v : Word) :
    Memory.read (s.scratchWrite a v).scratch b = if a = b then v else Memory.read s.scratch b := Memory.read_write s.scratch a b v

theorem State.progWrite_read (s : State) (a b : Nat) (v : Word) :
    Memory.read (s.progWrite a v).prog b = if a = b then v else Memory.read s.prog b := Memory.read_write s.prog a b v

theorem State.scratchWrite_wf (s : State) (a : Nat) (v : Word) (h : Memory.wf s.scratch = true) :
    Memory.wf (s.scratchWrite a v).scratch = true := Memory.wf_write a v h

theorem State.progWrite_wf (s : State) (a : Nat) (v : Word) (h : Memory.wf s.prog = true) :
    Memory.wf (s.progWrite a v).prog = true := Memory.wf_write a v h

theorem State.scratchFill_wf (a : Nat) (l : List Word) (s : State) (h : Memory.wf s.scratch = true) :
    Memory.wf (State.scratchFill a l s).scratch = true := by
  induction l generalizing a s with
  | nil => exact h
  | cons v r ih => exact ih (a + 1) _ (State.scratchWrite_wf s a v h)

/-- What a word of scratch memory reads after words were written from an address on. -/
theorem State.scratchFill_read (a : Nat) (l : List Word) (s : State) (b : Nat) :
    Memory.read (State.scratchFill a l s).scratch b =
      if a ≤ b ∧ b < a + l.length then l.getD (b - a) 0 else Memory.read s.scratch b := by
  induction l generalizing a s with
  | nil => simp only [State.scratchFill, List.length_nil]; rw [if_neg (by omega)]
  | cons v r ih =>
    show Memory.read (State.scratchFill (a + 1) r (s.scratchWrite a v)).scratch b = _
    rw [ih, State.scratchWrite_read]
    by_cases hb : a = b
    · subst hb; simp
    · by_cases h1 : a + 1 ≤ b ∧ b < a + 1 + r.length
      · rw [if_pos h1, if_pos ⟨by omega, by simp; omega⟩]
        obtain ⟨n, hn⟩ : ∃ n, b = a + 1 + n := ⟨b - (a + 1), by omega⟩
        subst hn
        rw [show a + 1 + n - a = n + 1 by omega, show a + 1 + n - (a + 1) = n by omega]
        rfl
      · rw [if_neg h1, if_neg hb, if_neg (by simp; omega)]

end Sys2Proof.Machine
end

