-- ==== Sys2Proof/Laws/State.lean ====
section
/-!
SUPPORT. Sys2Proof/Laws/State.lean: one lemma per field of the state for each shared update, so that no proof unfolds an
update of the record.
-/
set_option Elab.async false
namespace Sys2Proof.Machine

/-! ### `State.setWord` changes `regs` only -/

section
variable (s : State) (a : Nat) (v : Word)

@[simp] theorem State.setWord_pending : (s.setWord a v).pending = s.pending := (rfl)
@[simp] theorem State.setWord_free : (s.setWord a v).free = s.free := (rfl)
@[simp] theorem State.setWord_cyc : (s.setWord a v).cyc = s.cyc := (rfl)
@[simp] theorem State.setWord_bp : (s.setWord a v).bp = s.bp := (rfl)
@[simp] theorem State.setWord_rwo : (s.setWord a v).rwo = s.rwo := (rfl)
@[simp] theorem State.setWord_rwoOld : (s.setWord a v).rwoOld = s.rwoOld := (rfl)
@[simp] theorem State.setWord_setNow : (s.setWord a v).setNow = s.setNow := (rfl)
@[simp] theorem State.setWord_cycle0 : (s.setWord a v).cycle0 = s.cycle0 := (rfl)
@[simp] theorem State.setWord_admDirty : (s.setWord a v).admDirty = s.admDirty := (rfl)
@[simp] theorem State.setWord_prog : (s.setWord a v).prog = s.prog := (rfl)
@[simp] theorem State.setWord_progBad : (s.setWord a v).progBad = s.progBad := (rfl)
@[simp] theorem State.setWord_scratch : (s.setWord a v).scratch = s.scratch := (rfl)
@[simp] theorem State.setWord_scratchBad : (s.setWord a v).scratchBad = s.scratchBad := (rfl)
@[simp] theorem State.setWord_fuses : (s.setWord a v).fuses = s.fuses := (rfl)
@[simp] theorem State.setWord_shadow : (s.setWord a v).shadow = s.shadow := (rfl)
@[simp] theorem State.setWord_clk : (s.setWord a v).clk = s.clk := (rfl)
@[simp] theorem State.setWord_pins : (s.setWord a v).pins = s.pins := (rfl)
@[simp] theorem State.setWord_rst : (s.setWord a v).rst = s.rst := (rfl)
@[simp] theorem State.setWord_restarts : (s.setWord a v).restarts = s.restarts := (rfl)
@[simp] theorem State.setWord_mode : (s.setWord a v).mode = s.mode := (rfl)
@[simp] theorem State.setWord_target : (s.setWord a v).target = s.target := (rfl)
@[simp] theorem State.setWord_testEnd : (s.setWord a v).testEnd = s.testEnd := (rfl)
@[simp] theorem State.setWord_degraded : (s.setWord a v).degraded = s.degraded := (rfl)
@[simp] theorem State.setWord_groups : (s.setWord a v).groups = s.groups := (rfl)
@[simp] theorem State.setWord_quadRun : (s.setWord a v).quadRun = s.quadRun := (rfl)
@[simp] theorem State.setWord_squares : (s.setWord a v).squares = s.squares := (rfl)
@[simp] theorem State.setWord_a1 : (s.setWord a v).a1 = s.a1 := (rfl)
@[simp] theorem State.setWord_rr : (s.setWord a v).rr = s.rr := (rfl)
@[simp] theorem State.setWord_raised : (s.setWord a v).raised = s.raised := (rfl)
@[simp] theorem State.setWord_bucket : (s.setWord a v).bucket = s.bucket := (rfl)
@[simp] theorem State.setWord_debt : (s.setWord a v).debt = s.debt := (rfl)
@[simp] theorem State.setWord_hwreqs : (s.setWord a v).hwreqs = s.hwreqs := (rfl)
@[simp] theorem State.setWord_refProg : (s.setWord a v).refProg = s.refProg := (rfl)
@[simp] theorem State.setWord_refA1 : (s.setWord a v).refA1 = s.refA1 := (rfl)
@[simp] theorem State.setWord_reports : (s.setWord a v).reports = s.reports := (rfl)
@[simp] theorem State.setWord_sid : (s.setWord a v).sid = s.sid := (rfl)
@[simp] theorem State.setWord_tm : (s.setWord a v).tm = s.tm := (rfl)
@[simp] theorem State.setWord_portOut : (s.setWord a v).portOut = s.portOut := (rfl)
@[simp] theorem State.setWord_bcid : (s.setWord a v).bcid = s.bcid := (rfl)
@[simp] theorem State.setWord_orbit : (s.setWord a v).orbit = s.orbit := (rfl)
@[simp] theorem State.setWord_seq : (s.setWord a v).seq = s.seq := (rfl)
@[simp] theorem State.setWord_orbStart : (s.setWord a v).orbStart = s.orbStart := (rfl)
@[simp] theorem State.setWord_orbSeen : (s.setWord a v).orbSeen = s.orbSeen := (rfl)
@[simp] theorem State.setWord_gap : (s.setWord a v).gap = s.gap := (rfl)
@[simp] theorem State.setWord_bgDone : (s.setWord a v).bgDone = s.bgDone := (rfl)
@[simp] theorem State.setWord_tim : (s.setWord a v).tim = s.tim := (rfl)
@[simp] theorem State.setWord_slices : (s.setWord a v).slices = s.slices := (rfl)
@[simp] theorem State.setWord_bpHist : (s.setWord a v).bpHist = s.bpHist := (rfl)
@[simp] theorem State.setWord_tempBase : (s.setWord a v).tempBase = s.tempBase := (rfl)
@[simp] theorem State.setWord_tempSeen : (s.setWord a v).tempSeen = s.tempSeen := (rfl)
@[simp] theorem State.setWord_edges : (s.setWord a v).edges = s.edges := (rfl)
@[simp] theorem State.setWord_fto : (s.setWord a v).fto = s.fto := (rfl)
@[simp] theorem State.setWord_tb : (s.setWord a v).tb = s.tb := (rfl)
@[simp] theorem State.setWord_tbCells : (s.setWord a v).tbCells = s.tbCells := (rfl)
@[simp] theorem State.setWord_wins : (s.setWord a v).wins = s.wins := (rfl)
@[simp] theorem State.setWord_marks : (s.setWord a v).marks = s.marks := (rfl)
@[simp] theorem State.setWord_cap : (s.setWord a v).cap = s.cap := (rfl)
@[simp] theorem State.setWord_ledgers : (s.setWord a v).ledgers = s.ledgers := (rfl)
@[simp] theorem State.setWord_packets : (s.setWord a v).packets = s.packets := (rfl)
@[simp] theorem State.setWord_nextPid : (s.setWord a v).nextPid = s.nextPid := (rfl)
@[simp] theorem State.setWord_waiting : (s.setWord a v).waiting = s.waiting := (rfl)
@[simp] theorem State.setWord_served : (s.setWord a v).served = s.served := (rfl)
@[simp] theorem State.setWord_bufErr : (s.setWord a v).bufErr = s.bufErr := (rfl)
@[simp] theorem State.setWord_scrubBack : (s.setWord a v).scrubBack = s.scrubBack := (rfl)
@[simp] theorem State.setWord_revived : (s.setWord a v).revived = s.revived := (rfl)
@[simp] theorem State.setWord_refresh : (s.setWord a v).refresh = s.refresh := (rfl)
@[simp] theorem State.setWord_jobs : (s.setWord a v).jobs = s.jobs := (rfl)
@[simp] theorem State.setWord_sends : (s.setWord a v).sends = s.sends := (rfl)
@[simp] theorem State.setWord_deadCnt : (s.setWord a v).deadCnt = s.deadCnt := (rfl)
@[simp] theorem State.setWord_scrubProg : (s.setWord a v).scrubProg = s.scrubProg := (rfl)
@[simp] theorem State.setWord_scrubScratch : (s.setWord a v).scrubScratch = s.scrubScratch := (rfl)
@[simp] theorem State.setWord_lanes : (s.setWord a v).lanes = s.lanes := (rfl)
@[simp] theorem State.setWord_mon : (s.setWord a v).mon = s.mon := (rfl)
@[simp] theorem State.setWord_led : (s.setWord a v).led = s.led := (rfl)
@[simp] theorem State.setWord_adcCal : (s.setWord a v).adcCal = s.adcCal := (rfl)
@[simp] theorem State.setWord_adcAsk : (s.setWord a v).adcAsk = s.adcAsk := (rfl)
@[simp] theorem State.setWord_adcStart : (s.setWord a v).adcStart = s.adcStart := (rfl)
@[simp] theorem State.setWord_edgeQuads : (s.setWord a v).edgeQuads = s.edgeQuads := (rfl)
@[simp] theorem State.setWord_dueSeen : (s.setWord a v).dueSeen = s.dueSeen := (rfl)
@[simp] theorem State.setWord_tap : (s.setWord a v).tap = s.tap := (rfl)

end

/-! ### `State.setSquare` changes `squares` only -/

section
variable (s : State) (i : Nat) (q : Square)

@[simp] theorem State.setSquare_pending : (s.setSquare i q).pending = s.pending := (rfl)
@[simp] theorem State.setSquare_free : (s.setSquare i q).free = s.free := (rfl)
@[simp] theorem State.setSquare_cyc : (s.setSquare i q).cyc = s.cyc := (rfl)
@[simp] theorem State.setSquare_bp : (s.setSquare i q).bp = s.bp := (rfl)
@[simp] theorem State.setSquare_regs : (s.setSquare i q).regs = s.regs := (rfl)
@[simp] theorem State.setSquare_rwo : (s.setSquare i q).rwo = s.rwo := (rfl)
@[simp] theorem State.setSquare_rwoOld : (s.setSquare i q).rwoOld = s.rwoOld := (rfl)
@[simp] theorem State.setSquare_setNow : (s.setSquare i q).setNow = s.setNow := (rfl)
@[simp] theorem State.setSquare_cycle0 : (s.setSquare i q).cycle0 = s.cycle0 := (rfl)
@[simp] theorem State.setSquare_admDirty : (s.setSquare i q).admDirty = s.admDirty := (rfl)
@[simp] theorem State.setSquare_prog : (s.setSquare i q).prog = s.prog := (rfl)
@[simp] theorem State.setSquare_progBad : (s.setSquare i q).progBad = s.progBad := (rfl)
@[simp] theorem State.setSquare_scratch : (s.setSquare i q).scratch = s.scratch := (rfl)
@[simp] theorem State.setSquare_scratchBad : (s.setSquare i q).scratchBad = s.scratchBad := (rfl)
@[simp] theorem State.setSquare_fuses : (s.setSquare i q).fuses = s.fuses := (rfl)
@[simp] theorem State.setSquare_shadow : (s.setSquare i q).shadow = s.shadow := (rfl)
@[simp] theorem State.setSquare_clk : (s.setSquare i q).clk = s.clk := (rfl)
@[simp] theorem State.setSquare_pins : (s.setSquare i q).pins = s.pins := (rfl)
@[simp] theorem State.setSquare_rst : (s.setSquare i q).rst = s.rst := (rfl)
@[simp] theorem State.setSquare_restarts : (s.setSquare i q).restarts = s.restarts := (rfl)
@[simp] theorem State.setSquare_mode : (s.setSquare i q).mode = s.mode := (rfl)
@[simp] theorem State.setSquare_target : (s.setSquare i q).target = s.target := (rfl)
@[simp] theorem State.setSquare_testEnd : (s.setSquare i q).testEnd = s.testEnd := (rfl)
@[simp] theorem State.setSquare_degraded : (s.setSquare i q).degraded = s.degraded := (rfl)
@[simp] theorem State.setSquare_groups : (s.setSquare i q).groups = s.groups := (rfl)
@[simp] theorem State.setSquare_quadRun : (s.setSquare i q).quadRun = s.quadRun := (rfl)
@[simp] theorem State.setSquare_a1 : (s.setSquare i q).a1 = s.a1 := (rfl)
@[simp] theorem State.setSquare_rr : (s.setSquare i q).rr = s.rr := (rfl)
@[simp] theorem State.setSquare_raised : (s.setSquare i q).raised = s.raised := (rfl)
@[simp] theorem State.setSquare_bucket : (s.setSquare i q).bucket = s.bucket := (rfl)
@[simp] theorem State.setSquare_debt : (s.setSquare i q).debt = s.debt := (rfl)
@[simp] theorem State.setSquare_hwreqs : (s.setSquare i q).hwreqs = s.hwreqs := (rfl)
@[simp] theorem State.setSquare_refProg : (s.setSquare i q).refProg = s.refProg := (rfl)
@[simp] theorem State.setSquare_refA1 : (s.setSquare i q).refA1 = s.refA1 := (rfl)
@[simp] theorem State.setSquare_reports : (s.setSquare i q).reports = s.reports := (rfl)
@[simp] theorem State.setSquare_sid : (s.setSquare i q).sid = s.sid := (rfl)
@[simp] theorem State.setSquare_tm : (s.setSquare i q).tm = s.tm := (rfl)
@[simp] theorem State.setSquare_portOut : (s.setSquare i q).portOut = s.portOut := (rfl)
@[simp] theorem State.setSquare_bcid : (s.setSquare i q).bcid = s.bcid := (rfl)
@[simp] theorem State.setSquare_orbit : (s.setSquare i q).orbit = s.orbit := (rfl)
@[simp] theorem State.setSquare_seq : (s.setSquare i q).seq = s.seq := (rfl)
@[simp] theorem State.setSquare_orbStart : (s.setSquare i q).orbStart = s.orbStart := (rfl)
@[simp] theorem State.setSquare_orbSeen : (s.setSquare i q).orbSeen = s.orbSeen := (rfl)
@[simp] theorem State.setSquare_gap : (s.setSquare i q).gap = s.gap := (rfl)
@[simp] theorem State.setSquare_bgDone : (s.setSquare i q).bgDone = s.bgDone := (rfl)
@[simp] theorem State.setSquare_tim : (s.setSquare i q).tim = s.tim := (rfl)
@[simp] theorem State.setSquare_slices : (s.setSquare i q).slices = s.slices := (rfl)
@[simp] theorem State.setSquare_bpHist : (s.setSquare i q).bpHist = s.bpHist := (rfl)
@[simp] theorem State.setSquare_tempBase : (s.setSquare i q).tempBase = s.tempBase := (rfl)
@[simp] theorem State.setSquare_tempSeen : (s.setSquare i q).tempSeen = s.tempSeen := (rfl)
@[simp] theorem State.setSquare_edges : (s.setSquare i q).edges = s.edges := (rfl)
@[simp] theorem State.setSquare_fto : (s.setSquare i q).fto = s.fto := (rfl)
@[simp] theorem State.setSquare_tb : (s.setSquare i q).tb = s.tb := (rfl)
@[simp] theorem State.setSquare_tbCells : (s.setSquare i q).tbCells = s.tbCells := (rfl)
@[simp] theorem State.setSquare_wins : (s.setSquare i q).wins = s.wins := (rfl)
@[simp] theorem State.setSquare_marks : (s.setSquare i q).marks = s.marks := (rfl)
@[simp] theorem State.setSquare_cap : (s.setSquare i q).cap = s.cap := (rfl)
@[simp] theorem State.setSquare_ledgers : (s.setSquare i q).ledgers = s.ledgers := (rfl)
@[simp] theorem State.setSquare_packets : (s.setSquare i q).packets = s.packets := (rfl)
@[simp] theorem State.setSquare_nextPid : (s.setSquare i q).nextPid = s.nextPid := (rfl)
@[simp] theorem State.setSquare_waiting : (s.setSquare i q).waiting = s.waiting := (rfl)
@[simp] theorem State.setSquare_served : (s.setSquare i q).served = s.served := (rfl)
@[simp] theorem State.setSquare_bufErr : (s.setSquare i q).bufErr = s.bufErr := (rfl)
@[simp] theorem State.setSquare_scrubBack : (s.setSquare i q).scrubBack = s.scrubBack := (rfl)
@[simp] theorem State.setSquare_revived : (s.setSquare i q).revived = s.revived := (rfl)
@[simp] theorem State.setSquare_refresh : (s.setSquare i q).refresh = s.refresh := (rfl)
@[simp] theorem State.setSquare_jobs : (s.setSquare i q).jobs = s.jobs := (rfl)
@[simp] theorem State.setSquare_sends : (s.setSquare i q).sends = s.sends := (rfl)
@[simp] theorem State.setSquare_deadCnt : (s.setSquare i q).deadCnt = s.deadCnt := (rfl)
@[simp] theorem State.setSquare_scrubProg : (s.setSquare i q).scrubProg = s.scrubProg := (rfl)
@[simp] theorem State.setSquare_scrubScratch : (s.setSquare i q).scrubScratch = s.scrubScratch := (rfl)
@[simp] theorem State.setSquare_lanes : (s.setSquare i q).lanes = s.lanes := (rfl)
@[simp] theorem State.setSquare_mon : (s.setSquare i q).mon = s.mon := (rfl)
@[simp] theorem State.setSquare_led : (s.setSquare i q).led = s.led := (rfl)
@[simp] theorem State.setSquare_adcCal : (s.setSquare i q).adcCal = s.adcCal := (rfl)
@[simp] theorem State.setSquare_adcAsk : (s.setSquare i q).adcAsk = s.adcAsk := (rfl)
@[simp] theorem State.setSquare_adcStart : (s.setSquare i q).adcStart = s.adcStart := (rfl)
@[simp] theorem State.setSquare_edgeQuads : (s.setSquare i q).edgeQuads = s.edgeQuads := (rfl)
@[simp] theorem State.setSquare_dueSeen : (s.setSquare i q).dueSeen = s.dueSeen := (rfl)
@[simp] theorem State.setSquare_tap : (s.setSquare i q).tap = s.tap := (rfl)

end

/-! ### `State.modSquare` changes `squares` only -/

section
variable (s : State) (i : Nat) (f : Square → Square)

@[simp] theorem State.modSquare_pending : (s.modSquare i f).pending = s.pending := (rfl)
@[simp] theorem State.modSquare_free : (s.modSquare i f).free = s.free := (rfl)
@[simp] theorem State.modSquare_cyc : (s.modSquare i f).cyc = s.cyc := (rfl)
@[simp] theorem State.modSquare_bp : (s.modSquare i f).bp = s.bp := (rfl)
@[simp] theorem State.modSquare_regs : (s.modSquare i f).regs = s.regs := (rfl)
@[simp] theorem State.modSquare_rwo : (s.modSquare i f).rwo = s.rwo := (rfl)
@[simp] theorem State.modSquare_rwoOld : (s.modSquare i f).rwoOld = s.rwoOld := (rfl)
@[simp] theorem State.modSquare_setNow : (s.modSquare i f).setNow = s.setNow := (rfl)
@[simp] theorem State.modSquare_cycle0 : (s.modSquare i f).cycle0 = s.cycle0 := (rfl)
@[simp] theorem State.modSquare_admDirty : (s.modSquare i f).admDirty = s.admDirty := (rfl)
@[simp] theorem State.modSquare_prog : (s.modSquare i f).prog = s.prog := (rfl)
@[simp] theorem State.modSquare_progBad : (s.modSquare i f).progBad = s.progBad := (rfl)
@[simp] theorem State.modSquare_scratch : (s.modSquare i f).scratch = s.scratch := (rfl)
@[simp] theorem State.modSquare_scratchBad : (s.modSquare i f).scratchBad = s.scratchBad := (rfl)
@[simp] theorem State.modSquare_fuses : (s.modSquare i f).fuses = s.fuses := (rfl)
@[simp] theorem State.modSquare_shadow : (s.modSquare i f).shadow = s.shadow := (rfl)
@[simp] theorem State.modSquare_clk : (s.modSquare i f).clk = s.clk := (rfl)
@[simp] theorem State.modSquare_pins : (s.modSquare i f).pins = s.pins := (rfl)
@[simp] theorem State.modSquare_rst : (s.modSquare i f).rst = s.rst := (rfl)
@[simp] theorem State.modSquare_restarts : (s.modSquare i f).restarts = s.restarts := (rfl)
@[simp] theorem State.modSquare_mode : (s.modSquare i f).mode = s.mode := (rfl)
@[simp] theorem State.modSquare_target : (s.modSquare i f).target = s.target := (rfl)
@[simp] theorem State.modSquare_testEnd : (s.modSquare i f).testEnd = s.testEnd := (rfl)
@[simp] theorem State.modSquare_degraded : (s.modSquare i f).degraded = s.degraded := (rfl)
@[simp] theorem State.modSquare_groups : (s.modSquare i f).groups = s.groups := (rfl)
@[simp] theorem State.modSquare_quadRun : (s.modSquare i f).quadRun = s.quadRun := (rfl)
@[simp] theorem State.modSquare_a1 : (s.modSquare i f).a1 = s.a1 := (rfl)
@[simp] theorem State.modSquare_rr : (s.modSquare i f).rr = s.rr := (rfl)
@[simp] theorem State.modSquare_raised : (s.modSquare i f).raised = s.raised := (rfl)
@[simp] theorem State.modSquare_bucket : (s.modSquare i f).bucket = s.bucket := (rfl)
@[simp] theorem State.modSquare_debt : (s.modSquare i f).debt = s.debt := (rfl)
@[simp] theorem State.modSquare_hwreqs : (s.modSquare i f).hwreqs = s.hwreqs := (rfl)
@[simp] theorem State.modSquare_refProg : (s.modSquare i f).refProg = s.refProg := (rfl)
@[simp] theorem State.modSquare_refA1 : (s.modSquare i f).refA1 = s.refA1 := (rfl)
@[simp] theorem State.modSquare_reports : (s.modSquare i f).reports = s.reports := (rfl)
@[simp] theorem State.modSquare_sid : (s.modSquare i f).sid = s.sid := (rfl)
@[simp] theorem State.modSquare_tm : (s.modSquare i f).tm = s.tm := (rfl)
@[simp] theorem State.modSquare_portOut : (s.modSquare i f).portOut = s.portOut := (rfl)
@[simp] theorem State.modSquare_bcid : (s.modSquare i f).bcid = s.bcid := (rfl)
@[simp] theorem State.modSquare_orbit : (s.modSquare i f).orbit = s.orbit := (rfl)
@[simp] theorem State.modSquare_seq : (s.modSquare i f).seq = s.seq := (rfl)
@[simp] theorem State.modSquare_orbStart : (s.modSquare i f).orbStart = s.orbStart := (rfl)
@[simp] theorem State.modSquare_orbSeen : (s.modSquare i f).orbSeen = s.orbSeen := (rfl)
@[simp] theorem State.modSquare_gap : (s.modSquare i f).gap = s.gap := (rfl)
@[simp] theorem State.modSquare_bgDone : (s.modSquare i f).bgDone = s.bgDone := (rfl)
@[simp] theorem State.modSquare_tim : (s.modSquare i f).tim = s.tim := (rfl)
@[simp] theorem State.modSquare_slices : (s.modSquare i f).slices = s.slices := (rfl)
@[simp] theorem State.modSquare_bpHist : (s.modSquare i f).bpHist = s.bpHist := (rfl)
@[simp] theorem State.modSquare_tempBase : (s.modSquare i f).tempBase = s.tempBase := (rfl)
@[simp] theorem State.modSquare_tempSeen : (s.modSquare i f).tempSeen = s.tempSeen := (rfl)
@[simp] theorem State.modSquare_edges : (s.modSquare i f).edges = s.edges := (rfl)
@[simp] theorem State.modSquare_fto : (s.modSquare i f).fto = s.fto := (rfl)
@[simp] theorem State.modSquare_tb : (s.modSquare i f).tb = s.tb := (rfl)
@[simp] theorem State.modSquare_tbCells : (s.modSquare i f).tbCells = s.tbCells := (rfl)
@[simp] theorem State.modSquare_wins : (s.modSquare i f).wins = s.wins := (rfl)
@[simp] theorem State.modSquare_marks : (s.modSquare i f).marks = s.marks := (rfl)
@[simp] theorem State.modSquare_cap : (s.modSquare i f).cap = s.cap := (rfl)
@[simp] theorem State.modSquare_ledgers : (s.modSquare i f).ledgers = s.ledgers := (rfl)
@[simp] theorem State.modSquare_packets : (s.modSquare i f).packets = s.packets := (rfl)
@[simp] theorem State.modSquare_nextPid : (s.modSquare i f).nextPid = s.nextPid := (rfl)
@[simp] theorem State.modSquare_waiting : (s.modSquare i f).waiting = s.waiting := (rfl)
@[simp] theorem State.modSquare_served : (s.modSquare i f).served = s.served := (rfl)
@[simp] theorem State.modSquare_bufErr : (s.modSquare i f).bufErr = s.bufErr := (rfl)
@[simp] theorem State.modSquare_scrubBack : (s.modSquare i f).scrubBack = s.scrubBack := (rfl)
@[simp] theorem State.modSquare_revived : (s.modSquare i f).revived = s.revived := (rfl)
@[simp] theorem State.modSquare_refresh : (s.modSquare i f).refresh = s.refresh := (rfl)
@[simp] theorem State.modSquare_jobs : (s.modSquare i f).jobs = s.jobs := (rfl)
@[simp] theorem State.modSquare_sends : (s.modSquare i f).sends = s.sends := (rfl)
@[simp] theorem State.modSquare_deadCnt : (s.modSquare i f).deadCnt = s.deadCnt := (rfl)
@[simp] theorem State.modSquare_scrubProg : (s.modSquare i f).scrubProg = s.scrubProg := (rfl)
@[simp] theorem State.modSquare_scrubScratch : (s.modSquare i f).scrubScratch = s.scrubScratch := (rfl)
@[simp] theorem State.modSquare_lanes : (s.modSquare i f).lanes = s.lanes := (rfl)
@[simp] theorem State.modSquare_mon : (s.modSquare i f).mon = s.mon := (rfl)
@[simp] theorem State.modSquare_led : (s.modSquare i f).led = s.led := (rfl)
@[simp] theorem State.modSquare_adcCal : (s.modSquare i f).adcCal = s.adcCal := (rfl)
@[simp] theorem State.modSquare_adcAsk : (s.modSquare i f).adcAsk = s.adcAsk := (rfl)
@[simp] theorem State.modSquare_adcStart : (s.modSquare i f).adcStart = s.adcStart := (rfl)
@[simp] theorem State.modSquare_edgeQuads : (s.modSquare i f).edgeQuads = s.edgeQuads := (rfl)
@[simp] theorem State.modSquare_dueSeen : (s.modSquare i f).dueSeen = s.dueSeen := (rfl)
@[simp] theorem State.modSquare_tap : (s.modSquare i f).tap = s.tap := (rfl)

end

/-! ### `State.setSlice` changes `slices` only -/

section
variable (s : State) (c : Nat) (x : Slice)

@[simp] theorem State.setSlice_pending : (s.setSlice c x).pending = s.pending := (rfl)
@[simp] theorem State.setSlice_free : (s.setSlice c x).free = s.free := (rfl)
@[simp] theorem State.setSlice_cyc : (s.setSlice c x).cyc = s.cyc := (rfl)
@[simp] theorem State.setSlice_bp : (s.setSlice c x).bp = s.bp := (rfl)
@[simp] theorem State.setSlice_regs : (s.setSlice c x).regs = s.regs := (rfl)
@[simp] theorem State.setSlice_rwo : (s.setSlice c x).rwo = s.rwo := (rfl)
@[simp] theorem State.setSlice_rwoOld : (s.setSlice c x).rwoOld = s.rwoOld := (rfl)
@[simp] theorem State.setSlice_setNow : (s.setSlice c x).setNow = s.setNow := (rfl)
@[simp] theorem State.setSlice_cycle0 : (s.setSlice c x).cycle0 = s.cycle0 := (rfl)
@[simp] theorem State.setSlice_admDirty : (s.setSlice c x).admDirty = s.admDirty := (rfl)
@[simp] theorem State.setSlice_prog : (s.setSlice c x).prog = s.prog := (rfl)
@[simp] theorem State.setSlice_progBad : (s.setSlice c x).progBad = s.progBad := (rfl)
@[simp] theorem State.setSlice_scratch : (s.setSlice c x).scratch = s.scratch := (rfl)
@[simp] theorem State.setSlice_scratchBad : (s.setSlice c x).scratchBad = s.scratchBad := (rfl)
@[simp] theorem State.setSlice_fuses : (s.setSlice c x).fuses = s.fuses := (rfl)
@[simp] theorem State.setSlice_shadow : (s.setSlice c x).shadow = s.shadow := (rfl)
@[simp] theorem State.setSlice_clk : (s.setSlice c x).clk = s.clk := (rfl)
@[simp] theorem State.setSlice_pins : (s.setSlice c x).pins = s.pins := (rfl)
@[simp] theorem State.setSlice_rst : (s.setSlice c x).rst = s.rst := (rfl)
@[simp] theorem State.setSlice_restarts : (s.setSlice c x).restarts = s.restarts := (rfl)
@[simp] theorem State.setSlice_mode : (s.setSlice c x).mode = s.mode := (rfl)
@[simp] theorem State.setSlice_target : (s.setSlice c x).target = s.target := (rfl)
@[simp] theorem State.setSlice_testEnd : (s.setSlice c x).testEnd = s.testEnd := (rfl)
@[simp] theorem State.setSlice_degraded : (s.setSlice c x).degraded = s.degraded := (rfl)
@[simp] theorem State.setSlice_groups : (s.setSlice c x).groups = s.groups := (rfl)
@[simp] theorem State.setSlice_quadRun : (s.setSlice c x).quadRun = s.quadRun := (rfl)
@[simp] theorem State.setSlice_squares : (s.setSlice c x).squares = s.squares := (rfl)
@[simp] theorem State.setSlice_a1 : (s.setSlice c x).a1 = s.a1 := (rfl)
@[simp] theorem State.setSlice_rr : (s.setSlice c x).rr = s.rr := (rfl)
@[simp] theorem State.setSlice_raised : (s.setSlice c x).raised = s.raised := (rfl)
@[simp] theorem State.setSlice_bucket : (s.setSlice c x).bucket = s.bucket := (rfl)
@[simp] theorem State.setSlice_debt : (s.setSlice c x).debt = s.debt := (rfl)
@[simp] theorem State.setSlice_hwreqs : (s.setSlice c x).hwreqs = s.hwreqs := (rfl)
@[simp] theorem State.setSlice_refProg : (s.setSlice c x).refProg = s.refProg := (rfl)
@[simp] theorem State.setSlice_refA1 : (s.setSlice c x).refA1 = s.refA1 := (rfl)
@[simp] theorem State.setSlice_reports : (s.setSlice c x).reports = s.reports := (rfl)
@[simp] theorem State.setSlice_sid : (s.setSlice c x).sid = s.sid := (rfl)
@[simp] theorem State.setSlice_tm : (s.setSlice c x).tm = s.tm := (rfl)
@[simp] theorem State.setSlice_portOut : (s.setSlice c x).portOut = s.portOut := (rfl)
@[simp] theorem State.setSlice_bcid : (s.setSlice c x).bcid = s.bcid := (rfl)
@[simp] theorem State.setSlice_orbit : (s.setSlice c x).orbit = s.orbit := (rfl)
@[simp] theorem State.setSlice_seq : (s.setSlice c x).seq = s.seq := (rfl)
@[simp] theorem State.setSlice_orbStart : (s.setSlice c x).orbStart = s.orbStart := (rfl)
@[simp] theorem State.setSlice_orbSeen : (s.setSlice c x).orbSeen = s.orbSeen := (rfl)
@[simp] theorem State.setSlice_gap : (s.setSlice c x).gap = s.gap := (rfl)
@[simp] theorem State.setSlice_bgDone : (s.setSlice c x).bgDone = s.bgDone := (rfl)
@[simp] theorem State.setSlice_tim : (s.setSlice c x).tim = s.tim := (rfl)
@[simp] theorem State.setSlice_bpHist : (s.setSlice c x).bpHist = s.bpHist := (rfl)
@[simp] theorem State.setSlice_tempBase : (s.setSlice c x).tempBase = s.tempBase := (rfl)
@[simp] theorem State.setSlice_tempSeen : (s.setSlice c x).tempSeen = s.tempSeen := (rfl)
@[simp] theorem State.setSlice_edges : (s.setSlice c x).edges = s.edges := (rfl)
@[simp] theorem State.setSlice_fto : (s.setSlice c x).fto = s.fto := (rfl)
@[simp] theorem State.setSlice_tb : (s.setSlice c x).tb = s.tb := (rfl)
@[simp] theorem State.setSlice_tbCells : (s.setSlice c x).tbCells = s.tbCells := (rfl)
@[simp] theorem State.setSlice_wins : (s.setSlice c x).wins = s.wins := (rfl)
@[simp] theorem State.setSlice_marks : (s.setSlice c x).marks = s.marks := (rfl)
@[simp] theorem State.setSlice_cap : (s.setSlice c x).cap = s.cap := (rfl)
@[simp] theorem State.setSlice_ledgers : (s.setSlice c x).ledgers = s.ledgers := (rfl)
@[simp] theorem State.setSlice_packets : (s.setSlice c x).packets = s.packets := (rfl)
@[simp] theorem State.setSlice_nextPid : (s.setSlice c x).nextPid = s.nextPid := (rfl)
@[simp] theorem State.setSlice_waiting : (s.setSlice c x).waiting = s.waiting := (rfl)
@[simp] theorem State.setSlice_served : (s.setSlice c x).served = s.served := (rfl)
@[simp] theorem State.setSlice_bufErr : (s.setSlice c x).bufErr = s.bufErr := (rfl)
@[simp] theorem State.setSlice_scrubBack : (s.setSlice c x).scrubBack = s.scrubBack := (rfl)
@[simp] theorem State.setSlice_revived : (s.setSlice c x).revived = s.revived := (rfl)
@[simp] theorem State.setSlice_refresh : (s.setSlice c x).refresh = s.refresh := (rfl)
@[simp] theorem State.setSlice_jobs : (s.setSlice c x).jobs = s.jobs := (rfl)
@[simp] theorem State.setSlice_sends : (s.setSlice c x).sends = s.sends := (rfl)
@[simp] theorem State.setSlice_deadCnt : (s.setSlice c x).deadCnt = s.deadCnt := (rfl)
@[simp] theorem State.setSlice_scrubProg : (s.setSlice c x).scrubProg = s.scrubProg := (rfl)
@[simp] theorem State.setSlice_scrubScratch : (s.setSlice c x).scrubScratch = s.scrubScratch := (rfl)
@[simp] theorem State.setSlice_lanes : (s.setSlice c x).lanes = s.lanes := (rfl)
@[simp] theorem State.setSlice_mon : (s.setSlice c x).mon = s.mon := (rfl)
@[simp] theorem State.setSlice_led : (s.setSlice c x).led = s.led := (rfl)
@[simp] theorem State.setSlice_adcCal : (s.setSlice c x).adcCal = s.adcCal := (rfl)
@[simp] theorem State.setSlice_adcAsk : (s.setSlice c x).adcAsk = s.adcAsk := (rfl)
@[simp] theorem State.setSlice_adcStart : (s.setSlice c x).adcStart = s.adcStart := (rfl)
@[simp] theorem State.setSlice_edgeQuads : (s.setSlice c x).edgeQuads = s.edgeQuads := (rfl)
@[simp] theorem State.setSlice_dueSeen : (s.setSlice c x).dueSeen = s.dueSeen := (rfl)
@[simp] theorem State.setSlice_tap : (s.setSlice c x).tap = s.tap := (rfl)

end

/-! ### `State.modSlice` changes `slices` only -/

section
variable (s : State) (c : Nat) (f : Slice → Slice)

@[simp] theorem State.modSlice_pending : (s.modSlice c f).pending = s.pending := (rfl)
@[simp] theorem State.modSlice_free : (s.modSlice c f).free = s.free := (rfl)
@[simp] theorem State.modSlice_cyc : (s.modSlice c f).cyc = s.cyc := (rfl)
@[simp] theorem State.modSlice_bp : (s.modSlice c f).bp = s.bp := (rfl)
@[simp] theorem State.modSlice_regs : (s.modSlice c f).regs = s.regs := (rfl)
@[simp] theorem State.modSlice_rwo : (s.modSlice c f).rwo = s.rwo := (rfl)
@[simp] theorem State.modSlice_rwoOld : (s.modSlice c f).rwoOld = s.rwoOld := (rfl)
@[simp] theorem State.modSlice_setNow : (s.modSlice c f).setNow = s.setNow := (rfl)
@[simp] theorem State.modSlice_cycle0 : (s.modSlice c f).cycle0 = s.cycle0 := (rfl)
@[simp] theorem State.modSlice_admDirty : (s.modSlice c f).admDirty = s.admDirty := (rfl)
@[simp] theorem State.modSlice_prog : (s.modSlice c f).prog = s.prog := (rfl)
@[simp] theorem State.modSlice_progBad : (s.modSlice c f).progBad = s.progBad := (rfl)
@[simp] theorem State.modSlice_scratch : (s.modSlice c f).scratch = s.scratch := (rfl)
@[simp] theorem State.modSlice_scratchBad : (s.modSlice c f).scratchBad = s.scratchBad := (rfl)
@[simp] theorem State.modSlice_fuses : (s.modSlice c f).fuses = s.fuses := (rfl)
@[simp] theorem State.modSlice_shadow : (s.modSlice c f).shadow = s.shadow := (rfl)
@[simp] theorem State.modSlice_clk : (s.modSlice c f).clk = s.clk := (rfl)
@[simp] theorem State.modSlice_pins : (s.modSlice c f).pins = s.pins := (rfl)
@[simp] theorem State.modSlice_rst : (s.modSlice c f).rst = s.rst := (rfl)
@[simp] theorem State.modSlice_restarts : (s.modSlice c f).restarts = s.restarts := (rfl)
@[simp] theorem State.modSlice_mode : (s.modSlice c f).mode = s.mode := (rfl)
@[simp] theorem State.modSlice_target : (s.modSlice c f).target = s.target := (rfl)
@[simp] theorem State.modSlice_testEnd : (s.modSlice c f).testEnd = s.testEnd := (rfl)
@[simp] theorem State.modSlice_degraded : (s.modSlice c f).degraded = s.degraded := (rfl)
@[simp] theorem State.modSlice_groups : (s.modSlice c f).groups = s.groups := (rfl)
@[simp] theorem State.modSlice_quadRun : (s.modSlice c f).quadRun = s.quadRun := (rfl)
@[simp] theorem State.modSlice_squares : (s.modSlice c f).squares = s.squares := (rfl)
@[simp] theorem State.modSlice_a1 : (s.modSlice c f).a1 = s.a1 := (rfl)
@[simp] theorem State.modSlice_rr : (s.modSlice c f).rr = s.rr := (rfl)
@[simp] theorem State.modSlice_raised : (s.modSlice c f).raised = s.raised := (rfl)
@[simp] theorem State.modSlice_bucket : (s.modSlice c f).bucket = s.bucket := (rfl)
@[simp] theorem State.modSlice_debt : (s.modSlice c f).debt = s.debt := (rfl)
@[simp] theorem State.modSlice_hwreqs : (s.modSlice c f).hwreqs = s.hwreqs := (rfl)
@[simp] theorem State.modSlice_refProg : (s.modSlice c f).refProg = s.refProg := (rfl)
@[simp] theorem State.modSlice_refA1 : (s.modSlice c f).refA1 = s.refA1 := (rfl)
@[simp] theorem State.modSlice_reports : (s.modSlice c f).reports = s.reports := (rfl)
@[simp] theorem State.modSlice_sid : (s.modSlice c f).sid = s.sid := (rfl)
@[simp] theorem State.modSlice_tm : (s.modSlice c f).tm = s.tm := (rfl)
@[simp] theorem State.modSlice_portOut : (s.modSlice c f).portOut = s.portOut := (rfl)
@[simp] theorem State.modSlice_bcid : (s.modSlice c f).bcid = s.bcid := (rfl)
@[simp] theorem State.modSlice_orbit : (s.modSlice c f).orbit = s.orbit := (rfl)
@[simp] theorem State.modSlice_seq : (s.modSlice c f).seq = s.seq := (rfl)
@[simp] theorem State.modSlice_orbStart : (s.modSlice c f).orbStart = s.orbStart := (rfl)
@[simp] theorem State.modSlice_orbSeen : (s.modSlice c f).orbSeen = s.orbSeen := (rfl)
@[simp] theorem State.modSlice_gap : (s.modSlice c f).gap = s.gap := (rfl)
@[simp] theorem State.modSlice_bgDone : (s.modSlice c f).bgDone = s.bgDone := (rfl)
@[simp] theorem State.modSlice_tim : (s.modSlice c f).tim = s.tim := (rfl)
@[simp] theorem State.modSlice_bpHist : (s.modSlice c f).bpHist = s.bpHist := (rfl)
@[simp] theorem State.modSlice_tempBase : (s.modSlice c f).tempBase = s.tempBase := (rfl)
@[simp] theorem State.modSlice_tempSeen : (s.modSlice c f).tempSeen = s.tempSeen := (rfl)
@[simp] theorem State.modSlice_edges : (s.modSlice c f).edges = s.edges := (rfl)
@[simp] theorem State.modSlice_fto : (s.modSlice c f).fto = s.fto := (rfl)
@[simp] theorem State.modSlice_tb : (s.modSlice c f).tb = s.tb := (rfl)
@[simp] theorem State.modSlice_tbCells : (s.modSlice c f).tbCells = s.tbCells := (rfl)
@[simp] theorem State.modSlice_wins : (s.modSlice c f).wins = s.wins := (rfl)
@[simp] theorem State.modSlice_marks : (s.modSlice c f).marks = s.marks := (rfl)
@[simp] theorem State.modSlice_cap : (s.modSlice c f).cap = s.cap := (rfl)
@[simp] theorem State.modSlice_ledgers : (s.modSlice c f).ledgers = s.ledgers := (rfl)
@[simp] theorem State.modSlice_packets : (s.modSlice c f).packets = s.packets := (rfl)
@[simp] theorem State.modSlice_nextPid : (s.modSlice c f).nextPid = s.nextPid := (rfl)
@[simp] theorem State.modSlice_waiting : (s.modSlice c f).waiting = s.waiting := (rfl)
@[simp] theorem State.modSlice_served : (s.modSlice c f).served = s.served := (rfl)
@[simp] theorem State.modSlice_bufErr : (s.modSlice c f).bufErr = s.bufErr := (rfl)
@[simp] theorem State.modSlice_scrubBack : (s.modSlice c f).scrubBack = s.scrubBack := (rfl)
@[simp] theorem State.modSlice_revived : (s.modSlice c f).revived = s.revived := (rfl)
@[simp] theorem State.modSlice_refresh : (s.modSlice c f).refresh = s.refresh := (rfl)
@[simp] theorem State.modSlice_jobs : (s.modSlice c f).jobs = s.jobs := (rfl)
@[simp] theorem State.modSlice_sends : (s.modSlice c f).sends = s.sends := (rfl)
@[simp] theorem State.modSlice_deadCnt : (s.modSlice c f).deadCnt = s.deadCnt := (rfl)
@[simp] theorem State.modSlice_scrubProg : (s.modSlice c f).scrubProg = s.scrubProg := (rfl)
@[simp] theorem State.modSlice_scrubScratch : (s.modSlice c f).scrubScratch = s.scrubScratch := (rfl)
@[simp] theorem State.modSlice_lanes : (s.modSlice c f).lanes = s.lanes := (rfl)
@[simp] theorem State.modSlice_mon : (s.modSlice c f).mon = s.mon := (rfl)
@[simp] theorem State.modSlice_led : (s.modSlice c f).led = s.led := (rfl)
@[simp] theorem State.modSlice_adcCal : (s.modSlice c f).adcCal = s.adcCal := (rfl)
@[simp] theorem State.modSlice_adcAsk : (s.modSlice c f).adcAsk = s.adcAsk := (rfl)
@[simp] theorem State.modSlice_adcStart : (s.modSlice c f).adcStart = s.adcStart := (rfl)
@[simp] theorem State.modSlice_edgeQuads : (s.modSlice c f).edgeQuads = s.edgeQuads := (rfl)
@[simp] theorem State.modSlice_dueSeen : (s.modSlice c f).dueSeen = s.dueSeen := (rfl)
@[simp] theorem State.modSlice_tap : (s.modSlice c f).tap = s.tap := (rfl)

end

/-! ### `State.setGroup` changes `groups` only -/

section
variable (s : State) (n : Nat) (g : GroupSt)

@[simp] theorem State.setGroup_pending : (s.setGroup n g).pending = s.pending := (rfl)
@[simp] theorem State.setGroup_free : (s.setGroup n g).free = s.free := (rfl)
@[simp] theorem State.setGroup_cyc : (s.setGroup n g).cyc = s.cyc := (rfl)
@[simp] theorem State.setGroup_bp : (s.setGroup n g).bp = s.bp := (rfl)
@[simp] theorem State.setGroup_regs : (s.setGroup n g).regs = s.regs := (rfl)
@[simp] theorem State.setGroup_rwo : (s.setGroup n g).rwo = s.rwo := (rfl)
@[simp] theorem State.setGroup_rwoOld : (s.setGroup n g).rwoOld = s.rwoOld := (rfl)
@[simp] theorem State.setGroup_setNow : (s.setGroup n g).setNow = s.setNow := (rfl)
@[simp] theorem State.setGroup_cycle0 : (s.setGroup n g).cycle0 = s.cycle0 := (rfl)
@[simp] theorem State.setGroup_admDirty : (s.setGroup n g).admDirty = s.admDirty := (rfl)
@[simp] theorem State.setGroup_prog : (s.setGroup n g).prog = s.prog := (rfl)
@[simp] theorem State.setGroup_progBad : (s.setGroup n g).progBad = s.progBad := (rfl)
@[simp] theorem State.setGroup_scratch : (s.setGroup n g).scratch = s.scratch := (rfl)
@[simp] theorem State.setGroup_scratchBad : (s.setGroup n g).scratchBad = s.scratchBad := (rfl)
@[simp] theorem State.setGroup_fuses : (s.setGroup n g).fuses = s.fuses := (rfl)
@[simp] theorem State.setGroup_shadow : (s.setGroup n g).shadow = s.shadow := (rfl)
@[simp] theorem State.setGroup_clk : (s.setGroup n g).clk = s.clk := (rfl)
@[simp] theorem State.setGroup_pins : (s.setGroup n g).pins = s.pins := (rfl)
@[simp] theorem State.setGroup_rst : (s.setGroup n g).rst = s.rst := (rfl)
@[simp] theorem State.setGroup_restarts : (s.setGroup n g).restarts = s.restarts := (rfl)
@[simp] theorem State.setGroup_mode : (s.setGroup n g).mode = s.mode := (rfl)
@[simp] theorem State.setGroup_target : (s.setGroup n g).target = s.target := (rfl)
@[simp] theorem State.setGroup_testEnd : (s.setGroup n g).testEnd = s.testEnd := (rfl)
@[simp] theorem State.setGroup_degraded : (s.setGroup n g).degraded = s.degraded := (rfl)
@[simp] theorem State.setGroup_quadRun : (s.setGroup n g).quadRun = s.quadRun := (rfl)
@[simp] theorem State.setGroup_squares : (s.setGroup n g).squares = s.squares := (rfl)
@[simp] theorem State.setGroup_a1 : (s.setGroup n g).a1 = s.a1 := (rfl)
@[simp] theorem State.setGroup_rr : (s.setGroup n g).rr = s.rr := (rfl)
@[simp] theorem State.setGroup_raised : (s.setGroup n g).raised = s.raised := (rfl)
@[simp] theorem State.setGroup_bucket : (s.setGroup n g).bucket = s.bucket := (rfl)
@[simp] theorem State.setGroup_debt : (s.setGroup n g).debt = s.debt := (rfl)
@[simp] theorem State.setGroup_hwreqs : (s.setGroup n g).hwreqs = s.hwreqs := (rfl)
@[simp] theorem State.setGroup_refProg : (s.setGroup n g).refProg = s.refProg := (rfl)
@[simp] theorem State.setGroup_refA1 : (s.setGroup n g).refA1 = s.refA1 := (rfl)
@[simp] theorem State.setGroup_reports : (s.setGroup n g).reports = s.reports := (rfl)
@[simp] theorem State.setGroup_sid : (s.setGroup n g).sid = s.sid := (rfl)
@[simp] theorem State.setGroup_tm : (s.setGroup n g).tm = s.tm := (rfl)
@[simp] theorem State.setGroup_portOut : (s.setGroup n g).portOut = s.portOut := (rfl)
@[simp] theorem State.setGroup_bcid : (s.setGroup n g).bcid = s.bcid := (rfl)
@[simp] theorem State.setGroup_orbit : (s.setGroup n g).orbit = s.orbit := (rfl)
@[simp] theorem State.setGroup_seq : (s.setGroup n g).seq = s.seq := (rfl)
@[simp] theorem State.setGroup_orbStart : (s.setGroup n g).orbStart = s.orbStart := (rfl)
@[simp] theorem State.setGroup_orbSeen : (s.setGroup n g).orbSeen = s.orbSeen := (rfl)
@[simp] theorem State.setGroup_gap : (s.setGroup n g).gap = s.gap := (rfl)
@[simp] theorem State.setGroup_bgDone : (s.setGroup n g).bgDone = s.bgDone := (rfl)
@[simp] theorem State.setGroup_tim : (s.setGroup n g).tim = s.tim := (rfl)
@[simp] theorem State.setGroup_slices : (s.setGroup n g).slices = s.slices := (rfl)
@[simp] theorem State.setGroup_bpHist : (s.setGroup n g).bpHist = s.bpHist := (rfl)
@[simp] theorem State.setGroup_tempBase : (s.setGroup n g).tempBase = s.tempBase := (rfl)
@[simp] theorem State.setGroup_tempSeen : (s.setGroup n g).tempSeen = s.tempSeen := (rfl)
@[simp] theorem State.setGroup_edges : (s.setGroup n g).edges = s.edges := (rfl)
@[simp] theorem State.setGroup_fto : (s.setGroup n g).fto = s.fto := (rfl)
@[simp] theorem State.setGroup_tb : (s.setGroup n g).tb = s.tb := (rfl)
@[simp] theorem State.setGroup_tbCells : (s.setGroup n g).tbCells = s.tbCells := (rfl)
@[simp] theorem State.setGroup_wins : (s.setGroup n g).wins = s.wins := (rfl)
@[simp] theorem State.setGroup_marks : (s.setGroup n g).marks = s.marks := (rfl)
@[simp] theorem State.setGroup_cap : (s.setGroup n g).cap = s.cap := (rfl)
@[simp] theorem State.setGroup_ledgers : (s.setGroup n g).ledgers = s.ledgers := (rfl)
@[simp] theorem State.setGroup_packets : (s.setGroup n g).packets = s.packets := (rfl)
@[simp] theorem State.setGroup_nextPid : (s.setGroup n g).nextPid = s.nextPid := (rfl)
@[simp] theorem State.setGroup_waiting : (s.setGroup n g).waiting = s.waiting := (rfl)
@[simp] theorem State.setGroup_served : (s.setGroup n g).served = s.served := (rfl)
@[simp] theorem State.setGroup_bufErr : (s.setGroup n g).bufErr = s.bufErr := (rfl)
@[simp] theorem State.setGroup_scrubBack : (s.setGroup n g).scrubBack = s.scrubBack := (rfl)
@[simp] theorem State.setGroup_revived : (s.setGroup n g).revived = s.revived := (rfl)
@[simp] theorem State.setGroup_refresh : (s.setGroup n g).refresh = s.refresh := (rfl)
@[simp] theorem State.setGroup_jobs : (s.setGroup n g).jobs = s.jobs := (rfl)
@[simp] theorem State.setGroup_sends : (s.setGroup n g).sends = s.sends := (rfl)
@[simp] theorem State.setGroup_deadCnt : (s.setGroup n g).deadCnt = s.deadCnt := (rfl)
@[simp] theorem State.setGroup_scrubProg : (s.setGroup n g).scrubProg = s.scrubProg := (rfl)
@[simp] theorem State.setGroup_scrubScratch : (s.setGroup n g).scrubScratch = s.scrubScratch := (rfl)
@[simp] theorem State.setGroup_lanes : (s.setGroup n g).lanes = s.lanes := (rfl)
@[simp] theorem State.setGroup_mon : (s.setGroup n g).mon = s.mon := (rfl)
@[simp] theorem State.setGroup_led : (s.setGroup n g).led = s.led := (rfl)
@[simp] theorem State.setGroup_adcCal : (s.setGroup n g).adcCal = s.adcCal := (rfl)
@[simp] theorem State.setGroup_adcAsk : (s.setGroup n g).adcAsk = s.adcAsk := (rfl)
@[simp] theorem State.setGroup_adcStart : (s.setGroup n g).adcStart = s.adcStart := (rfl)
@[simp] theorem State.setGroup_edgeQuads : (s.setGroup n g).edgeQuads = s.edgeQuads := (rfl)
@[simp] theorem State.setGroup_dueSeen : (s.setGroup n g).dueSeen = s.dueSeen := (rfl)
@[simp] theorem State.setGroup_tap : (s.setGroup n g).tap = s.tap := (rfl)

end

/-! ### `State.drew` changes `free` only -/

section
variable (s : State) (n : Nat)

@[simp] theorem State.drew_pending : (s.drew n).pending = s.pending := (rfl)
@[simp] theorem State.drew_cyc : (s.drew n).cyc = s.cyc := (rfl)
@[simp] theorem State.drew_bp : (s.drew n).bp = s.bp := (rfl)
@[simp] theorem State.drew_regs : (s.drew n).regs = s.regs := (rfl)
@[simp] theorem State.drew_rwo : (s.drew n).rwo = s.rwo := (rfl)
@[simp] theorem State.drew_rwoOld : (s.drew n).rwoOld = s.rwoOld := (rfl)
@[simp] theorem State.drew_setNow : (s.drew n).setNow = s.setNow := (rfl)
@[simp] theorem State.drew_cycle0 : (s.drew n).cycle0 = s.cycle0 := (rfl)
@[simp] theorem State.drew_admDirty : (s.drew n).admDirty = s.admDirty := (rfl)
@[simp] theorem State.drew_prog : (s.drew n).prog = s.prog := (rfl)
@[simp] theorem State.drew_progBad : (s.drew n).progBad = s.progBad := (rfl)
@[simp] theorem State.drew_scratch : (s.drew n).scratch = s.scratch := (rfl)
@[simp] theorem State.drew_scratchBad : (s.drew n).scratchBad = s.scratchBad := (rfl)
@[simp] theorem State.drew_fuses : (s.drew n).fuses = s.fuses := (rfl)
@[simp] theorem State.drew_shadow : (s.drew n).shadow = s.shadow := (rfl)
@[simp] theorem State.drew_clk : (s.drew n).clk = s.clk := (rfl)
@[simp] theorem State.drew_pins : (s.drew n).pins = s.pins := (rfl)
@[simp] theorem State.drew_rst : (s.drew n).rst = s.rst := (rfl)
@[simp] theorem State.drew_restarts : (s.drew n).restarts = s.restarts := (rfl)
@[simp] theorem State.drew_mode : (s.drew n).mode = s.mode := (rfl)
@[simp] theorem State.drew_target : (s.drew n).target = s.target := (rfl)
@[simp] theorem State.drew_testEnd : (s.drew n).testEnd = s.testEnd := (rfl)
@[simp] theorem State.drew_degraded : (s.drew n).degraded = s.degraded := (rfl)
@[simp] theorem State.drew_groups : (s.drew n).groups = s.groups := (rfl)
@[simp] theorem State.drew_quadRun : (s.drew n).quadRun = s.quadRun := (rfl)
@[simp] theorem State.drew_squares : (s.drew n).squares = s.squares := (rfl)
@[simp] theorem State.drew_a1 : (s.drew n).a1 = s.a1 := (rfl)
@[simp] theorem State.drew_rr : (s.drew n).rr = s.rr := (rfl)
@[simp] theorem State.drew_raised : (s.drew n).raised = s.raised := (rfl)
@[simp] theorem State.drew_bucket : (s.drew n).bucket = s.bucket := (rfl)
@[simp] theorem State.drew_debt : (s.drew n).debt = s.debt := (rfl)
@[simp] theorem State.drew_hwreqs : (s.drew n).hwreqs = s.hwreqs := (rfl)
@[simp] theorem State.drew_refProg : (s.drew n).refProg = s.refProg := (rfl)
@[simp] theorem State.drew_refA1 : (s.drew n).refA1 = s.refA1 := (rfl)
@[simp] theorem State.drew_reports : (s.drew n).reports = s.reports := (rfl)
@[simp] theorem State.drew_sid : (s.drew n).sid = s.sid := (rfl)
@[simp] theorem State.drew_tm : (s.drew n).tm = s.tm := (rfl)
@[simp] theorem State.drew_portOut : (s.drew n).portOut = s.portOut := (rfl)
@[simp] theorem State.drew_bcid : (s.drew n).bcid = s.bcid := (rfl)
@[simp] theorem State.drew_orbit : (s.drew n).orbit = s.orbit := (rfl)
@[simp] theorem State.drew_seq : (s.drew n).seq = s.seq := (rfl)
@[simp] theorem State.drew_orbStart : (s.drew n).orbStart = s.orbStart := (rfl)
@[simp] theorem State.drew_orbSeen : (s.drew n).orbSeen = s.orbSeen := (rfl)
@[simp] theorem State.drew_gap : (s.drew n).gap = s.gap := (rfl)
@[simp] theorem State.drew_bgDone : (s.drew n).bgDone = s.bgDone := (rfl)
@[simp] theorem State.drew_tim : (s.drew n).tim = s.tim := (rfl)
@[simp] theorem State.drew_slices : (s.drew n).slices = s.slices := (rfl)
@[simp] theorem State.drew_bpHist : (s.drew n).bpHist = s.bpHist := (rfl)
@[simp] theorem State.drew_tempBase : (s.drew n).tempBase = s.tempBase := (rfl)
@[simp] theorem State.drew_tempSeen : (s.drew n).tempSeen = s.tempSeen := (rfl)
@[simp] theorem State.drew_edges : (s.drew n).edges = s.edges := (rfl)
@[simp] theorem State.drew_fto : (s.drew n).fto = s.fto := (rfl)
@[simp] theorem State.drew_tb : (s.drew n).tb = s.tb := (rfl)
@[simp] theorem State.drew_tbCells : (s.drew n).tbCells = s.tbCells := (rfl)
@[simp] theorem State.drew_wins : (s.drew n).wins = s.wins := (rfl)
@[simp] theorem State.drew_marks : (s.drew n).marks = s.marks := (rfl)
@[simp] theorem State.drew_cap : (s.drew n).cap = s.cap := (rfl)
@[simp] theorem State.drew_ledgers : (s.drew n).ledgers = s.ledgers := (rfl)
@[simp] theorem State.drew_packets : (s.drew n).packets = s.packets := (rfl)
@[simp] theorem State.drew_nextPid : (s.drew n).nextPid = s.nextPid := (rfl)
@[simp] theorem State.drew_waiting : (s.drew n).waiting = s.waiting := (rfl)
@[simp] theorem State.drew_served : (s.drew n).served = s.served := (rfl)
@[simp] theorem State.drew_bufErr : (s.drew n).bufErr = s.bufErr := (rfl)
@[simp] theorem State.drew_scrubBack : (s.drew n).scrubBack = s.scrubBack := (rfl)
@[simp] theorem State.drew_revived : (s.drew n).revived = s.revived := (rfl)
@[simp] theorem State.drew_refresh : (s.drew n).refresh = s.refresh := (rfl)
@[simp] theorem State.drew_jobs : (s.drew n).jobs = s.jobs := (rfl)
@[simp] theorem State.drew_sends : (s.drew n).sends = s.sends := (rfl)
@[simp] theorem State.drew_deadCnt : (s.drew n).deadCnt = s.deadCnt := (rfl)
@[simp] theorem State.drew_scrubProg : (s.drew n).scrubProg = s.scrubProg := (rfl)
@[simp] theorem State.drew_scrubScratch : (s.drew n).scrubScratch = s.scrubScratch := (rfl)
@[simp] theorem State.drew_lanes : (s.drew n).lanes = s.lanes := (rfl)
@[simp] theorem State.drew_mon : (s.drew n).mon = s.mon := (rfl)
@[simp] theorem State.drew_led : (s.drew n).led = s.led := (rfl)
@[simp] theorem State.drew_adcCal : (s.drew n).adcCal = s.adcCal := (rfl)
@[simp] theorem State.drew_adcAsk : (s.drew n).adcAsk = s.adcAsk := (rfl)
@[simp] theorem State.drew_adcStart : (s.drew n).adcStart = s.adcStart := (rfl)
@[simp] theorem State.drew_edgeQuads : (s.drew n).edgeQuads = s.edgeQuads := (rfl)
@[simp] theorem State.drew_dueSeen : (s.drew n).dueSeen = s.dueSeen := (rfl)
@[simp] theorem State.drew_tap : (s.drew n).tap = s.tap := (rfl)

end

/-! ### `raiseEv` changes `raised` only -/

section
variable (s : State) (r : Raised)

@[simp] theorem raiseEv_pending : (raiseEv r s).pending = s.pending := (rfl)
@[simp] theorem raiseEv_free : (raiseEv r s).free = s.free := (rfl)
@[simp] theorem raiseEv_cyc : (raiseEv r s).cyc = s.cyc := (rfl)
@[simp] theorem raiseEv_bp : (raiseEv r s).bp = s.bp := (rfl)
@[simp] theorem raiseEv_regs : (raiseEv r s).regs = s.regs := (rfl)
@[simp] theorem raiseEv_rwo : (raiseEv r s).rwo = s.rwo := (rfl)
@[simp] theorem raiseEv_rwoOld : (raiseEv r s).rwoOld = s.rwoOld := (rfl)
@[simp] theorem raiseEv_setNow : (raiseEv r s).setNow = s.setNow := (rfl)
@[simp] theorem raiseEv_cycle0 : (raiseEv r s).cycle0 = s.cycle0 := (rfl)
@[simp] theorem raiseEv_admDirty : (raiseEv r s).admDirty = s.admDirty := (rfl)
@[simp] theorem raiseEv_prog : (raiseEv r s).prog = s.prog := (rfl)
@[simp] theorem raiseEv_progBad : (raiseEv r s).progBad = s.progBad := (rfl)
@[simp] theorem raiseEv_scratch : (raiseEv r s).scratch = s.scratch := (rfl)
@[simp] theorem raiseEv_scratchBad : (raiseEv r s).scratchBad = s.scratchBad := (rfl)
@[simp] theorem raiseEv_fuses : (raiseEv r s).fuses = s.fuses := (rfl)
@[simp] theorem raiseEv_shadow : (raiseEv r s).shadow = s.shadow := (rfl)
@[simp] theorem raiseEv_clk : (raiseEv r s).clk = s.clk := (rfl)
@[simp] theorem raiseEv_pins : (raiseEv r s).pins = s.pins := (rfl)
@[simp] theorem raiseEv_rst : (raiseEv r s).rst = s.rst := (rfl)
@[simp] theorem raiseEv_restarts : (raiseEv r s).restarts = s.restarts := (rfl)
@[simp] theorem raiseEv_mode : (raiseEv r s).mode = s.mode := (rfl)
@[simp] theorem raiseEv_target : (raiseEv r s).target = s.target := (rfl)
@[simp] theorem raiseEv_testEnd : (raiseEv r s).testEnd = s.testEnd := (rfl)
@[simp] theorem raiseEv_degraded : (raiseEv r s).degraded = s.degraded := (rfl)
@[simp] theorem raiseEv_groups : (raiseEv r s).groups = s.groups := (rfl)
@[simp] theorem raiseEv_quadRun : (raiseEv r s).quadRun = s.quadRun := (rfl)
@[simp] theorem raiseEv_squares : (raiseEv r s).squares = s.squares := (rfl)
@[simp] theorem raiseEv_a1 : (raiseEv r s).a1 = s.a1 := (rfl)
@[simp] theorem raiseEv_rr : (raiseEv r s).rr = s.rr := (rfl)
@[simp] theorem raiseEv_bucket : (raiseEv r s).bucket = s.bucket := (rfl)
@[simp] theorem raiseEv_debt : (raiseEv r s).debt = s.debt := (rfl)
@[simp] theorem raiseEv_hwreqs : (raiseEv r s).hwreqs = s.hwreqs := (rfl)
@[simp] theorem raiseEv_refProg : (raiseEv r s).refProg = s.refProg := (rfl)
@[simp] theorem raiseEv_refA1 : (raiseEv r s).refA1 = s.refA1 := (rfl)
@[simp] theorem raiseEv_reports : (raiseEv r s).reports = s.reports := (rfl)
@[simp] theorem raiseEv_sid : (raiseEv r s).sid = s.sid := (rfl)
@[simp] theorem raiseEv_tm : (raiseEv r s).tm = s.tm := (rfl)
@[simp] theorem raiseEv_portOut : (raiseEv r s).portOut = s.portOut := (rfl)
@[simp] theorem raiseEv_bcid : (raiseEv r s).bcid = s.bcid := (rfl)
@[simp] theorem raiseEv_orbit : (raiseEv r s).orbit = s.orbit := (rfl)
@[simp] theorem raiseEv_seq : (raiseEv r s).seq = s.seq := (rfl)
@[simp] theorem raiseEv_orbStart : (raiseEv r s).orbStart = s.orbStart := (rfl)
@[simp] theorem raiseEv_orbSeen : (raiseEv r s).orbSeen = s.orbSeen := (rfl)
@[simp] theorem raiseEv_gap : (raiseEv r s).gap = s.gap := (rfl)
@[simp] theorem raiseEv_bgDone : (raiseEv r s).bgDone = s.bgDone := (rfl)
@[simp] theorem raiseEv_tim : (raiseEv r s).tim = s.tim := (rfl)
@[simp] theorem raiseEv_slices : (raiseEv r s).slices = s.slices := (rfl)
@[simp] theorem raiseEv_bpHist : (raiseEv r s).bpHist = s.bpHist := (rfl)
@[simp] theorem raiseEv_tempBase : (raiseEv r s).tempBase = s.tempBase := (rfl)
@[simp] theorem raiseEv_tempSeen : (raiseEv r s).tempSeen = s.tempSeen := (rfl)
@[simp] theorem raiseEv_edges : (raiseEv r s).edges = s.edges := (rfl)
@[simp] theorem raiseEv_fto : (raiseEv r s).fto = s.fto := (rfl)
@[simp] theorem raiseEv_tb : (raiseEv r s).tb = s.tb := (rfl)
@[simp] theorem raiseEv_tbCells : (raiseEv r s).tbCells = s.tbCells := (rfl)
@[simp] theorem raiseEv_wins : (raiseEv r s).wins = s.wins := (rfl)
@[simp] theorem raiseEv_marks : (raiseEv r s).marks = s.marks := (rfl)
@[simp] theorem raiseEv_cap : (raiseEv r s).cap = s.cap := (rfl)
@[simp] theorem raiseEv_ledgers : (raiseEv r s).ledgers = s.ledgers := (rfl)
@[simp] theorem raiseEv_packets : (raiseEv r s).packets = s.packets := (rfl)
@[simp] theorem raiseEv_nextPid : (raiseEv r s).nextPid = s.nextPid := (rfl)
@[simp] theorem raiseEv_waiting : (raiseEv r s).waiting = s.waiting := (rfl)
@[simp] theorem raiseEv_served : (raiseEv r s).served = s.served := (rfl)
@[simp] theorem raiseEv_bufErr : (raiseEv r s).bufErr = s.bufErr := (rfl)
@[simp] theorem raiseEv_scrubBack : (raiseEv r s).scrubBack = s.scrubBack := (rfl)
@[simp] theorem raiseEv_revived : (raiseEv r s).revived = s.revived := (rfl)
@[simp] theorem raiseEv_refresh : (raiseEv r s).refresh = s.refresh := (rfl)
@[simp] theorem raiseEv_jobs : (raiseEv r s).jobs = s.jobs := (rfl)
@[simp] theorem raiseEv_sends : (raiseEv r s).sends = s.sends := (rfl)
@[simp] theorem raiseEv_deadCnt : (raiseEv r s).deadCnt = s.deadCnt := (rfl)
@[simp] theorem raiseEv_scrubProg : (raiseEv r s).scrubProg = s.scrubProg := (rfl)
@[simp] theorem raiseEv_scrubScratch : (raiseEv r s).scrubScratch = s.scrubScratch := (rfl)
@[simp] theorem raiseEv_lanes : (raiseEv r s).lanes = s.lanes := (rfl)
@[simp] theorem raiseEv_mon : (raiseEv r s).mon = s.mon := (rfl)
@[simp] theorem raiseEv_led : (raiseEv r s).led = s.led := (rfl)
@[simp] theorem raiseEv_adcCal : (raiseEv r s).adcCal = s.adcCal := (rfl)
@[simp] theorem raiseEv_adcAsk : (raiseEv r s).adcAsk = s.adcAsk := (rfl)
@[simp] theorem raiseEv_adcStart : (raiseEv r s).adcStart = s.adcStart := (rfl)
@[simp] theorem raiseEv_edgeQuads : (raiseEv r s).edgeQuads = s.edgeQuads := (rfl)
@[simp] theorem raiseEv_dueSeen : (raiseEv r s).dueSeen = s.dueSeen := (rfl)
@[simp] theorem raiseEv_tap : (raiseEv r s).tap = s.tap := (rfl)

end

/-! ### `Fld.wr` changes `regs` only -/

section
variable (s : State) (f : Fld) (v : Nat)

@[simp] theorem Fld.wr_pending : (f.wr v s).pending = s.pending := (rfl)
@[simp] theorem Fld.wr_free : (f.wr v s).free = s.free := (rfl)
@[simp] theorem Fld.wr_cyc : (f.wr v s).cyc = s.cyc := (rfl)
@[simp] theorem Fld.wr_bp : (f.wr v s).bp = s.bp := (rfl)
@[simp] theorem Fld.wr_rwo : (f.wr v s).rwo = s.rwo := (rfl)
@[simp] theorem Fld.wr_rwoOld : (f.wr v s).rwoOld = s.rwoOld := (rfl)
@[simp] theorem Fld.wr_setNow : (f.wr v s).setNow = s.setNow := (rfl)
@[simp] theorem Fld.wr_cycle0 : (f.wr v s).cycle0 = s.cycle0 := (rfl)
@[simp] theorem Fld.wr_admDirty : (f.wr v s).admDirty = s.admDirty := (rfl)
@[simp] theorem Fld.wr_prog : (f.wr v s).prog = s.prog := (rfl)
@[simp] theorem Fld.wr_progBad : (f.wr v s).progBad = s.progBad := (rfl)
@[simp] theorem Fld.wr_scratch : (f.wr v s).scratch = s.scratch := (rfl)
@[simp] theorem Fld.wr_scratchBad : (f.wr v s).scratchBad = s.scratchBad := (rfl)
@[simp] theorem Fld.wr_fuses : (f.wr v s).fuses = s.fuses := (rfl)
@[simp] theorem Fld.wr_shadow : (f.wr v s).shadow = s.shadow := (rfl)
@[simp] theorem Fld.wr_clk : (f.wr v s).clk = s.clk := (rfl)
@[simp] theorem Fld.wr_pins : (f.wr v s).pins = s.pins := (rfl)
@[simp] theorem Fld.wr_rst : (f.wr v s).rst = s.rst := (rfl)
@[simp] theorem Fld.wr_restarts : (f.wr v s).restarts = s.restarts := (rfl)
@[simp] theorem Fld.wr_mode : (f.wr v s).mode = s.mode := (rfl)
@[simp] theorem Fld.wr_target : (f.wr v s).target = s.target := (rfl)
@[simp] theorem Fld.wr_testEnd : (f.wr v s).testEnd = s.testEnd := (rfl)
@[simp] theorem Fld.wr_degraded : (f.wr v s).degraded = s.degraded := (rfl)
@[simp] theorem Fld.wr_groups : (f.wr v s).groups = s.groups := (rfl)
@[simp] theorem Fld.wr_quadRun : (f.wr v s).quadRun = s.quadRun := (rfl)
@[simp] theorem Fld.wr_squares : (f.wr v s).squares = s.squares := (rfl)
@[simp] theorem Fld.wr_a1 : (f.wr v s).a1 = s.a1 := (rfl)
@[simp] theorem Fld.wr_rr : (f.wr v s).rr = s.rr := (rfl)
@[simp] theorem Fld.wr_raised : (f.wr v s).raised = s.raised := (rfl)
@[simp] theorem Fld.wr_bucket : (f.wr v s).bucket = s.bucket := (rfl)
@[simp] theorem Fld.wr_debt : (f.wr v s).debt = s.debt := (rfl)
@[simp] theorem Fld.wr_hwreqs : (f.wr v s).hwreqs = s.hwreqs := (rfl)
@[simp] theorem Fld.wr_refProg : (f.wr v s).refProg = s.refProg := (rfl)
@[simp] theorem Fld.wr_refA1 : (f.wr v s).refA1 = s.refA1 := (rfl)
@[simp] theorem Fld.wr_reports : (f.wr v s).reports = s.reports := (rfl)
@[simp] theorem Fld.wr_sid : (f.wr v s).sid = s.sid := (rfl)
@[simp] theorem Fld.wr_tm : (f.wr v s).tm = s.tm := (rfl)
@[simp] theorem Fld.wr_portOut : (f.wr v s).portOut = s.portOut := (rfl)
@[simp] theorem Fld.wr_bcid : (f.wr v s).bcid = s.bcid := (rfl)
@[simp] theorem Fld.wr_orbit : (f.wr v s).orbit = s.orbit := (rfl)
@[simp] theorem Fld.wr_seq : (f.wr v s).seq = s.seq := (rfl)
@[simp] theorem Fld.wr_orbStart : (f.wr v s).orbStart = s.orbStart := (rfl)
@[simp] theorem Fld.wr_orbSeen : (f.wr v s).orbSeen = s.orbSeen := (rfl)
@[simp] theorem Fld.wr_gap : (f.wr v s).gap = s.gap := (rfl)
@[simp] theorem Fld.wr_bgDone : (f.wr v s).bgDone = s.bgDone := (rfl)
@[simp] theorem Fld.wr_tim : (f.wr v s).tim = s.tim := (rfl)
@[simp] theorem Fld.wr_slices : (f.wr v s).slices = s.slices := (rfl)
@[simp] theorem Fld.wr_bpHist : (f.wr v s).bpHist = s.bpHist := (rfl)
@[simp] theorem Fld.wr_tempBase : (f.wr v s).tempBase = s.tempBase := (rfl)
@[simp] theorem Fld.wr_tempSeen : (f.wr v s).tempSeen = s.tempSeen := (rfl)
@[simp] theorem Fld.wr_edges : (f.wr v s).edges = s.edges := (rfl)
@[simp] theorem Fld.wr_fto : (f.wr v s).fto = s.fto := (rfl)
@[simp] theorem Fld.wr_tb : (f.wr v s).tb = s.tb := (rfl)
@[simp] theorem Fld.wr_tbCells : (f.wr v s).tbCells = s.tbCells := (rfl)
@[simp] theorem Fld.wr_wins : (f.wr v s).wins = s.wins := (rfl)
@[simp] theorem Fld.wr_marks : (f.wr v s).marks = s.marks := (rfl)
@[simp] theorem Fld.wr_cap : (f.wr v s).cap = s.cap := (rfl)
@[simp] theorem Fld.wr_ledgers : (f.wr v s).ledgers = s.ledgers := (rfl)
@[simp] theorem Fld.wr_packets : (f.wr v s).packets = s.packets := (rfl)
@[simp] theorem Fld.wr_nextPid : (f.wr v s).nextPid = s.nextPid := (rfl)
@[simp] theorem Fld.wr_waiting : (f.wr v s).waiting = s.waiting := (rfl)
@[simp] theorem Fld.wr_served : (f.wr v s).served = s.served := (rfl)
@[simp] theorem Fld.wr_bufErr : (f.wr v s).bufErr = s.bufErr := (rfl)
@[simp] theorem Fld.wr_scrubBack : (f.wr v s).scrubBack = s.scrubBack := (rfl)
@[simp] theorem Fld.wr_revived : (f.wr v s).revived = s.revived := (rfl)
@[simp] theorem Fld.wr_refresh : (f.wr v s).refresh = s.refresh := (rfl)
@[simp] theorem Fld.wr_jobs : (f.wr v s).jobs = s.jobs := (rfl)
@[simp] theorem Fld.wr_sends : (f.wr v s).sends = s.sends := (rfl)
@[simp] theorem Fld.wr_deadCnt : (f.wr v s).deadCnt = s.deadCnt := (rfl)
@[simp] theorem Fld.wr_scrubProg : (f.wr v s).scrubProg = s.scrubProg := (rfl)
@[simp] theorem Fld.wr_scrubScratch : (f.wr v s).scrubScratch = s.scrubScratch := (rfl)
@[simp] theorem Fld.wr_lanes : (f.wr v s).lanes = s.lanes := (rfl)
@[simp] theorem Fld.wr_mon : (f.wr v s).mon = s.mon := (rfl)
@[simp] theorem Fld.wr_led : (f.wr v s).led = s.led := (rfl)
@[simp] theorem Fld.wr_adcCal : (f.wr v s).adcCal = s.adcCal := (rfl)
@[simp] theorem Fld.wr_adcAsk : (f.wr v s).adcAsk = s.adcAsk := (rfl)
@[simp] theorem Fld.wr_adcStart : (f.wr v s).adcStart = s.adcStart := (rfl)
@[simp] theorem Fld.wr_edgeQuads : (f.wr v s).edgeQuads = s.edgeQuads := (rfl)
@[simp] theorem Fld.wr_dueSeen : (f.wr v s).dueSeen = s.dueSeen := (rfl)
@[simp] theorem Fld.wr_tap : (f.wr v s).tap = s.tap := (rfl)

end

/-! ### `Fld.count` changes `regs` only -/

section
variable (s : State) (f : Fld) (n : Nat)

@[simp] theorem Fld.count_pending : (f.count n s).pending = s.pending := Fld.wr_pending ..
@[simp] theorem Fld.count_free : (f.count n s).free = s.free := Fld.wr_free ..
@[simp] theorem Fld.count_cyc : (f.count n s).cyc = s.cyc := Fld.wr_cyc ..
@[simp] theorem Fld.count_bp : (f.count n s).bp = s.bp := Fld.wr_bp ..
@[simp] theorem Fld.count_rwo : (f.count n s).rwo = s.rwo := Fld.wr_rwo ..
@[simp] theorem Fld.count_rwoOld : (f.count n s).rwoOld = s.rwoOld := Fld.wr_rwoOld ..
@[simp] theorem Fld.count_setNow : (f.count n s).setNow = s.setNow := Fld.wr_setNow ..
@[simp] theorem Fld.count_cycle0 : (f.count n s).cycle0 = s.cycle0 := Fld.wr_cycle0 ..
@[simp] theorem Fld.count_admDirty : (f.count n s).admDirty = s.admDirty := Fld.wr_admDirty ..
@[simp] theorem Fld.count_prog : (f.count n s).prog = s.prog := Fld.wr_prog ..
@[simp] theorem Fld.count_progBad : (f.count n s).progBad = s.progBad := Fld.wr_progBad ..
@[simp] theorem Fld.count_scratch : (f.count n s).scratch = s.scratch := Fld.wr_scratch ..
@[simp] theorem Fld.count_scratchBad : (f.count n s).scratchBad = s.scratchBad := Fld.wr_scratchBad ..
@[simp] theorem Fld.count_fuses : (f.count n s).fuses = s.fuses := Fld.wr_fuses ..
@[simp] theorem Fld.count_shadow : (f.count n s).shadow = s.shadow := Fld.wr_shadow ..
@[simp] theorem Fld.count_clk : (f.count n s).clk = s.clk := Fld.wr_clk ..
@[simp] theorem Fld.count_pins : (f.count n s).pins = s.pins := Fld.wr_pins ..
@[simp] theorem Fld.count_rst : (f.count n s).rst = s.rst := Fld.wr_rst ..
@[simp] theorem Fld.count_restarts : (f.count n s).restarts = s.restarts := Fld.wr_restarts ..
@[simp] theorem Fld.count_mode : (f.count n s).mode = s.mode := Fld.wr_mode ..
@[simp] theorem Fld.count_target : (f.count n s).target = s.target := Fld.wr_target ..
@[simp] theorem Fld.count_testEnd : (f.count n s).testEnd = s.testEnd := Fld.wr_testEnd ..
@[simp] theorem Fld.count_degraded : (f.count n s).degraded = s.degraded := Fld.wr_degraded ..
@[simp] theorem Fld.count_groups : (f.count n s).groups = s.groups := Fld.wr_groups ..
@[simp] theorem Fld.count_quadRun : (f.count n s).quadRun = s.quadRun := Fld.wr_quadRun ..
@[simp] theorem Fld.count_squares : (f.count n s).squares = s.squares := Fld.wr_squares ..
@[simp] theorem Fld.count_a1 : (f.count n s).a1 = s.a1 := Fld.wr_a1 ..
@[simp] theorem Fld.count_rr : (f.count n s).rr = s.rr := Fld.wr_rr ..
@[simp] theorem Fld.count_raised : (f.count n s).raised = s.raised := Fld.wr_raised ..
@[simp] theorem Fld.count_bucket : (f.count n s).bucket = s.bucket := Fld.wr_bucket ..
@[simp] theorem Fld.count_debt : (f.count n s).debt = s.debt := Fld.wr_debt ..
@[simp] theorem Fld.count_hwreqs : (f.count n s).hwreqs = s.hwreqs := Fld.wr_hwreqs ..
@[simp] theorem Fld.count_refProg : (f.count n s).refProg = s.refProg := Fld.wr_refProg ..
@[simp] theorem Fld.count_refA1 : (f.count n s).refA1 = s.refA1 := Fld.wr_refA1 ..
@[simp] theorem Fld.count_reports : (f.count n s).reports = s.reports := Fld.wr_reports ..
@[simp] theorem Fld.count_sid : (f.count n s).sid = s.sid := Fld.wr_sid ..
@[simp] theorem Fld.count_tm : (f.count n s).tm = s.tm := Fld.wr_tm ..
@[simp] theorem Fld.count_portOut : (f.count n s).portOut = s.portOut := Fld.wr_portOut ..
@[simp] theorem Fld.count_bcid : (f.count n s).bcid = s.bcid := Fld.wr_bcid ..
@[simp] theorem Fld.count_orbit : (f.count n s).orbit = s.orbit := Fld.wr_orbit ..
@[simp] theorem Fld.count_seq : (f.count n s).seq = s.seq := Fld.wr_seq ..
@[simp] theorem Fld.count_orbStart : (f.count n s).orbStart = s.orbStart := Fld.wr_orbStart ..
@[simp] theorem Fld.count_orbSeen : (f.count n s).orbSeen = s.orbSeen := Fld.wr_orbSeen ..
@[simp] theorem Fld.count_gap : (f.count n s).gap = s.gap := Fld.wr_gap ..
@[simp] theorem Fld.count_bgDone : (f.count n s).bgDone = s.bgDone := Fld.wr_bgDone ..
@[simp] theorem Fld.count_tim : (f.count n s).tim = s.tim := Fld.wr_tim ..
@[simp] theorem Fld.count_slices : (f.count n s).slices = s.slices := Fld.wr_slices ..
@[simp] theorem Fld.count_bpHist : (f.count n s).bpHist = s.bpHist := Fld.wr_bpHist ..
@[simp] theorem Fld.count_tempBase : (f.count n s).tempBase = s.tempBase := Fld.wr_tempBase ..
@[simp] theorem Fld.count_tempSeen : (f.count n s).tempSeen = s.tempSeen := Fld.wr_tempSeen ..
@[simp] theorem Fld.count_edges : (f.count n s).edges = s.edges := Fld.wr_edges ..
@[simp] theorem Fld.count_fto : (f.count n s).fto = s.fto := Fld.wr_fto ..
@[simp] theorem Fld.count_tb : (f.count n s).tb = s.tb := Fld.wr_tb ..
@[simp] theorem Fld.count_tbCells : (f.count n s).tbCells = s.tbCells := Fld.wr_tbCells ..
@[simp] theorem Fld.count_wins : (f.count n s).wins = s.wins := Fld.wr_wins ..
@[simp] theorem Fld.count_marks : (f.count n s).marks = s.marks := Fld.wr_marks ..
@[simp] theorem Fld.count_cap : (f.count n s).cap = s.cap := Fld.wr_cap ..
@[simp] theorem Fld.count_ledgers : (f.count n s).ledgers = s.ledgers := Fld.wr_ledgers ..
@[simp] theorem Fld.count_packets : (f.count n s).packets = s.packets := Fld.wr_packets ..
@[simp] theorem Fld.count_nextPid : (f.count n s).nextPid = s.nextPid := Fld.wr_nextPid ..
@[simp] theorem Fld.count_waiting : (f.count n s).waiting = s.waiting := Fld.wr_waiting ..
@[simp] theorem Fld.count_served : (f.count n s).served = s.served := Fld.wr_served ..
@[simp] theorem Fld.count_bufErr : (f.count n s).bufErr = s.bufErr := Fld.wr_bufErr ..
@[simp] theorem Fld.count_scrubBack : (f.count n s).scrubBack = s.scrubBack := Fld.wr_scrubBack ..
@[simp] theorem Fld.count_revived : (f.count n s).revived = s.revived := Fld.wr_revived ..
@[simp] theorem Fld.count_refresh : (f.count n s).refresh = s.refresh := Fld.wr_refresh ..
@[simp] theorem Fld.count_jobs : (f.count n s).jobs = s.jobs := Fld.wr_jobs ..
@[simp] theorem Fld.count_sends : (f.count n s).sends = s.sends := Fld.wr_sends ..
@[simp] theorem Fld.count_deadCnt : (f.count n s).deadCnt = s.deadCnt := Fld.wr_deadCnt ..
@[simp] theorem Fld.count_scrubProg : (f.count n s).scrubProg = s.scrubProg := Fld.wr_scrubProg ..
@[simp] theorem Fld.count_scrubScratch : (f.count n s).scrubScratch = s.scrubScratch := Fld.wr_scrubScratch ..
@[simp] theorem Fld.count_lanes : (f.count n s).lanes = s.lanes := Fld.wr_lanes ..
@[simp] theorem Fld.count_mon : (f.count n s).mon = s.mon := Fld.wr_mon ..
@[simp] theorem Fld.count_led : (f.count n s).led = s.led := Fld.wr_led ..
@[simp] theorem Fld.count_adcCal : (f.count n s).adcCal = s.adcCal := Fld.wr_adcCal ..
@[simp] theorem Fld.count_adcAsk : (f.count n s).adcAsk = s.adcAsk := Fld.wr_adcAsk ..
@[simp] theorem Fld.count_adcStart : (f.count n s).adcStart = s.adcStart := Fld.wr_adcStart ..
@[simp] theorem Fld.count_edgeQuads : (f.count n s).edgeQuads = s.edgeQuads := Fld.wr_edgeQuads ..
@[simp] theorem Fld.count_dueSeen : (f.count n s).dueSeen = s.dueSeen := Fld.wr_dueSeen ..
@[simp] theorem Fld.count_tap : (f.count n s).tap = s.tap := Fld.wr_tap ..

end

/-! ### `raiseFlag` changes `regs` only -/

section
variable (s : State) (w b : Nat)

@[simp] theorem raiseFlag_pending : (raiseFlag w b s).pending = s.pending := (Fld.count_pending ..).trans (Fld.wr_pending ..)
@[simp] theorem raiseFlag_free : (raiseFlag w b s).free = s.free := (Fld.count_free ..).trans (Fld.wr_free ..)
@[simp] theorem raiseFlag_cyc : (raiseFlag w b s).cyc = s.cyc := (Fld.count_cyc ..).trans (Fld.wr_cyc ..)
@[simp] theorem raiseFlag_bp : (raiseFlag w b s).bp = s.bp := (Fld.count_bp ..).trans (Fld.wr_bp ..)
@[simp] theorem raiseFlag_rwo : (raiseFlag w b s).rwo = s.rwo := (Fld.count_rwo ..).trans (Fld.wr_rwo ..)
@[simp] theorem raiseFlag_rwoOld : (raiseFlag w b s).rwoOld = s.rwoOld := (Fld.count_rwoOld ..).trans (Fld.wr_rwoOld ..)
@[simp] theorem raiseFlag_setNow : (raiseFlag w b s).setNow = s.setNow := (Fld.count_setNow ..).trans (Fld.wr_setNow ..)
@[simp] theorem raiseFlag_cycle0 : (raiseFlag w b s).cycle0 = s.cycle0 := (Fld.count_cycle0 ..).trans (Fld.wr_cycle0 ..)
@[simp] theorem raiseFlag_admDirty : (raiseFlag w b s).admDirty = s.admDirty := (Fld.count_admDirty ..).trans (Fld.wr_admDirty ..)
@[simp] theorem raiseFlag_prog : (raiseFlag w b s).prog = s.prog := (Fld.count_prog ..).trans (Fld.wr_prog ..)
@[simp] theorem raiseFlag_progBad : (raiseFlag w b s).progBad = s.progBad := (Fld.count_progBad ..).trans (Fld.wr_progBad ..)
@[simp] theorem raiseFlag_scratch : (raiseFlag w b s).scratch = s.scratch := (Fld.count_scratch ..).trans (Fld.wr_scratch ..)
@[simp] theorem raiseFlag_scratchBad : (raiseFlag w b s).scratchBad = s.scratchBad := (Fld.count_scratchBad ..).trans (Fld.wr_scratchBad ..)
@[simp] theorem raiseFlag_fuses : (raiseFlag w b s).fuses = s.fuses := (Fld.count_fuses ..).trans (Fld.wr_fuses ..)
@[simp] theorem raiseFlag_shadow : (raiseFlag w b s).shadow = s.shadow := (Fld.count_shadow ..).trans (Fld.wr_shadow ..)
@[simp] theorem raiseFlag_clk : (raiseFlag w b s).clk = s.clk := (Fld.count_clk ..).trans (Fld.wr_clk ..)
@[simp] theorem raiseFlag_pins : (raiseFlag w b s).pins = s.pins := (Fld.count_pins ..).trans (Fld.wr_pins ..)
@[simp] theorem raiseFlag_rst : (raiseFlag w b s).rst = s.rst := (Fld.count_rst ..).trans (Fld.wr_rst ..)
@[simp] theorem raiseFlag_restarts : (raiseFlag w b s).restarts = s.restarts := (Fld.count_restarts ..).trans (Fld.wr_restarts ..)
@[simp] theorem raiseFlag_mode : (raiseFlag w b s).mode = s.mode := (Fld.count_mode ..).trans (Fld.wr_mode ..)
@[simp] theorem raiseFlag_target : (raiseFlag w b s).target = s.target := (Fld.count_target ..).trans (Fld.wr_target ..)
@[simp] theorem raiseFlag_testEnd : (raiseFlag w b s).testEnd = s.testEnd := (Fld.count_testEnd ..).trans (Fld.wr_testEnd ..)
@[simp] theorem raiseFlag_degraded : (raiseFlag w b s).degraded = s.degraded := (Fld.count_degraded ..).trans (Fld.wr_degraded ..)
@[simp] theorem raiseFlag_groups : (raiseFlag w b s).groups = s.groups := (Fld.count_groups ..).trans (Fld.wr_groups ..)
@[simp] theorem raiseFlag_quadRun : (raiseFlag w b s).quadRun = s.quadRun := (Fld.count_quadRun ..).trans (Fld.wr_quadRun ..)
@[simp] theorem raiseFlag_squares : (raiseFlag w b s).squares = s.squares := (Fld.count_squares ..).trans (Fld.wr_squares ..)
@[simp] theorem raiseFlag_a1 : (raiseFlag w b s).a1 = s.a1 := (Fld.count_a1 ..).trans (Fld.wr_a1 ..)
@[simp] theorem raiseFlag_rr : (raiseFlag w b s).rr = s.rr := (Fld.count_rr ..).trans (Fld.wr_rr ..)
@[simp] theorem raiseFlag_raised : (raiseFlag w b s).raised = s.raised := (Fld.count_raised ..).trans (Fld.wr_raised ..)
@[simp] theorem raiseFlag_bucket : (raiseFlag w b s).bucket = s.bucket := (Fld.count_bucket ..).trans (Fld.wr_bucket ..)
@[simp] theorem raiseFlag_debt : (raiseFlag w b s).debt = s.debt := (Fld.count_debt ..).trans (Fld.wr_debt ..)
@[simp] theorem raiseFlag_hwreqs : (raiseFlag w b s).hwreqs = s.hwreqs := (Fld.count_hwreqs ..).trans (Fld.wr_hwreqs ..)
@[simp] theorem raiseFlag_refProg : (raiseFlag w b s).refProg = s.refProg := (Fld.count_refProg ..).trans (Fld.wr_refProg ..)
@[simp] theorem raiseFlag_refA1 : (raiseFlag w b s).refA1 = s.refA1 := (Fld.count_refA1 ..).trans (Fld.wr_refA1 ..)
@[simp] theorem raiseFlag_reports : (raiseFlag w b s).reports = s.reports := (Fld.count_reports ..).trans (Fld.wr_reports ..)
@[simp] theorem raiseFlag_sid : (raiseFlag w b s).sid = s.sid := (Fld.count_sid ..).trans (Fld.wr_sid ..)
@[simp] theorem raiseFlag_tm : (raiseFlag w b s).tm = s.tm := (Fld.count_tm ..).trans (Fld.wr_tm ..)
@[simp] theorem raiseFlag_portOut : (raiseFlag w b s).portOut = s.portOut := (Fld.count_portOut ..).trans (Fld.wr_portOut ..)
@[simp] theorem raiseFlag_bcid : (raiseFlag w b s).bcid = s.bcid := (Fld.count_bcid ..).trans (Fld.wr_bcid ..)
@[simp] theorem raiseFlag_orbit : (raiseFlag w b s).orbit = s.orbit := (Fld.count_orbit ..).trans (Fld.wr_orbit ..)
@[simp] theorem raiseFlag_seq : (raiseFlag w b s).seq = s.seq := (Fld.count_seq ..).trans (Fld.wr_seq ..)
@[simp] theorem raiseFlag_orbStart : (raiseFlag w b s).orbStart = s.orbStart := (Fld.count_orbStart ..).trans (Fld.wr_orbStart ..)
@[simp] theorem raiseFlag_orbSeen : (raiseFlag w b s).orbSeen = s.orbSeen := (Fld.count_orbSeen ..).trans (Fld.wr_orbSeen ..)
@[simp] theorem raiseFlag_gap : (raiseFlag w b s).gap = s.gap := (Fld.count_gap ..).trans (Fld.wr_gap ..)
@[simp] theorem raiseFlag_bgDone : (raiseFlag w b s).bgDone = s.bgDone := (Fld.count_bgDone ..).trans (Fld.wr_bgDone ..)
@[simp] theorem raiseFlag_tim : (raiseFlag w b s).tim = s.tim := (Fld.count_tim ..).trans (Fld.wr_tim ..)
@[simp] theorem raiseFlag_slices : (raiseFlag w b s).slices = s.slices := (Fld.count_slices ..).trans (Fld.wr_slices ..)
@[simp] theorem raiseFlag_bpHist : (raiseFlag w b s).bpHist = s.bpHist := (Fld.count_bpHist ..).trans (Fld.wr_bpHist ..)
@[simp] theorem raiseFlag_tempBase : (raiseFlag w b s).tempBase = s.tempBase := (Fld.count_tempBase ..).trans (Fld.wr_tempBase ..)
@[simp] theorem raiseFlag_tempSeen : (raiseFlag w b s).tempSeen = s.tempSeen := (Fld.count_tempSeen ..).trans (Fld.wr_tempSeen ..)
@[simp] theorem raiseFlag_edges : (raiseFlag w b s).edges = s.edges := (Fld.count_edges ..).trans (Fld.wr_edges ..)
@[simp] theorem raiseFlag_fto : (raiseFlag w b s).fto = s.fto := (Fld.count_fto ..).trans (Fld.wr_fto ..)
@[simp] theorem raiseFlag_tb : (raiseFlag w b s).tb = s.tb := (Fld.count_tb ..).trans (Fld.wr_tb ..)
@[simp] theorem raiseFlag_tbCells : (raiseFlag w b s).tbCells = s.tbCells := (Fld.count_tbCells ..).trans (Fld.wr_tbCells ..)
@[simp] theorem raiseFlag_wins : (raiseFlag w b s).wins = s.wins := (Fld.count_wins ..).trans (Fld.wr_wins ..)
@[simp] theorem raiseFlag_marks : (raiseFlag w b s).marks = s.marks := (Fld.count_marks ..).trans (Fld.wr_marks ..)
@[simp] theorem raiseFlag_cap : (raiseFlag w b s).cap = s.cap := (Fld.count_cap ..).trans (Fld.wr_cap ..)
@[simp] theorem raiseFlag_ledgers : (raiseFlag w b s).ledgers = s.ledgers := (Fld.count_ledgers ..).trans (Fld.wr_ledgers ..)
@[simp] theorem raiseFlag_packets : (raiseFlag w b s).packets = s.packets := (Fld.count_packets ..).trans (Fld.wr_packets ..)
@[simp] theorem raiseFlag_nextPid : (raiseFlag w b s).nextPid = s.nextPid := (Fld.count_nextPid ..).trans (Fld.wr_nextPid ..)
@[simp] theorem raiseFlag_waiting : (raiseFlag w b s).waiting = s.waiting := (Fld.count_waiting ..).trans (Fld.wr_waiting ..)
@[simp] theorem raiseFlag_served : (raiseFlag w b s).served = s.served := (Fld.count_served ..).trans (Fld.wr_served ..)
@[simp] theorem raiseFlag_bufErr : (raiseFlag w b s).bufErr = s.bufErr := (Fld.count_bufErr ..).trans (Fld.wr_bufErr ..)
@[simp] theorem raiseFlag_scrubBack : (raiseFlag w b s).scrubBack = s.scrubBack := (Fld.count_scrubBack ..).trans (Fld.wr_scrubBack ..)
@[simp] theorem raiseFlag_revived : (raiseFlag w b s).revived = s.revived := (Fld.count_revived ..).trans (Fld.wr_revived ..)
@[simp] theorem raiseFlag_refresh : (raiseFlag w b s).refresh = s.refresh := (Fld.count_refresh ..).trans (Fld.wr_refresh ..)
@[simp] theorem raiseFlag_jobs : (raiseFlag w b s).jobs = s.jobs := (Fld.count_jobs ..).trans (Fld.wr_jobs ..)
@[simp] theorem raiseFlag_sends : (raiseFlag w b s).sends = s.sends := (Fld.count_sends ..).trans (Fld.wr_sends ..)
@[simp] theorem raiseFlag_deadCnt : (raiseFlag w b s).deadCnt = s.deadCnt := (Fld.count_deadCnt ..).trans (Fld.wr_deadCnt ..)
@[simp] theorem raiseFlag_scrubProg : (raiseFlag w b s).scrubProg = s.scrubProg := (Fld.count_scrubProg ..).trans (Fld.wr_scrubProg ..)
@[simp] theorem raiseFlag_scrubScratch : (raiseFlag w b s).scrubScratch = s.scrubScratch := (Fld.count_scrubScratch ..).trans (Fld.wr_scrubScratch ..)
@[simp] theorem raiseFlag_lanes : (raiseFlag w b s).lanes = s.lanes := (Fld.count_lanes ..).trans (Fld.wr_lanes ..)
@[simp] theorem raiseFlag_mon : (raiseFlag w b s).mon = s.mon := (Fld.count_mon ..).trans (Fld.wr_mon ..)
@[simp] theorem raiseFlag_led : (raiseFlag w b s).led = s.led := (Fld.count_led ..).trans (Fld.wr_led ..)
@[simp] theorem raiseFlag_adcCal : (raiseFlag w b s).adcCal = s.adcCal := (Fld.count_adcCal ..).trans (Fld.wr_adcCal ..)
@[simp] theorem raiseFlag_adcAsk : (raiseFlag w b s).adcAsk = s.adcAsk := (Fld.count_adcAsk ..).trans (Fld.wr_adcAsk ..)
@[simp] theorem raiseFlag_adcStart : (raiseFlag w b s).adcStart = s.adcStart := (Fld.count_adcStart ..).trans (Fld.wr_adcStart ..)
@[simp] theorem raiseFlag_edgeQuads : (raiseFlag w b s).edgeQuads = s.edgeQuads := (Fld.count_edgeQuads ..).trans (Fld.wr_edgeQuads ..)
@[simp] theorem raiseFlag_dueSeen : (raiseFlag w b s).dueSeen = s.dueSeen := (Fld.count_dueSeen ..).trans (Fld.wr_dueSeen ..)
@[simp] theorem raiseFlag_tap : (raiseFlag w b s).tap = s.tap := (Fld.count_tap ..).trans (Fld.wr_tap ..)

end

end Sys2Proof.Machine
end

