-- ==== Sys2Proof/Laws/Words.lean ====
section
/-!
SUPPORT. Sys2Proof/Laws/Words.lean: what a word and a field of the field map read after the shared updates.
-/
set_option Elab.async false
namespace Sys2Proof.Machine

/-! ### Words -/

theorem State.word_setWord (s : State) (a b : Nat) (v : Word) :
    (s.setWord a v).word b = if a = b then v else s.word b := sget_sput wordReset a b v s.regs

@[simp] theorem State.word_setWord_same (s : State) (a : Nat) (v : Word) : (s.setWord a v).word a = v :=
  sget_sput_same wordReset a v s.regs

theorem State.word_setWord_ne (s : State) {a b : Nat} (v : Word) (h : a ≠ b) : (s.setWord a v).word b = s.word b :=
  sget_sput_ne wordReset v s.regs h

/-- A word reads from `regs` alone. -/
theorem State.word_congr {s t : State} (h : t.regs = s.regs) (a : Nat) : t.word a = s.word a := by
  unfold State.word; rw [h]

/-- A field reads from `regs` alone. -/
theorem Fld.rd_congr {s t : State} (h : t.regs = s.regs) (f : Fld) : f.rd t = f.rd s := by
  unfold Fld.rd; rw [State.word_congr h]

theorem Fld.rd_of_word {s t : State} {f : Fld} (h : t.word f.addr = s.word f.addr) : f.rd t = f.rd s := by
  unfold Fld.rd; rw [h]

theorem Fld.is_of_word {s t : State} {f : Fld} (h : t.word f.addr = s.word f.addr) : f.is t = f.is s := by
  unfold Fld.is; rw [Fld.rd_of_word h]

/-! ### A field within its word -/

theorem Fld.wr_word (f : Fld) (v : Nat) (s : State) (a : Nat) :
    (f.wr v s).word a = if f.addr = a then f.into v (s.word f.addr) else s.word a := State.word_setWord ..

theorem Fld.wr_word_ne (f : Fld) (v : Nat) (s : State) {a : Nat} (h : f.addr ≠ a) : (f.wr v s).word a = s.word a :=
  State.word_setWord_ne _ _ h

theorem Fld.into_lt (f : Fld) (v : Nat) (w : Word) (hl : f.lo ≤ f.hi) (hh : f.hi < 32) :
    w.toNat / 2 ^ (f.hi + 1) * 2 ^ (f.hi + 1) + v % 2 ^ f.width * 2 ^ f.lo + w.toNat % 2 ^ f.lo < 2 ^ 32 := by
  have hw : f.width + f.lo = f.hi + 1 := by unfold Fld.width; omega
  have h1 : v % 2 ^ f.width < 2 ^ f.width := Nat.mod_lt _ (by positivity)
  have h2 : w.toNat % 2 ^ f.lo < 2 ^ f.lo := Nat.mod_lt _ (by positivity)
  have h3 : w.toNat / 2 ^ (f.hi + 1) < 2 ^ (32 - (f.hi + 1)) :=
    Nat.div_lt_of_lt_mul (by rw [← pow_add, show f.hi + 1 + (32 - (f.hi + 1)) = 32 by omega]; exact w.isLt)
  have e1 : 2 ^ (f.hi + 1) = 2 ^ f.width * 2 ^ f.lo := by rw [← pow_add, hw]
  have h4 : v % 2 ^ f.width * 2 ^ f.lo + 2 ^ f.lo ≤ 2 ^ (f.hi + 1) := by
    rw [e1]; calc v % 2 ^ f.width * 2 ^ f.lo + 2 ^ f.lo = (v % 2 ^ f.width + 1) * 2 ^ f.lo := by ring
      _ ≤ 2 ^ f.width * 2 ^ f.lo := Nat.mul_le_mul_right _ h1
  have h5 : w.toNat / 2 ^ (f.hi + 1) * 2 ^ (f.hi + 1) + 2 ^ (f.hi + 1) ≤ 2 ^ 32 := by
    calc w.toNat / 2 ^ (f.hi + 1) * 2 ^ (f.hi + 1) + 2 ^ (f.hi + 1)
        = (w.toNat / 2 ^ (f.hi + 1) + 1) * 2 ^ (f.hi + 1) := by ring
      _ ≤ 2 ^ (32 - (f.hi + 1)) * 2 ^ (f.hi + 1) := Nat.mul_le_mul_right _ h3
      _ = 2 ^ 32 := by rw [← pow_add]; congr 1; omega
  omega

/-- The bits of a word with one field replaced. -/
theorem Fld.into_testBit (f : Fld) (v : Nat) (w : Word) (hl : f.lo ≤ f.hi) (hh : f.hi < 32) (j : Nat) :
    (f.into v w).toNat.testBit j = if f.lo ≤ j ∧ j ≤ f.hi then v.testBit (j - f.lo) else w.toNat.testBit j := by
  have hw : f.width + f.lo = f.hi + 1 := by unfold Fld.width; omega
  have h1 : v % 2 ^ f.width < 2 ^ f.width := Nat.mod_lt _ (by positivity)
  have h2 : w.toNat % 2 ^ f.lo < 2 ^ f.lo := Nat.mod_lt _ (by positivity)
  have e1 : 2 ^ (f.hi + 1) = 2 ^ f.lo * 2 ^ f.width := by rw [← pow_add, ← hw, Nat.add_comm]
  unfold Fld.into
  simp only [BitVec.toNat_ofNat]
  rw [Nat.mod_eq_of_lt (Fld.into_lt f v w hl hh),
    show w.toNat / 2 ^ (f.hi + 1) * 2 ^ (f.hi + 1) + v % 2 ^ f.width * 2 ^ f.lo + w.toNat % 2 ^ f.lo =
      2 ^ f.lo * (2 ^ f.width * (w.toNat / 2 ^ (f.hi + 1)) + v % 2 ^ f.width) + w.toNat % 2 ^ f.lo by rw [e1]; ring,
    Nat.testBit_two_pow_mul_add _ h2, Nat.testBit_two_pow_mul_add _ h1]
  by_cases hj : j < f.lo
  · rw [if_pos hj, if_neg (by omega), Nat.testBit_mod_two_pow]; simp [hj]
  · rw [if_neg hj]
    by_cases hj2 : j - f.lo < f.width
    · rw [if_pos hj2, if_pos (by omega), Nat.testBit_mod_two_pow]; simp [hj2]
    · rw [if_neg hj2, if_neg (by omega), Nat.testBit_div_two_pow]; congr 1; omega

/-- A field's bits are those of its word. -/
theorem Fld.rd_testBit (f : Fld) (s : State) (hl : f.lo ≤ f.hi) (j : Nat) :
    (f.rd s).testBit j = (decide (j ≤ f.hi - f.lo) && (s.word f.addr).toNat.testBit (j + f.lo)) := by
  unfold Fld.rd Fld.width
  rw [Nat.testBit_mod_two_pow, Nat.testBit_div_two_pow]
  congr 1
  exact decide_eq_decide.mpr (by omega)

/-- A field reads what was written to it. -/
theorem Fld.rd_wr_same (f : Fld) (v : Nat) (s : State) (hl : f.lo ≤ f.hi) (hh : f.hi < 32) :
    f.rd (f.wr v s) = v % 2 ^ f.width := by
  refine Nat.eq_of_testBit_eq fun j => ?_
  rw [Fld.rd_testBit _ _ hl, Fld.wr_word, if_pos rfl, Fld.into_testBit _ _ _ hl hh, Nat.testBit_mod_two_pow]
  unfold Fld.width
  by_cases h : j ≤ f.hi - f.lo
  · rw [if_pos (by omega)]; simp only [h, decide_true, Bool.true_and]
    rw [show decide (j < f.hi + 1 - f.lo) = true from decide_eq_true (by omega)]; simp
  · simp only [h, decide_false, Bool.false_and]
    rw [show decide (j < f.hi + 1 - f.lo) = false from decide_eq_false (by omega)]; simp

/-- A field of another word, or of other bits of the word, reads as before. -/
theorem Fld.rd_wr_ne (f g : Fld) (v : Nat) (s : State) (hl : f.lo ≤ f.hi) (hh : f.hi < 32) (gl : g.lo ≤ g.hi)
    (h : f.addr ≠ g.addr ∨ g.hi < f.lo ∨ f.hi < g.lo) : g.rd (f.wr v s) = g.rd s := by
  by_cases ha : f.addr = g.addr
  · refine Nat.eq_of_testBit_eq fun j => ?_
    rw [Fld.rd_testBit _ _ gl, Fld.rd_testBit _ _ gl, Fld.wr_word, if_pos ha, Fld.into_testBit _ _ _ hl hh]
    by_cases hj : j ≤ g.hi - g.lo
    · rw [if_neg (by omega), ha]
    · simp [hj]
  · exact Fld.rd_of_word (Fld.wr_word_ne f v s ha)

theorem Fld.count_word_ne (f : Fld) (n : Nat) (s : State) {a : Nat} (h : f.addr ≠ a) :
    (f.count n s).word a = s.word a := Fld.wr_word_ne _ _ _ h

/-! ### Sticky flags -/

/-- A flag set touches its word and the word of its counter (R16, R17). -/
theorem raiseFlag_word_ne (w b : Nat) (s : State) {a : Nat} (h1 : w ≠ a) (h2 : w + 1 + b ≠ a) :
    (raiseFlag w b s).word a = s.word a := by
  unfold raiseFlag
  rw [Fld.count_word_ne _ _ _ (by simpa using h2), Fld.wr_word_ne _ _ _ (by simpa using h1)]

/-- The flag reads 1. -/
theorem raiseFlag_is (w b : Nat) (s : State) (hb : b < 32) : (Fld.mk w b b).is (raiseFlag w b s) = true := by
  unfold raiseFlag Fld.is
  rw [Fld.rd_of_word (Fld.count_word_ne _ _ _ (by show w + 1 + b ≠ w; omega)),
    Fld.rd_wr_same _ _ _ (Nat.le_refl _) hb]
  simp [Fld.width]

/-- The counter of the flag counts the set and saturates. -/
theorem raiseFlag_count (w b : Nat) (s : State) :
    (Fld.mk (w + 1 + b) 15 0).rd (raiseFlag w b s) = Nat.min ((Fld.mk (w + 1 + b) 15 0).rd s + 1) 65535 := by
  unfold raiseFlag Fld.count
  rw [Fld.rd_wr_same _ _ _ (Nat.zero_le _) (by show 15 < 32; decide),
    Fld.rd_of_word (s := s) (Fld.wr_word_ne _ _ _ (by show w ≠ w + 1 + b; omega))]
  apply Nat.mod_eq_of_lt
  show _ < 65536
  have : Nat.min ((Fld.mk (w + 1 + b) 15 0).rd s + 1) (2 ^ (Fld.mk (w + 1 + b) 15 0).width - 1) ≤
    2 ^ (Fld.mk (w + 1 + b) 15 0).width - 1 := Nat.min_le_right _ _
  simp only [Fld.width] at this ⊢
  omega

/-- Every other flag of the word, and every other field in it, reads as before. -/
theorem raiseFlag_rd_ne (w b : Nat) (g : Fld) (s : State) (hb : b < 32) (gl : g.lo ≤ g.hi)
    (h1 : g.addr ≠ w ∨ g.hi < b ∨ b < g.lo) (h2 : g.addr ≠ w + 1 + b) : g.rd (raiseFlag w b s) = g.rd s := by
  unfold raiseFlag
  rw [Fld.rd_of_word (Fld.count_word_ne _ _ _ (Ne.symm h2)),
    Fld.rd_wr_ne _ _ _ _ (Nat.le_refl _) hb gl (h1.imp Ne.symm id)]

/-! ### Other updates leave words and fields -/

@[simp] theorem State.word_setSquare (s : State) (i : Nat) (q : Square) (a : Nat) : (s.setSquare i q).word a = s.word a := rfl
@[simp] theorem State.word_modSquare (s : State) (i : Nat) (f : Square → Square) (a : Nat) :
    (s.modSquare i f).word a = s.word a := rfl
@[simp] theorem State.word_setSlice (s : State) (c : Nat) (x : Slice) (a : Nat) : (s.setSlice c x).word a = s.word a := rfl
@[simp] theorem State.word_modSlice (s : State) (c : Nat) (f : Slice → Slice) (a : Nat) :
    (s.modSlice c f).word a = s.word a := rfl
@[simp] theorem State.word_setGroup (s : State) (n : Nat) (g : GroupSt) (a : Nat) : (s.setGroup n g).word a = s.word a := rfl
@[simp] theorem State.word_drew (s : State) (n a : Nat) : (s.drew n).word a = s.word a := rfl
@[simp] theorem raiseEv_word (s : State) (r : Raised) (a : Nat) : (raiseEv r s).word a = s.word a := rfl
@[simp] theorem Fld.rd_modSquare (g : Fld) (s : State) (i : Nat) (f : Square → Square) : g.rd (s.modSquare i f) = g.rd s := rfl
@[simp] theorem Fld.rd_setSquare (g : Fld) (s : State) (i : Nat) (q : Square) : g.rd (s.setSquare i q) = g.rd s := rfl
@[simp] theorem Fld.rd_modSlice (g : Fld) (s : State) (c : Nat) (f : Slice → Slice) : g.rd (s.modSlice c f) = g.rd s := rfl
@[simp] theorem Fld.rd_setGroup (g : Fld) (s : State) (n : Nat) (x : GroupSt) : g.rd (s.setGroup n x) = g.rd s := rfl
@[simp] theorem Fld.rd_raiseEv (g : Fld) (s : State) (r : Raised) : g.rd (raiseEv r s) = g.rd s := rfl
@[simp] theorem Fld.rd_drew (g : Fld) (s : State) (n : Nat) : g.rd (s.drew n) = g.rd s := rfl

/-! ### Squares, slices and groups -/

theorem State.square_setSquare (s : State) (i j : Nat) (q : Square) :
    (s.setSquare i q).square j = if i = j then q else s.square j := sget_sput _ i j q s.squares

@[simp] theorem State.square_setSquare_same (s : State) (i : Nat) (q : Square) : (s.setSquare i q).square i = q :=
  sget_sput_same _ i q s.squares

theorem State.square_setSquare_ne (s : State) {i j : Nat} (q : Square) (h : i ≠ j) :
    (s.setSquare i q).square j = s.square j := sget_sput_ne _ q s.squares h

theorem State.square_modSquare (s : State) (i j : Nat) (f : Square → Square) :
    (s.modSquare i f).square j = if i = j then f (s.square i) else s.square j := State.square_setSquare ..

@[simp] theorem State.square_modSquare_same (s : State) (i : Nat) (f : Square → Square) :
    (s.modSquare i f).square i = f (s.square i) := State.square_setSquare_same ..

theorem State.square_modSquare_ne (s : State) {i j : Nat} (f : Square → Square) (h : i ≠ j) :
    (s.modSquare i f).square j = s.square j := State.square_setSquare_ne s _ h

@[simp] theorem State.square_setWord (s : State) (a : Nat) (v : Word) (i : Nat) : (s.setWord a v).square i = s.square i := rfl
@[simp] theorem Fld.wr_square (f : Fld) (v : Nat) (s : State) (i : Nat) : (f.wr v s).square i = s.square i := rfl
@[simp] theorem raiseFlag_square (w b : Nat) (s : State) (i : Nat) : (raiseFlag w b s).square i = s.square i :=
  congrArg (fun m => sget (fun _ => ({} : Square)) m i) (raiseFlag_squares ..)
@[simp] theorem raiseEv_square (r : Raised) (s : State) (i : Nat) : (raiseEv r s).square i = s.square i := rfl

theorem State.slice_setSlice (s : State) (c d : Nat) (x : Slice) :
    (s.setSlice c x).slice d = if c = d then x else s.slice d := sget_sput _ c d x s.slices

theorem State.slice_modSlice (s : State) (c d : Nat) (f : Slice → Slice) :
    (s.modSlice c f).slice d = if c = d then f (s.slice c) else s.slice d := State.slice_setSlice ..

theorem State.group_setGroup (s : State) (n m : Nat) (g : GroupSt) :
    (s.setGroup n g).group m = if n = m then g else s.group m := sget_sput _ n m g s.groups

end Sys2Proof.Machine
end

