-- ==== Sys2Proof/Laws/Issue.lean ====
section
/-!
SUPPORT. Sys2Proof/Laws/Issue.lean: everything that issuing, completing, refusing and faulting an instruction can do, said once,
so that a proof about an instruction cites it and looks at the instruction's own body only.
-/
set_option Elab.async false
namespace Sys2Proof.Machine

/-! ### Registers -/

theorem State.reg_congr {s t : State} {i : Nat} (h : (t.square i).g = (s.square i).g) (r : Reg) :
    t.reg i r = s.reg i r := by
  unfold State.reg; rw [h]

@[simp] theorem State.reg_zero (s : State) (i : Nat) : s.reg i 0 = 0 := by simp [State.reg]

/-- What every register reads after a write: g0 stays zero (R121, R154). -/
theorem reg_setReg (i : Nat) (gd : Reg) (v : Word) (s : State) (r : Reg) :
    (setReg i gd v s).reg i r = if r = gd ∧ r ≠ 0 then v else s.reg i r := by
  unfold setReg
  by_cases h0 : gd = 0
  · rw [if_pos h0, if_neg (by rintro ⟨rfl, h⟩; exact h h0)]
  · rw [if_neg h0]
    unfold State.reg
    by_cases hr : r = 0
    · simp [hr]
    · simp only [hr, if_false, State.square_modSquare_same, sget_sput]
      by_cases hg : gd.toNat = r.toNat
      · rw [if_pos hg, if_pos ⟨(BitVec.eq_of_toNat_eq hg).symm, hr⟩]
      · rw [if_neg hg, if_neg (by rintro ⟨rfl, -⟩; exact hg rfl)]

/-- A register write changes its square's registers only. -/
theorem setReg_eq (i : Nat) (gd : Reg) (v : Word) (s : State) :
    setReg i gd v s = s ∨ setReg i gd v s = s.modSquare i fun q => { q with g := sput (fun _ => 0) gd.toNat v q.g } := by
  unfold setReg; split
  · exact .inl rfl
  · exact .inr rfl

theorem setReg_square (i : Nat) (gd : Reg) (v : Word) (s : State) :
    (setReg i gd v s).square i = { s.square i with g := ((setReg i gd v s).square i).g } := by
  rcases setReg_eq i gd v s with h | h
  · rw [h]
  · rw [h, State.square_modSquare_same]

theorem setReg_square_ne {i j : Nat} (gd : Reg) (v : Word) (s : State) (h : j ≠ i) :
    (setReg i gd v s).square j = s.square j := by
  rcases setReg_eq i gd v s with h' | h' <;> rw [h']
  exact State.square_modSquare_ne _ _ (Ne.symm h)

theorem setReg_frame (i : Nat) (gd : Reg) (v : Word) (s : State) :
    setReg i gd v s = { s with squares := (setReg i gd v s).squares } := by
  unfold setReg; split <;> rfl

theorem setFlags_frame (i : Nat) (o : Alu) (s : State) :
    setFlags i o s = { s with squares := (setFlags i o s).squares } := rfl

/-! ### Responses -/

theorem raiseFlag_frame (w b : Nat) (s : State) : raiseFlag w b s = { s with regs := (raiseFlag w b s).regs } := by
  have h : ∀ (f g : Fld) (m n : Nat), f.count n (g.wr m s) = { s with regs := (f.count n (g.wr m s)).regs } :=
    fun _ _ _ _ => rfl
  exact h ..

theorem respond_frame (side : Side) (r : Resp) (s : State) :
    respond side r s = { s with sid := (respond side r s).sid } := by
  unfold respond; split <;> rfl

theorem mirror_frame (side : Side) (r : Resp) (s : State) :
    mirror side r s = { s with sid := (mirror side r s).sid, regs := (mirror side r s).regs } := by
  unfold mirror; simp only []; split
  · split <;> rfl
  · rfl

theorem windowPut_frame (e : WinEntry) (s : State) :
    windowPut e s = { s with sid := (windowPut e s).sid, regs := (windowPut e s).regs } := by
  unfold windowPut; extract_lets
  split
  · rfl
  · split <;> rfl

theorem sidRegs_of_sid {s t : State} (h : t = { s with sid := t.sid }) : t = { s with sid := t.sid, regs := t.regs } := by
  conv_lhs => rw [h]
  rw [h]

theorem sidRegs_trans {s t u : State} (h1 : t = { s with sid := t.sid, regs := t.regs })
    (h2 : u = { t with sid := u.sid, regs := u.regs }) : u = { s with sid := u.sid, regs := u.regs } :=
  h2.trans (by rw [h1])

theorem State.word_withSid (s : State) (x : Sid) (a : Nat) : ({ s with sid := x } : State).word a = s.word a := rfl

theorem respond_words (side : Side) (r : Resp) (s : State) (a : Nat) : (respond side r s).word a = s.word a := by
  rw [respond_frame]; rfl

theorem mirror_words (side : Side) (r : Resp) (s : State) {a : Nat} (h : a ∉ responseWords) :
    (mirror side r s).word a = s.word a := by
  have h1 : (0x1004 : Nat) ≠ a := fun e => h (by subst e; decide)
  have h2 : 0x1004 + 1 + 4 ≠ a := fun e => h (by subst e; decide)
  unfold mirror; simp only []; split
  · split
    · rfl
    · exact raiseFlag_word_ne _ _ _ h1 h2
  · rfl

theorem windowPut_words (e : WinEntry) (s : State) {a : Nat} (h : a ∉ responseWords) :
    (windowPut e s).word a = s.word a := by
  have h1 : F.SID_WIN_LASTID.addr ≠ a := fun e => h (by subst e; decide)
  unfold windowPut; extract_lets t l
  have ht : t.word a = s.word a := Fld.wr_word_ne _ _ _ h1
  clear_value t
  split
  · exact ht
  · split <;> rw [State.word_withSid] <;> exact ht

@[simp] theorem Two.get_set_same {α : Type} (t : Two α) (x : Side) (v : α) : (t.set x v).get x = v := by cases x <;> rfl

theorem Two.get_set_ne {α : Type} (t : Two α) {x y : Side} (v : α) (h : x ≠ y) : (t.set x v).get y = t.get y := by
  cases x <;> cases y <;> first | rfl | exact absurd rfl h

theorem Side.other_ne (x : Side) : x.other ≠ x := by cases x <;> decide

theorem respond_own (side : Side) (r : Resp) (s : State) :
    (respond side r s).sid.own.get side = s.sid.own.get side ++ (if s.answers side then [r] else []) := by
  unfold respond; split <;> rename_i h
  · simp
  · simp

theorem mirror_own (side : Side) (r : Resp) (s : State) : (mirror side r s).sid.own = s.sid.own := by
  unfold mirror; simp only []; split
  · split
    · rfl
    · rw [raiseFlag_sid]
  · rfl

theorem windowPut_own (e : WinEntry) (s : State) : (windowPut e s).sid.own = s.sid.own := by
  unfold windowPut; extract_lets
  split
  · rfl
  · split <;> rfl

/-- An acknowledgement changes the sides and the words of the response path only. -/
theorem ackHost_frame (side : Side) (id : BitVec 16) (v : Word) (s : State) :
    ackHost side id v s = { s with sid := (ackHost side id v s).sid, regs := (ackHost side id v s).regs } := by
  unfold ackHost
  exact sidRegs_trans (sidRegs_trans (sidRegs_of_sid (respond_frame ..)) (mirror_frame ..)) (windowPut_frame ..)

theorem ackHost_words (side : Side) (id : BitVec 16) (v : Word) (s : State) : SameWords responseWords s (ackHost side id v s) :=
  fun a h => by unfold ackHost; rw [windowPut_words _ _ h, mirror_words _ _ _ h, respond_words]

theorem ackHost_own (side : Side) (id : BitVec 16) (v : Word) (s : State) :
    (ackHost side id v s).sid.own.get side = s.sid.own.get side ++ (if s.answers side then [.ack id v] else []) := by
  unfold ackHost; rw [windowPut_own, mirror_own, respond_own]

/-! ### Issuing and completing -/

theorem ackHost_squares (side : Side) (id : BitVec 16) (v : Word) (s : State) : (ackHost side id v s).squares = s.squares := by
  rw [ackHost_frame]

@[simp] theorem ackHost_square (side : Side) (id : BitVec 16) (v : Word) (s : State) (i : Nat) :
    (ackHost side id v s).square i = s.square i := by
  unfold State.square; rw [ackHost_squares]

theorem issue_of_done {by_ : Issuer} {op : Nat} {rf : Bool} {body : State → Outc} {s t : State} {v : Word} (h : s.issuable by_ = true)
    (hb : body (issued by_ s) = .done v t) : issue by_ op rf body s = complete by_ rf v (release by_ t) := by
  unfold issue; rw [if_pos h, hb]; rfl

/-- The squares after an instruction has completed. -/
theorem complete_square (by_ : Issuer) (rf : Bool) (v : Word) (s : State) (j : Nat) :
    (complete by_ rf v (release by_ s)).square j =
      if j = by_.idx then
        { s.square j with
          resv := none
          pc := (match by_ with | .prog _ => (s.square j).pc + 1 | .host _ _ => (s.square j).pc)
          f := (match by_ with | .prog _ => !rf && (s.square j).f | .host _ _ => false) }
      else s.square j := by
  by_cases hj : j = by_.idx
  · subst hj
    rw [if_pos rfl]
    cases by_ with
    | prog q => cases rf <;> simp [complete, release, acked, advance, clearF, Issuer.idx]
    | host side id => cases rf <;> simp [complete, release, acked, advance, clearF, Issuer.idx]
  · rw [if_neg hj]
    have hj' := Ne.symm hj
    cases by_ with
    | prog q =>
      cases rf <;> simp only [complete, release, acked, advance, clearF] <;> (try split) <;>
        simp only [State.square_modSquare_ne _ _ hj', State.square_modSquare_ne (i := q.val + 1) _ _ hj']
    | host side id =>
      cases rf <;> simp only [complete, release, acked, advance, clearF, ackHost_square] <;> (try split) <;>
        simp only [State.square_modSquare_ne _ _ hj']

theorem modSquare_squares (s : State) (x : Sparse Square) (i : Nat) (f : Square → Square) :
    ∃ y, ({ s with squares := x } : State).modSquare i f = { s with squares := y } := ⟨_, rfl⟩

theorem clearF_release (by_ : Issuer) (rf : Bool) (s : State) :
    ∃ x, clearF by_ rf (release by_ s) = { s with squares := x } := by
  have h : ∃ x, release by_ s = { s with squares := x } := ⟨_, rfl⟩
  obtain ⟨x, hx⟩ := h
  unfold clearF
  rw [hx]
  split
  · exact modSquare_squares ..
  · exact ⟨_, rfl⟩

/-- What completing changes beside the squares. -/
theorem complete_prog_frame (q : Fin 63) (rf : Bool) (v : Word) (s : State) :
    ∃ x, complete (.prog q) rf v (release (.prog q) s) = { s with squares := x } := by
  obtain ⟨x, hx⟩ := clearF_release (.prog q) rf s
  simp only [complete, acked, advance, hx]
  exact modSquare_squares ..

theorem complete_host_frame (side : Side) (id : BitVec 16) (rf : Bool) (v : Word) (s : State) :
    let t := complete (.host side id) rf v (release (.host side id) s)
    t = { s with squares := t.squares, sid := t.sid, regs := t.regs } ∧ SameWords responseWords s t ∧
      t.sid.own.get side = s.sid.own.get side ++ (if s.answers side then [.ack id v] else []) := by
  obtain ⟨x, hx⟩ := clearF_release (.host side id) rf s
  simp only [complete, acked, advance, hx]
  refine ⟨?_, fun a ha => ?_, ?_⟩
  · conv_lhs => rw [ackHost_frame]
    rw [ackHost_squares]
  · rw [ackHost_words _ _ _ _ a ha]; rfl
  · rw [ackHost_own]; rfl

theorem issued_prog (q : Fin 63) (s : State) : ∃ x, issued (.prog q) s =
    { s with squares := x, rr := sput (fun _ => 0) (s.square (q.val + 1)).prio.toNat (q.val + 1) s.rr } := by
  have h : ((s.modSquare (q.val + 1) fun x => { x with issued := x.issued + 1, effPrio := x.prio }).square
      (q.val + 1)).prio =
      (s.square (q.val + 1)).prio := by rw [State.square_modSquare_same]
  refine ⟨(issued (.prog q) s).squares, ?_⟩
  unfold issued
  simp only [Issuer.idx]
  rw [h]; rfl

theorem issued_host (side : Side) (id : BitVec 16) (s : State) : ∃ x, issued (.host side id) s =
    { s with squares := x, a1 := { s.a1 with wait := 0 } } := ⟨_, rfl⟩

theorem issued_square (by_ : Issuer) (s : State) (j : Nat) :
    (issued by_ s).square j =
      if j = by_.idx then { s.square j with issued := (s.square j).issued + 1, effPrio := (s.square j).prio }
      else s.square j := by
  have h : (issued by_ s).square j =
      (s.modSquare by_.idx fun q => { q with issued := q.issued + 1, effPrio := q.prio }).square j := by
    cases by_ <;> rfl
  rw [h, State.square_modSquare]
  by_cases hj : j = by_.idx
  · subst hj; simp
  · rw [if_neg hj, if_neg (Ne.symm hj)]

theorem host_frame_trans {s t u : State} {x : A1} {m : Sparse Square} (h1 : t = { ({ s with squares := m, a1 := x } : State) with squares := t.squares })
    (h2 : u = { t with squares := u.squares, sid := u.sid, regs := u.regs }) :
    u = { s with squares := u.squares, a1 := x, sid := u.sid, regs := u.regs } := h2.trans (by rw [h1])

/-- An instruction whose body takes the state `s` to `r`, and changes registers and Z, N, C and V of its own square beside. -/
theorem issue_completes {by_ : Issuer} {op : Nat} {rf : Bool} {body : State → Outc} {s t : State} {v : Word} (r : State)
    (h : s.issuable by_ = true) (hb : body (issued by_ s) = .done v t)
    (hf : t = { issued by_ r with squares := t.squares }) (ho : ∀ j, j ≠ by_.idx → t.square j = r.square j)
    (hi : t.square by_.idx = { (issued by_ r).square by_.idx with
      g := (t.square by_.idx).g, z := (t.square by_.idx).z, n := (t.square by_.idx).n, c := (t.square by_.idx).c
      v := (t.square by_.idx).v }) :
    let u := issue by_ op rf body s
    Completes by_ rf v r u ∧ (∀ x, u.reg by_.idx x = t.reg by_.idx x) ∧
      Flags by_.idx u (t.square by_.idx).z (t.square by_.idx).n (t.square by_.idx).c (t.square by_.idx).v := by
  rw [issue_of_done h hb]
  intro u
  have hu : ∀ j, u.square j = _ := complete_square by_ rf v t
  have hs : u.square by_.idx = _ := (hu _).trans (if_pos rfl)
  refine ⟨⟨?_, ⟨fun j hj => by rw [hu, if_neg hj, ho j hj], ?_⟩, ?_⟩, fun x => State.reg_congr ?_ x, ?_⟩
  · unfold SquareFrame
    simp only
    rw [hs, hi, issued_square, if_pos rfl]
    all_goals cases by_ <;> rfl
  · cases by_ with
    | prog q =>
      obtain ⟨x, hx⟩ := complete_prog_frame q rf v t
      obtain ⟨y, hy⟩ := issued_prog q r
      rw [hy] at hf
      show u = _
      rw [show u = _ from hx, hf]
    | host side id =>
      obtain ⟨hx, hw, ho⟩ := complete_host_frame side id rf v t
      obtain ⟨y, hy⟩ := issued_host side id r
      rw [hy] at hf
      refine ⟨?_, fun a ha => (hw a ha).trans ?_⟩
      · exact host_frame_trans hf hx
      · rw [hf]; rfl
  · cases by_ with
    | prog q =>
      obtain ⟨x, hx⟩ := complete_prog_frame q rf v t
      obtain ⟨y, hy⟩ := issued_prog q r
      rw [hy] at hf
      show u.sid = _
      rw [show u = _ from hx, hf]
    | host side id =>
      obtain ⟨hx, hw, ho⟩ := complete_host_frame side id rf v t
      obtain ⟨y, hy⟩ := issued_host side id r
      rw [hy] at hf
      refine ho.trans ?_
      rw [hf]; rfl
  · rw [hs]
  · rw [Flags, hs]; exact ⟨rfl, rfl, rfl, rfl⟩

/-- The squares, the order of service and the responses after a program square's instruction that names its next PC. -/
theorem issue_goto {n : Fin 63} {op : Nat} {body : State → Outc} {s t : State} {pc : BitVec 14} (r : State)
    (h : s.issuable (.prog n) = true) (hb : body (issued (.prog n) s) = .goto pc t)
    (hf : t = { issued (.prog n) r with squares := t.squares }) (ho : ∀ j, j ≠ n.val + 1 → t.square j = r.square j) :
    let u := issue (.prog n) op false body s
    u.square (n.val + 1) = { t.square (n.val + 1) with pc := pc, resv := none } ∧ IssueFrame (.prog n) r u := by
  intro u
  have hu : u = (t.modSquare (n.val + 1) fun q => { q with resv := none }).modSquare (n.val + 1) fun q => { q with pc := pc } := by
    show issue (.prog n) op false body s = _
    unfold issue; rw [if_pos h, hb]; rfl
  refine ⟨?_, fun j hj => ?_, ?_⟩
  · rw [hu, State.square_modSquare_same, State.square_modSquare_same]
  · have hj' : n.val + 1 ≠ j := Ne.symm hj
    rw [hu, State.square_modSquare_ne _ _ hj', State.square_modSquare_ne _ _ hj', ho j hj]
  · obtain ⟨y, hy⟩ := issued_prog n r
    rw [hy] at hf
    obtain ⟨m, hm⟩ := modSquare_squares t t.squares (n.val + 1) fun q => { q with resv := none }
    obtain ⟨m', hm'⟩ := modSquare_squares t m (n.val + 1) fun q => { q with pc := pc }
    have e : u = { t with squares := m' } := hu.trans ((congrArg _ hm).trans hm')
    show u = _
    rw [e, hf]

/-- An instruction that does not complete: the square keeps its PC. -/
theorem issue_stay {by_ : Issuer} {op : Nat} {rf : Bool} {body : State → Outc} {s t : State} (r : State)
    (h : s.issuable by_ = true) (hb : body (issued by_ s) = .stay t)
    (hf : t = { issued by_ r with squares := t.squares }) (ho : ∀ j, j ≠ by_.idx → t.square j = r.square j) :
    let u := issue by_ op rf body s
    u.square by_.idx = { t.square by_.idx with resv := none } ∧ IssueFrame by_ r u ∧ u.sid = r.sid := by
  intro u
  have hu : u = t.modSquare by_.idx fun q => { q with resv := none } := by
    show issue by_ op rf body s = _
    unfold issue; rw [if_pos h, hb]; rfl
  obtain ⟨m, hm⟩ := modSquare_squares t t.squares by_.idx fun q => { q with resv := none }
  have e : u = { t with squares := m } := hu.trans hm
  refine ⟨by rw [hu, State.square_modSquare_same], ⟨fun j hj => ?_, ?_⟩, ?_⟩
  · rw [hu, State.square_modSquare_ne _ _ (Ne.symm hj), ho j hj]
  · cases by_ with
    | prog q =>
      obtain ⟨y, hy⟩ := issued_prog q r
      rw [hy] at hf
      show u = _
      rw [e, hf]
    | host side id =>
      obtain ⟨y, hy⟩ := issued_host side id r
      rw [hy] at hf
      refine ⟨by rw [e, hf], fun a _ => State.word_congr (by rw [e, hf]) a⟩
  · rw [e, hf]; cases by_ <;> rfl

@[simp] theorem issued_reg (by_ : Issuer) (s : State) (i : Nat) (r : Reg) : (issued by_ s).reg i r = s.reg i r := by
  refine State.reg_congr ?_ r
  rw [issued_square]; split <;> rfl

/-! ### Bodies of registers and flags -/

theorem issued_c (by_ : Issuer) (s : State) (i : Nat) : ((issued by_ s).square i).c = (s.square i).c := by
  rw [issued_square]; split <;> rfl

theorem issued_v (by_ : Issuer) (s : State) (i : Nat) : ((issued by_ s).square i).v = (s.square i).v := by
  rw [issued_square]; split <;> rfl

/-- An operation of Table 6-3 that writes gd: the result, the flags and the frame. -/
theorem issue_operate {by_ : Issuer} {op : Nat} {rf : Bool} {body : State → Outc} {s : State} {gd : Reg} {o : Alu}
    (h : s.issuable by_ = true) (hb : body (issued by_ s) = operate by_.idx gd o (issued by_ s)) :
    let u := issue by_ op rf body s
    Completes by_ rf (ackValue gd o.res) s u ∧ Wrote by_.idx gd o.res s u ∧
      Flags by_.idx u (o.res == 0) o.res.msb (o.c.getD (s.square by_.idx).c) (o.v.getD (s.square by_.idx).v) := by
  have hset : (setFlags by_.idx o (issued by_ s)).square by_.idx = ((issued by_ s).square by_.idx).withFlags o :=
    State.square_modSquare_same ..
  have hsq : ∀ w, (setReg by_.idx gd w (setFlags by_.idx o (issued by_ s))).square by_.idx =
      { ((issued by_ s).square by_.idx).withFlags o with
        g := ((setReg by_.idx gd w (setFlags by_.idx o (issued by_ s))).square by_.idx).g } := fun w => by
    conv_lhs => rw [setReg_square, hset]
  obtain ⟨hc, hr, hf⟩ := issue_completes (op := op) (rf := rf) s h hb (by rw [setReg_frame]; rfl)
    (fun j hj => by
      rw [setReg_square_ne _ _ _ hj]
      exact (State.square_modSquare_ne _ _ (Ne.symm hj)).trans (by rw [issued_square, if_neg hj]))
    (by conv_lhs => rw [hsq]
        conv_rhs => rw [hsq]
        rfl)
  refine ⟨hc, fun r => ?_, ?_⟩
  · rw [hr, reg_setReg]
    congr 1
    refine (State.reg_congr ?_ r).trans (issued_reg by_ s by_.idx r)
    rw [hset]; rfl
  · rw [hsq] at hf
    simpa only [Square.withFlags, issued_c, issued_v] using hf

/-- An operation that sets the flags and writes no register. -/
theorem issue_compare {by_ : Issuer} {op : Nat} {rf : Bool} {body : State → Outc} {s : State} {o : Alu}
    (h : s.issuable by_ = true) (hb : body (issued by_ s) = compare by_.idx o (issued by_ s)) :
    let u := issue by_ op rf body s
    Completes by_ rf 0 s u ∧ KeptRegs by_.idx s u ∧
      Flags by_.idx u (o.res == 0) o.res.msb (o.c.getD (s.square by_.idx).c) (o.v.getD (s.square by_.idx).v) := by
  have hset : (setFlags by_.idx o (issued by_ s)).square by_.idx = ((issued by_ s).square by_.idx).withFlags o :=
    State.square_modSquare_same ..
  obtain ⟨hc, hr, hf⟩ := issue_completes (op := op) (rf := rf) s h hb (setFlags_frame ..)
    (fun j hj => (State.square_modSquare_ne _ _ (Ne.symm hj)).trans (by rw [issued_square, if_neg hj]))
    (by rw [hset]; rfl)
  refine ⟨hc, fun r => ?_, ?_⟩
  · rw [hr]
    refine (State.reg_congr ?_ r).trans (issued_reg by_ s by_.idx r)
    rw [hset]; rfl
  · rw [hset] at hf
    simpa only [Square.withFlags, issued_c, issued_v] using hf

/-- An instruction that writes gd and keeps the flags. -/
theorem issue_result {by_ : Issuer} {op : Nat} {rf : Bool} {body : State → Outc} {s : State} {gd : Reg} {v : Word}
    (h : s.issuable by_ = true) (hb : body (issued by_ s) = result by_.idx gd v (issued by_ s)) :
    let u := issue by_ op rf body s
    Completes by_ rf (ackValue gd v) s u ∧ Wrote by_.idx gd v s u ∧ KeptFlags by_.idx s u := by
  obtain ⟨hc, hr, hf⟩ := issue_completes (op := op) (rf := rf) s h hb (setReg_frame ..)
    (fun j hj => (setReg_square_ne _ _ _ hj).trans (by rw [issued_square, if_neg hj]))
    (by conv_lhs => rw [setReg_square]
        conv_rhs => rw [setReg_square])
  refine ⟨hc, fun r => ?_, ?_⟩
  · rw [hr, reg_setReg, issued_reg]
  · rw [setReg_square, issued_square, if_pos rfl] at hf
    exact hf

/-- An instruction that changes nothing of its own. -/
theorem issue_nothing {by_ : Issuer} {op : Nat} {rf : Bool} {body : State → Outc} {s : State} {v : Word}
    (h : s.issuable by_ = true) (hb : body (issued by_ s) = .done v (issued by_ s)) :
    let u := issue by_ op rf body s
    Completes by_ rf v s u ∧ KeptRegs by_.idx s u ∧ KeptFlags by_.idx s u := by
  obtain ⟨hc, hr, hf⟩ := issue_completes (op := op) (rf := rf) s h hb rfl
    (fun j hj => by rw [issued_square, if_neg hj]) rfl
  refine ⟨hc, fun r => ?_, ?_⟩
  · rw [hr, issued_reg]
  · rw [issued_square, if_pos rfl] at hf
    exact hf

end Sys2Proof.Machine
end

