-- ==== Sys2Proof/Laws/Arith.lean ====
section
/-!
SUPPORT. Sys2Proof/Laws/Arith.lean: the laws of the register instructions: what an operation of the ALU leaves once its
instruction completes, and the shift amount, the orders and the branch conditions in plain terms.
-/
set_option Elab.async false
namespace Sys2Proof.Machine

theorem computes_of {c : Instr} {by_ : Issuer} {op : Nat} {body : State → Outc} {gd : Reg} {s : State} {v : Word}
    {cf vf : Bool} {o : Alu} (he : exec c s = .next (issue by_ op false body s)) (h : s.issuable by_ = true)
    (hb : body (issued by_ s) = operate by_.idx gd o (issued by_ s)) (hv : o.res = v)
    (hc : o.c.getD (s.square by_.idx).c = cf) (hvf : o.v.getD (s.square by_.idx).v = vf) : Computes c by_ gd v cf vf s := by
  subst hv hc hvf
  exact ⟨_, he, issue_operate h hb⟩

theorem compares_of {c : Instr} {by_ : Issuer} {op : Nat} {body : State → Outc} {s : State} {v : Word} {cf vf : Bool}
    {o : Alu} (he : exec c s = .next (issue by_ op false body s)) (h : s.issuable by_ = true)
    (hb : body (issued by_ s) = compare by_.idx o (issued by_ s)) (hv : o.res = v)
    (hc : o.c.getD (s.square by_.idx).c = cf) (hvf : o.v.getD (s.square by_.idx).v = vf) : Compares c by_ v cf vf s := by
  subst hv hc hvf
  exact ⟨_, he, issue_compare h hb⟩

theorem moves_of {c : Instr} {by_ : Issuer} {op : Nat} {body : State → Outc} {gd : Reg} {s : State} {v : Word}
    (he : exec c s = .next (issue by_ op false body s)) (h : s.issuable by_ = true)
    (hb : body (issued by_ s) = result by_.idx gd v (issued by_ s)) : Moves c by_ gd v s :=
  ⟨_, he, issue_result h hb⟩

theorem issued_shift (by_ : Issuer) (s : State) (i : Nat) (gb : Reg) (sub : BitVec 14) :
    (issued by_ s).shiftBy i gb sub = s.shiftBy i gb sub := by
  unfold State.shiftBy; rw [issued_reg]

theorem lessThan_eq (u : Bool) (a b : Word) :
    lessThan u a b = if u then decide (a.toNat < b.toNat) else decide (a.toInt < b.toInt) := by
  unfold lessThan; cases u <;> simp [BitVec.ult_eq_decide, BitVec.slt_eq_decide]

theorem natBit_eq (a : Word) (i : Nat) : natBit a.toNat i = a.getLsbD i := by
  unfold natBit BitVec.getLsbD Nat.testBit
  rw [Nat.shiftRight_eq_div_pow, Nat.and_comm, Nat.and_one_is_mod]
  rcases Nat.mod_two_eq_zero_or_one (a.toNat / 2 ^ i) with h | h <;> simp [h]

/-! ### Branch conditions -/

theorem cond_eq (q : Square) (c : Reg) : q.cond c =
    [true, q.z, !q.z, q.n != q.v, q.n == q.v, !q.c, q.c, q.f, !q.f, q.evpend &&& q.evmask != 0][c.toNat]? := by
  have := c.isLt
  unfold Square.cond
  generalize c.toNat = k at *
  interval_cases k <;> rfl

theorem issued_cond (by_ : Issuer) (s : State) (i : Nat) (c : Reg) :
    ((issued by_ s).square i).cond c = (s.square i).cond c := by
  rw [issued_square]; split <;> rfl

end Sys2Proof.Machine
end

