-- ==== Sys2Proof/Laws/Decode32.lean ====
section
/-!
SUPPORT. Sys2Proof/Laws/Decode32.lean: the bits and the fields of an instruction word: what a word was made of is what its
fields read.
-/
set_option Elab.async false
namespace Sys2Proof.Machine

theorem wordA_bit (op gd ga gb low) (i : Nat) : (wordA op gd ga gb low).getLsbD i =
    if i < 14 then low.getLsbD i else if i < 18 then gb.getLsbD (i - 14) else if i < 22 then ga.getLsbD (i - 18)
    else if i < 26 then gd.getLsbD (i - 22) else op.getLsbD (i - 26) := by
  unfold wordA
  rw [BitVec.getLsbD_append, BitVec.getLsbD_append, BitVec.getLsbD_append, BitVec.getLsbD_append]
  repeat' split
  all_goals first | rfl | omega 

theorem wordI_bit (op gd ga imm) (i : Nat) : (wordI op gd ga imm).getLsbD i =
    if i < 18 then imm.getLsbD i else if i < 22 then ga.getLsbD (i - 18) else if i < 26 then gd.getLsbD (i - 22)
    else op.getLsbD (i - 26) := by
  unfold wordI
  rw [BitVec.getLsbD_append, BitVec.getLsbD_append, BitVec.getLsbD_append]
  repeat' split
  all_goals first | rfl | omega 

theorem bits_of {w n k: Nat} (x : BitVec w) (y : BitVec n) (h : ∀ i, i < n → x.getLsbD (k + i) = y.getLsbD i) : x.extractLsb' k n = y := by
  apply BitVec.eq_of_getLsbD_eq
  intro i hi
  simp only [BitVec.getLsbD_extractLsb', hi, decide_true, Bool.true_and]; exact h i hi

theorem wordA_op (op gd ga gb low) : (wordA op gd ga gb low).extractLsb' 26 6 = op := by
  apply bits_of; intro i hi; rw [wordA_bit]
  repeat' split
  all_goals first | omega | (congr 1; omega)

theorem wordA_fields (op gd ga gb low) : fieldsOf (wordA op gd ga gb low) = ⟨gd, ga, gb, gb ++ low, low⟩ := by
  simp only [fieldsOf, WordFields.mk.injEq]
  refine ⟨?_, ?_, ?_, ?_, ?_⟩ <;> apply bits_of <;> intro i hi <;> simp only [wordA_bit, BitVec.getLsbD_append] <;> repeat' split
  all_goals first | omega | rfl |  (congr 1; omega)

theorem wordI_op (op gd ga imm) : (wordI op gd ga imm).extractLsb' 26 6 = op := by
  apply bits_of; intro i hi; rw [wordI_bit]
  repeat' split
  all_goals first | omega | (congr 1; omega)

theorem wordI_fields (op gd ga imm) : fieldsOf (wordI op gd ga imm) = ⟨gd, ga, imm.extractLsb' 14 4, imm, imm.extractLsb' 0 14⟩ := by
  simp only [fieldsOf, WordFields.mk.injEq]
  refine ⟨?_, ?_, ?_, ?_, ?_⟩ <;> apply bits_of <;> intro i hi <;> simp only [wordI_bit, BitVec.getLsbD_extractLsb'] <;> repeat' split
  all_goals first | omega | rfl |  (congr 1; omega) | (simp; omega)

end Sys2Proof.Machine
end

