-- ==== Sys2Proof/Laws/Records.lean ====
section
/-!
SUPPORT. Sys2Proof/Laws/Records.lean: what the record path can change, said once for each of its operations.
-/
set_option Elab.async false
namespace Sys2Proof.Machine

theorem RecordPath.refl (s : State) : RecordPath s s := ⟨rfl, fun _ _ => rfl⟩

theorem RecordPath.trans {s t u : State} (h1 : RecordPath s t) (h2 : RecordPath t u) : RecordPath s u :=
  ⟨h2.1.trans (by rw [h1.1]), fun a ha => (h2.2 a ha).trans (h1.2 a ha)⟩

/-- A change of the record path's own fields. -/
theorem RecordPath.of_fields {s t : State}
    (h : t = { s with raised := t.raised, packets := t.packets, nextPid := t.nextPid, waiting := t.waiting, seq := t.seq
                      ledgers := t.ledgers, reports := t.reports, refProg := t.refProg, refA1 := t.refA1
                      free := t.free, bufErr := t.bufErr, scrubBack := t.scrubBack, served := t.served }) :
    RecordPath s t := by
  refine ⟨?_, fun a _ => State.word_congr (by rw [h]) a⟩
  conv_lhs => rw [h]
  rw [h]

/-- A change of a field of the record path's words. -/
theorem RecordPath.of_wr (f : Fld) (v : Nat) (s : State) (h : f.addr ∈ recordWords) : RecordPath s (f.wr v s) :=
  ⟨rfl, fun _ ha => Fld.wr_word_ne f v s fun e => ha (e ▸ h)⟩

theorem RecordPath.of_count (f : Fld) (n : Nat) (s : State) (h : f.addr ∈ recordWords) : RecordPath s (f.count n s) :=
  RecordPath.of_wr f _ s h

theorem RecordPath.of_flag (w b : Nat) (s : State) (h1 : w ∈ recordWords) (h2 : w + 1 + b ∈ recordWords) :
    RecordPath s (raiseFlag w b s) :=
  (RecordPath.of_wr _ _ _ h1).trans (RecordPath.of_count _ _ _ h2)

theorem raiseEv_path (r : Raised) (s : State) : RecordPath s (raiseEv r s) := .of_fields rfl

theorem modPacket_path (pid : Nat) (f : Packet → Packet) (s : State) : RecordPath s (s.modPacket pid f) := .of_fields rfl

theorem modLedger_path (k : Word) (f : Ledger → Ledger) (s : State) : RecordPath s (s.modLedger k f) := .of_fields rfl

theorem notice_path (c : Cls) (s : State) : RecordPath s (notice c s) := by
  unfold notice; split
  · exact raiseEv_path ..
  · exact .refl s

theorem closePacket_path (pid : Nat) (s : State) : RecordPath s (closePacket pid s) := by
  unfold closePacket
  split
  · exact .refl s
  · split
    · extract_lets req engines job a b c
      have hc : RecordPath s c :=
        ((modPacket_path _ _ _).trans (.of_fields rfl : RecordPath a b)).trans (modLedger_path _ _ _)
      clear_value c
      split
      · exact hc
      · exact hc.trans (notice_path ..)
    · exact .refl s

theorem closeClass_path (c : Cls) (s : State) : RecordPath s (closeClass c s) := by
  unfold closeClass; split
  · exact closePacket_path ..
  · exact .refl s

theorem takePages_path (n : Nat) (s : State) : RecordPath s (s.takePages n).2 := .of_fields rfl

/-- Pages are linked: nothing changes but the errors of the pages that are renewed, and what the free values have drawn. -/
theorem linkPages_path {p q : Packet} {s t : State} (h : s.linkPages p = some (q, t)) : RecordPath s t := by
  unfold State.linkPages at h
  split at h
  · cases h; exact .refl s
  · split at h
    · cases h; exact takePages_path ..
    · cases h

theorem servedBlock_path (w : Waiting) (s : State) : RecordPath s (servedBlock w s) := by
  unfold servedBlock; split
  · exact .refl s
  · exact .of_fields rfl

theorem tryEnter_path (w : Waiting) (s : State) : RecordPath s (tryEnter w s).1 := by
  unfold tryEnter
  extract_lets t q
  have ht : RecordPath s t := by
    show RecordPath s (if _ then _ else _)
    split
    · exact closeClass_path ..
    · exact .refl s
  clear_value t
  refine ht.trans ?_
  split
  · split
    · next h => exact (linkPages_path h).trans (modPacket_path ..)
    · exact .refl t
  · split
    · split
      · next h => exact (linkPages_path h).trans (.of_fields rfl)
      · exact .refl t
    · exact .refl t

theorem waitSpace_path (why : WaitWhy) (w : Waiting) (s : State) : RecordPath s (waitSpace why w s) :=
  (RecordPath.of_fields rfl : RecordPath s { s with waiting := s.waiting ++ [{ w with why := why }] }).trans
    (.of_flag _ _ _ (by decide) (by decide))

/-- A record reaches its region's write port: it enters a packet or waits there. -/
theorem enterRecord_path (w : Waiting) (s : State) : RecordPath s (enterRecord w s) := by
  unfold enterRecord
  split
  · exact .of_fields rfl
  · split
    · exact waitSpace_path ..
    · extract_lets r
      have hr : RecordPath s r.1 := tryEnter_path w s
      clear_value r
      split
      · exact hr.trans (servedBlock_path ..)
      · exact hr.trans (waitSpace_path ..)

theorem mRecord_path (kind sq : Nat) (tag : BitVec 6) (body : List Word) (s : State) :
    RecordPath s (mRecord kind sq tag body s) := enterRecord_path ..

/-- A record of the hub's own, or its count where the orbit has had 64. -/
theorem hubRecordOf_path (kind sq : Nat) (body : List Word) (s : State) : RecordPath s (hubRecordOf kind sq body s) := by
  unfold hubRecordOf; split
  · exact (RecordPath.of_fields rfl : RecordPath s { s with reports := s.reports + 1 }).trans (mRecord_path ..)
  · exact .of_count _ _ _ (by decide)

theorem eventReport_path (ev index detail : Nat) (s : State) : RecordPath s (eventReport ev index detail s) :=
  hubRecordOf_path ..

theorem refusalRecord_path (sq op : Nat) (r : Reason) (test grp : Nat) (id : BitVec 16) (s : State) :
    RecordPath s (refusalRecord sq op r test grp id s) := by
  unfold refusalRecord
  extract_lets body
  clear_value body
  split
  · split
    · exact (RecordPath.of_fields rfl : RecordPath s { s with refA1 := s.refA1 + 1 }).trans (mRecord_path ..)
    · exact .of_count _ _ _ (by decide)
  · split
    · exact (RecordPath.of_fields rfl : RecordPath s { s with refProg := s.refProg + 1 }).trans (mRecord_path ..)
    · exact .of_count _ _ _ (by decide)

/-! ### What the path leaves, field by field -/

theorem RecordPath.squares {s t : State} (h : RecordPath s t) : t.squares = s.squares := by rw [h.1]
theorem RecordPath.square {s t : State} (h : RecordPath s t) (i : Nat) : t.square i = s.square i := by
  unfold State.square; rw [h.squares]
theorem RecordPath.reg {s t : State} (h : RecordPath s t) (i : Nat) (r : Reg) : t.reg i r = s.reg i r :=
  State.reg_congr (by rw [h.square]) r
theorem RecordPath.rd {s t : State} (h : RecordPath s t) {f : Fld} (hf : f.addr ∉ recordWords) : f.rd t = f.rd s :=
  Fld.rd_of_word (h.2 _ hf)
theorem RecordPath.is {s t : State} (h : RecordPath s t) {f : Fld} (hf : f.addr ∉ recordWords) : f.is t = f.is s :=
  Fld.is_of_word (h.2 _ hf)

/-! ### Words -/

theorem SameWords.mono {l m : List Nat} {s t : State} (h : SameWords l s t) (hs : ∀ a ∈ l, a ∈ m) : SameWords m s t :=
  fun a ha => h a fun h' => ha (hs a h')

theorem SameWords.trans {l : List Nat} {s t u : State} (h1 : SameWords l s t) (h2 : SameWords l t u) : SameWords l s u :=
  fun a ha => (h2 a ha).trans (h1 a ha)

theorem SameWords.of_regs {l : List Nat} {s t : State} (h : t.regs = s.regs) : SameWords l s t :=
  fun a _ => State.word_congr h a

theorem SameWords.of_flag {l : List Nat} (w b : Nat) (s : State) (h1 : w ∈ l) (h2 : w + 1 + b ∈ l) :
    SameWords l s (raiseFlag w b s) :=
  fun _ ha => raiseFlag_word_ne w b s (fun e => ha (e ▸ h1)) fun e => ha (e ▸ h2)

/-! ### Refusals -/

/-- What a refusal can change, squares, sides and words apart. -/
def RefusalFrame (s t : State) : Prop :=
  t = { s with squares := t.squares, rr := t.rr, a1 := { s.a1 with wait := t.a1.wait }, sid := t.sid, raised := t.raised
               packets := t.packets, nextPid := t.nextPid, waiting := t.waiting, seq := t.seq, ledgers := t.ledgers
               reports := t.reports, refProg := t.refProg, refA1 := t.refA1, regs := t.regs
               free := t.free, bufErr := t.bufErr, scrubBack := t.scrubBack, served := t.served }

theorem RefusalFrame.trans {s t u : State} (h1 : RefusalFrame s t) (h2 : RefusalFrame t u) : RefusalFrame s u := by
  unfold RefusalFrame at *
  exact h2.trans (by rw [h1])

theorem RefusalFrame.of_path {s t : State} (h : RecordPath s t) : RefusalFrame s t := by
  unfold RefusalFrame
  conv_lhs => rw [h.1]
  rw [h.1]

theorem RefusalFrame.of_issued (by_ : Issuer) (s : State) : RefusalFrame s (issued by_ s) := by
  unfold RefusalFrame
  cases by_ with
  | prog q => obtain ⟨x, hx⟩ := issued_prog q s; rw [hx]
  | host side id => rfl

theorem RefusalFrame.of_sidRegs {s t : State} (h : t = { s with sid := t.sid, regs := t.regs }) : RefusalFrame s t := by
  unfold RefusalFrame
  conv_lhs => rw [h]
  rw [h]

theorem RefusalFrame.of_modSquare (i : Nat) (f : Square → Square) (s : State) : RefusalFrame s (s.modSquare i f) := rfl

theorem RefusalFrame.of_regs {s t : State} (h : t = { s with regs := t.regs }) : RefusalFrame s t := by
  unfold RefusalFrame
  conv_lhs => rw [h]
  rw [h]

theorem refuseHost_frame (side : Side) (id : BitVec 16) (op : Nat) (r : Reason) (test grp : Nat) (s : State) :
    let t := refuseHost side id op r test grp s
    t = { s with sid := t.sid, regs := t.regs } := by
  unfold refuseHost
  exact sidRegs_trans (sidRegs_trans (sidRegs_of_sid (respond_frame ..)) (mirror_frame ..)) (windowPut_frame ..)

theorem refuseHost_words (side : Side) (id : BitVec 16) (op : Nat) (r : Reason) (test grp : Nat) (s : State) :
    SameWords responseWords s (refuseHost side id op r test grp s) :=
  fun a h => by unfold refuseHost; rw [windowPut_words _ _ h, mirror_words _ _ _ h, respond_words]

theorem refuseHost_own (side : Side) (id : BitVec 16) (op : Nat) (r : Reason) (test grp : Nat) (s : State) :
    (refuseHost side id op r test grp s).sid.own.get side = s.sid.own.get side ++ (if s.answers side then
      [.refused id (BitVec.ofNat 6 op) (BitVec.ofNat 3 r.code) (BitVec.ofNat 3 test) (BitVec.ofNat 4 grp)] else []) := by
  unfold refuseHost; rw [windowPut_own, mirror_own, respond_own]

/-- The sticky flag of a reason. -/
def reasonFlag (r : Reason) (s : State) : State :=
  match r with
  | .absent => raiseFlag F.CAP_ABSENT_FLAG.addr 0 (s.setWord F.CAP_ABSADDR_ADDR.addr 0x80000000)
  | .state => raiseFlag F.PWR_STICKY_REFUSE.addr 0 s
  | _ => s

theorem reasonFlag_frame (r : Reason) (s : State) : reasonFlag r s = { s with regs := (reasonFlag r s).regs } := by
  cases r <;> unfold reasonFlag
  · conv_lhs => rw [raiseFlag_frame]
    rfl
  · exact raiseFlag_frame ..
  all_goals rfl

theorem reasonFlag_words (r : Reason) (s : State) : SameWords (refusalWords r) s (reasonFlag r s) := by
  cases r
  · refine SameWords.trans (t := s.setWord F.CAP_ABSADDR_ADDR.addr 0x80000000) (fun a ha => ?_) (SameWords.of_flag _ _ _ (by decide) (by decide))
    exact State.word_setWord_ne _ _ fun e => ha (e ▸ by decide)
  · exact SameWords.of_flag _ _ _ (by decide) (by decide)
  all_goals exact .of_regs rfl

theorem RefusalFrame.square_of {s t : State} (h : t.squares = s.squares) (i : Nat) : t.square i = s.square i := by
  unfold State.square; rw [h]

theorem advance_frame (by_ : Issuer) (s : State) : ∃ x, advance by_ s = { s with squares := x } := by
  cases by_ <;> exact ⟨_, rfl⟩

theorem advance_square (by_ : Issuer) (s : State) (j : Nat) :
    (advance by_ s).square j =
      if j = by_.idx then { s.square j with pc := (match by_ with | .prog _ => (s.square j).pc + 1 | .host _ _ => (s.square j).pc) }
      else s.square j := by
  cases by_ with
  | prog q =>
    by_cases hj : j = q.val + 1
    · subst hj; simp [advance, Issuer.idx]
    · rw [if_neg (by simpa [Issuer.idx] using hj)]
      exact State.square_modSquare_ne _ _ (Ne.symm hj)
  | host side id => simp only [advance]; split <;> rfl

/-- The state of a refused instruction up to its response. -/
def refusedCore (by_ : Issuer) (op : Nat) (r : Reason) (test grp : Nat) (s : State) : State :=
  advance by_ (refusalRecord by_.idx op r test grp (cmdId by_)
    (reasonFlag r (s.modSquare by_.idx fun q => { q with f := true, resv := none })))

theorem refused_eq (by_ : Issuer) (op : Nat) (r : Reason) (test grp : Nat) (s : State) :
    refused by_ op r test grp s =
      match by_ with
      | .prog _ => refusedCore by_ op r test grp s
      | .host side id => refuseHost side id op r test grp (refusedCore by_ op r test grp s) := by
  cases by_ <;> cases r <;> rfl

theorem reasonFlag_square (r : Reason) (s : State) (i : Nat) : (reasonFlag r s).square i = s.square i :=
  RefusalFrame.square_of (by rw [reasonFlag_frame]) i

theorem refusedCore_square (by_ : Issuer) (op : Nat) (r : Reason) (test grp : Nat) (s : State) (j : Nat) :
    (refusedCore by_ op r test grp s).square j =
      if j = by_.idx then
        { s.square j with
          f := true
          resv := none
          pc := (match by_ with | .prog _ => (s.square j).pc + 1 | .host _ _ => (s.square j).pc) }
      else s.square j := by
  unfold refusedCore
  rw [advance_square, (refusalRecord_path ..).square, reasonFlag_square, State.square_modSquare]
  by_cases hj : j = by_.idx
  · subst hj; simp only [if_true]
  · simp only [if_neg hj, if_neg (Ne.symm hj)]

theorem refusedCore_frame (by_ : Issuer) (op : Nat) (r : Reason) (test grp : Nat) (s : State) :
    RefusalFrame s (refusedCore by_ op r test grp s) ∧ (refusedCore by_ op r test grp s).sid = s.sid ∧
      (refusedCore by_ op r test grp s).shadow = s.shadow ∧
      SameWords (refusalWords r) s (refusedCore by_ op r test grp s) := by
  unfold refusedCore
  obtain ⟨x, hx⟩ := advance_frame by_ (refusalRecord by_.idx op r test grp (cmdId by_)
    (reasonFlag r (s.modSquare by_.idx fun q => { q with f := true, resv := none })))
  have h1 : RefusalFrame s (s.modSquare by_.idx fun q => { q with f := true, resv := none }) := .of_modSquare ..
  have h2 := RefusalFrame.of_regs (reasonFlag_frame r (s.modSquare by_.idx fun q => { q with f := true, resv := none }))
  have h3 := refusalRecord_path by_.idx op r test grp (cmdId by_)
    (reasonFlag r (s.modSquare by_.idx fun q => { q with f := true, resv := none }))
  have w2 : SameWords (refusalWords r) s (reasonFlag r (s.modSquare by_.idx fun q => { q with f := true, resv := none })) :=
    SameWords.trans (.of_regs rfl) (reasonFlag_words r _)
  have e2 : (reasonFlag r (s.modSquare by_.idx fun q => { q with f := true, resv := none })).sid = s.sid := by
    rw [reasonFlag_frame]; rfl
  have e3 : (reasonFlag r (s.modSquare by_.idx fun q => { q with f := true, resv := none })).shadow = s.shadow := by
    rw [reasonFlag_frame]; rfl
  rw [hx]
  generalize reasonFlag r (s.modSquare by_.idx fun q => { q with f := true, resv := none }) = u at *
  generalize refusalRecord by_.idx op r test grp (cmdId by_) u = v at *
  refine ⟨((h1.trans h2).trans (.of_path h3)).trans rfl, ?_, ?_, ?_⟩
  · show v.sid = _; rw [h3.1]; exact e2
  · show v.shadow = _; rw [h3.1]; exact e3
  · refine w2.trans ((h3.2.mono fun a ha => ?_).trans (.of_regs rfl))
    simp only [refusalWords, List.mem_append]; exact .inl (.inr ha)

theorem refuseHost_squares (side : Side) (id : BitVec 16) (op : Nat) (r : Reason) (test grp : Nat) (s : State) :
    (refuseHost side id op r test grp s).squares = s.squares := by rw [refuseHost_frame]

theorem answers_congr {s t : State} (h : t.shadow = s.shadow) (side : Side) : t.answers side = s.answers side := by
  unfold State.answers State.rating State.fusedRating State.shadowWord; rw [h]

/-- An instruction whose body takes the state `s` to `x` and refuses. -/
theorem issue_refused_from {by_ : Issuer} {op : Nat} {rf : Bool} {body : State → Outc} {s t : State} {r : Reason}
    {test grp : Nat} (x : State) (h : s.issuable by_ = true) (hb : body (issued by_ s) = .refuse r test grp t)
    (hf : t = { issued by_ x with squares := t.squares }) (hs : ∀ j, t.square j = (issued by_ x).square j) :
    RefusedWith by_ op r test grp x (issue by_ op rf body s) := by
  have he : issue by_ op rf body s = refused by_ op r test grp t := by
    unfold issue; rw [if_pos h, hb]; rfl
  obtain ⟨hc, hsid, hsh, hw⟩ := refusedCore_frame by_ op r test grp t
  have hsq := refusedCore_square by_ op r test grp t
  have hi := RefusalFrame.of_issued by_ x
  have it : RefusalFrame (issued by_ x) t := by rw [hf]; rfl
  have isid : t.sid = x.sid := by rw [hf]; cases by_ <;> rfl
  have ish : t.shadow = x.shadow := by rw [hf]; cases by_ <;> rfl
  have iw : SameWords (refusalWords r) x t := .of_regs (by rw [hf]; cases by_ <;> rfl)
  rw [he, refused_eq]
  generalize refusedCore by_ op r test grp t = u at *
  have hone : u.square by_.idx = { x.square by_.idx with
      f := true, issued := (x.square by_.idx).issued + 1, effPrio := (x.square by_.idx).prio, resv := none
      pc := match by_ with | .prog _ => (x.square by_.idx).pc + 1 | .host _ _ => (x.square by_.idx).pc } := by
    rw [hsq, if_pos rfl, hs, issued_square, if_pos rfl]
    cases by_ <;> rfl
  have hrest : SameSquares by_.idx x u := fun j hj => by rw [hsq, if_neg hj, hs, issued_square, if_neg hj]
  cases by_ with
  | prog q => exact ⟨hone, hrest, hsid.trans isid, (hi.trans it).trans hc, iw.trans hw⟩
  | host side id =>
    have hsq' : ∀ j, (refuseHost side id op r test grp u).square j = u.square j :=
      RefusalFrame.square_of (refuseHost_squares ..)
    refine ⟨(hsq' _).trans hone, fun j hj => (hsq' j).trans (hrest j hj), ?_,
      ((hi.trans it).trans hc).trans (.of_sidRegs (refuseHost_frame ..)),
      (iw.trans hw).trans (SameWords.mono (l := responseWords) (refuseHost_words side id op r test grp u) ?_)⟩
    · show (refuseHost side id op r test grp u).sid.own.get side = _
      rw [refuseHost_own, hsid, isid, answers_congr (hsh.trans ish)]
    · intro a ha; simp only [refusalWords, List.mem_append]; exact .inl (.inl ha)

/-- An instruction whose body refuses at once. -/
theorem issue_refused {by_ : Issuer} {op : Nat} {rf : Bool} {body : State → Outc} {s : State} {r : Reason} {test grp : Nat}
    (h : s.issuable by_ = true) (hb : body (issued by_ s) = .refuse r test grp (issued by_ s)) :
    RefusedWith by_ op r test grp s (issue by_ op rf body s) := issue_refused_from s h hb rfl fun _ => rfl

/-! ### Faults -/

theorem faultSquare_frame (i cause : Nat) (s : State) :
    let t := faultSquare i cause s
    t.square i = { s.square i with
      state := .faulted, faultPc := (s.square i).pc, faultCause := BitVec.ofNat 4 cause, resv := none } ∧
    (∀ j, j ≠ i → t.square j = s.square j) ∧ F.SEQ_STICKY_FAULT.is t = true ∧
    t = { s with squares := t.squares, raised := t.raised
                 packets := t.packets, nextPid := t.nextPid, waiting := t.waiting, seq := t.seq, ledgers := t.ledgers
                 reports := t.reports, refProg := t.refProg, refA1 := t.refA1, regs := t.regs
                 free := t.free, bufErr := t.bufErr, scrubBack := t.scrubBack, served := t.served } ∧
    SameWords ([F.SEQ_STICKY_FAULT.addr, F.SEQ_STICKY_FAULT.addr + 3] ++ recordWords) s t := by
  intro t
  obtain ⟨u, hu⟩ : ∃ u, u = s.modSquare i fun q =>
    { q with state := .faulted, faultPc := (s.square i).pc, faultCause := BitVec.ofNat 4 cause, resv := none } := ⟨_, rfl⟩
  have hp : RecordPath (raiseFlag F.SEQ_STICKY_FAULT.addr 2 u) t := by subst hu; exact hubRecordOf_path ..
  have hr := raiseFlag_frame F.SEQ_STICKY_FAULT.addr 2 u
  have hw : SameWords ([F.SEQ_STICKY_FAULT.addr, F.SEQ_STICKY_FAULT.addr + 3] ++ recordWords) u
    (raiseFlag F.SEQ_STICKY_FAULT.addr 2 u) := .of_flag _ _ _ (by decide) (by decide)
  have hfl : F.SEQ_STICKY_FAULT.is (raiseFlag F.SEQ_STICKY_FAULT.addr 2 u) = true :=
    raiseFlag_is F.SEQ_STICKY_FAULT.addr 2 u (by decide)
  have hsq : ∀ j, (raiseFlag F.SEQ_STICKY_FAULT.addr 2 u).square j = u.square j := fun j => by simp
  clear_value t
  generalize raiseFlag F.SEQ_STICKY_FAULT.addr 2 u = v at *
  subst hu
  refine ⟨?_, fun j hj => ?_, ?_, ?_, ?_⟩
  · rw [hp.square, hsq]; exact State.square_modSquare_same ..
  · rw [hp.square, hsq]; exact State.square_modSquare_ne _ _ (Ne.symm hj)
  · rw [hp.is (by decide)]; exact hfl
  · rw [hp.1, hr]; rfl
  · exact (SameWords.of_regs (t := s.modSquare i _) rfl).trans (hw.trans (hp.2.mono fun a ha => List.mem_append_right _ ha))

theorem issue_faulted {n : Fin 63} {op : Nat} {rf : Bool} {body : State → Outc} {s : State} {cause : Nat}
    (h : s.issuable (.prog n) = true) (hb : body (issued (.prog n) s) = .fault cause (issued (.prog n) s)) :
    FaultedWith n cause s (issue (.prog n) op rf body s) := by
  have he : issue (.prog n) op rf body s = faultSquare (n.val + 1) cause (issued (.prog n) s) := by
    unfold issue; rw [if_pos h, hb]; rfl
  rw [he]
  obtain ⟨h1, h2, h3, h4, h5⟩ := faultSquare_frame (n.val + 1) cause (issued (.prog n) s)
  generalize faultSquare (n.val + 1) cause (issued (.prog n) s) = t at *
  obtain ⟨x, hx⟩ := issued_prog n s
  refine ⟨?_, fun j hj => ?_, h3, ?_, ?_⟩
  · rw [h1, show (issued (.prog n) s).square (n.val + 1) = _ from (issued_square ..).trans (if_pos rfl)]
  · rw [h2 j hj]; exact (issued_square ..).trans (if_neg hj)
  · rw [h4, hx]
  · exact (SameWords.of_regs rfl : SameWords _ s (issued (.prog n) s)).trans h5

/-- What faults a program square is refused in a1 with RANGE (R159). -/
theorem issue_host_fault {side : Side} {id : BitVec 16} {op : Nat} {rf : Bool} {body : State → Outc} {s : State} {cause : Nat}
    (h : s.issuable (.host side id) = true)
    (hb : body (issued (.host side id) s) = .fault cause (issued (.host side id) s)) :
    RefusedWith (.host side id) op .range 0 0 s (issue (.host side id) op rf body s) := by
  have e : issue (.host side id) op rf body s = issue (.host side id) op rf (fun u => .refuse .range 0 0 u) s := by
    unfold issue; rw [if_pos h, if_pos h, hb]; rfl
  rw [e]
  exact issue_refused h rfl

end Sys2Proof.Machine
end

