-- ==== Sys2Proof/Laws/Prog.lean ====
section
/-!
SUPPORT. Sys2Proof/Laws/Prog.lean: every shared operation that leaves program memory as it is says so, so that a proof about a
command never unfolds one for it (power-on, RSTN and memory initialisation clear it, and writes of its window write it).
-/
set_option Elab.async false
namespace Sys2Proof.Machine

set_option linter.unusedTactic false
set_option linter.unreachableTactic false

/-! ### Machine/Ops.lean -/

/-- The state that an outcome carries. -/
def Outc.st : Outc → State
  | .done _ s => s
  | .goto _ s => s
  | .stay s => s
  | .refuse _ _ _ s => s
  | .fault _ s => s

@[simp] theorem Outc.st_done (v : Word) (s : State) : (Outc.done v s).st = s := rfl
@[simp] theorem Outc.st_goto (pc : BitVec 14) (s : State) : (Outc.goto pc s).st = s := rfl
@[simp] theorem Outc.st_stay (s : State) : (Outc.stay s).st = s := rfl
@[simp] theorem Outc.st_refuse (r : Reason) (a b : Nat) (s : State) : (Outc.refuse r a b s).st = s := rfl
@[simp] theorem Outc.st_fault (c : Nat) (s : State) : (Outc.fault c s).st = s := rfl

/-- The state that a payment carries. -/
def Pay.st : Pay → State
  | .refused s => s
  | .waits s => s
  | .paid s => s

@[simp] theorem Pay.st_refused (s : State) : (Pay.refused s).st = s := rfl
@[simp] theorem Pay.st_waits (s : State) : (Pay.waits s).st = s := rfl
@[simp] theorem Pay.st_paid (s : State) : (Pay.paid s).st = s := rfl
@[simp] theorem ite_prog (c : Prop) [Decidable c] (a b : State) :
    (if c then a else b).prog = if c then a.prog else b.prog := by split <;> rfl
@[simp] theorem overList_prog (l : List Nat) (f : Nat → State → State) (s : State) (h : ∀ c t, (f c t).prog = t.prog) :
    (overList l f s).prog = s.prog := by
  unfold overList
  induction l generalizing s with
  | nil => rfl
  | cons a r ih => exact (ih _).trans (h a s)
@[simp] theorem foldl_prog {α : Type} (l : List α) (f : State → α → State) (s : State) (h : ∀ t a, (f t a).prog = t.prog) :
    (l.foldl f s).prog = s.prog := by
  induction l generalizing s with
  | nil => rfl
  | cons a r ih => exact (ih _).trans (h s a)
@[simp] theorem foldr_prog {α : Type} (l : List α) (f : α → State → State) (s : State) (h : ∀ a t, (f a t).prog = t.prog) :
    (l.foldr f s).prog = s.prog := by
  induction l with
  | nil => rfl
  | cons a r ih => exact (h a _).trans ih
@[simp] theorem Fld.put_prog (f : Fld) (b : Bool) (s : State) : (Fld.put f b s).prog = s.prog := by
  unfold Fld.put
  try simp only []
  all_goals repeat' split
  all_goals first | simp_all | rfl
@[simp] theorem Fld.wrInt_prog (f : Fld) (v : Int) (s : State) : (Fld.wrInt f v s).prog = s.prog := by
  unfold Fld.wrInt
  try simp only []
  all_goals repeat' split
  all_goals first | simp_all | rfl
@[simp] theorem Fld.wrap_prog (f : Fld) (s : State) : (Fld.wrap f s).prog = s.prog := by
  unfold Fld.wrap
  try simp only []
  all_goals repeat' split
  all_goals first | simp_all | rfl
@[simp] theorem raiseFirst_prog (w bit : Nat) (s : State) : (raiseFirst w bit s).prog = s.prog := by
  unfold raiseFirst
  try simp only []
  all_goals repeat' split
  all_goals first | simp_all | rfl
@[simp] theorem burnFuses_prog (off : Nat) (bits : Word) (s : State) : (burnFuses off bits s).prog = s.prog := by
  unfold burnFuses
  try simp only []
  all_goals repeat' split
  all_goals first | simp_all | rfl

/-! ### Machine/Buffer.lean -/

@[simp] theorem State.setStale_prog (n : Nat) (b : Bool) (s : State) : (State.setStale n b s).prog = s.prog := by
  unfold State.setStale
  try simp only []
  all_goals repeat' split
  all_goals first | simp_all | rfl
@[simp] theorem renewPages_prog (l : List Nat) (s : State) : (renewPages l s).prog = s.prog := by
  unfold renewPages
  try simp only []
  all_goals repeat' split
  all_goals first | simp_all | rfl
@[simp] theorem State.takePages_prog (s : State) (n : Nat) : (State.takePages s n).2.prog = s.prog := by
  unfold State.takePages
  try simp only []
  all_goals repeat' split
  all_goals first | simp_all | rfl
@[simp] theorem State.modPacket_prog (pid : Nat) (f : Packet → Packet) (s : State) :
    (State.modPacket pid f s).prog = s.prog := by
  unfold State.modPacket
  try simp only []
  all_goals repeat' split
  all_goals first | simp_all | rfl
@[simp] theorem notice_prog (c : Cls) (s : State) : (notice c s).prog = s.prog := by
  unfold notice
  try simp only []
  all_goals repeat' split
  all_goals first | simp_all | rfl
@[simp] theorem State.modLedger_prog (k : Word) (f : Ledger → Ledger) (s : State) :
    (State.modLedger k f s).prog = s.prog := by
  unfold State.modLedger
  try simp only []
  all_goals repeat' split
  all_goals first | simp_all | rfl
@[simp] theorem closePacket_prog (pid : Nat) (s : State) : (closePacket pid s).prog = s.prog := by
  unfold closePacket
  try simp only []
  all_goals repeat' split
  all_goals first | simp_all | rfl
@[simp] theorem closeClass_prog (c : Cls) (s : State) : (closeClass c s).prog = s.prog := by
  unfold closeClass
  try simp only []
  all_goals repeat' split
  all_goals first | simp_all | rfl
theorem linkPages_prog {p q : Packet} {s t : State} (h : s.linkPages p = some (q, t)) :
    t.prog = s.prog := (congrArg State.prog (linkPages_path h).1).trans rfl
@[simp] theorem tryEnter_prog (w : Waiting) (s : State) :
    (tryEnter w s).1.prog = s.prog := (congrArg State.prog (tryEnter_path ..).1).trans rfl
@[simp] theorem waitSpace_prog (why : WaitWhy) (w : Waiting) (s : State) : (waitSpace why w s).prog = s.prog := by
  unfold waitSpace
  try simp only []
  all_goals repeat' split
  all_goals first | simp_all | rfl
@[simp] theorem servedBlock_prog (w : Waiting) (s : State) : (servedBlock w s).prog = s.prog := by
  unfold servedBlock
  try simp only []
  all_goals repeat' split
  all_goals first | simp_all | rfl
@[simp] theorem enterRecord_prog (w : Waiting) (s : State) : (enterRecord w s).prog = s.prog := by
  unfold enterRecord
  try simp only []
  all_goals repeat' split
  all_goals first | simp_all | rfl
@[simp] theorem freeArea_prog (s : State) : (freeArea s).prog = s.prog := by
  unfold freeArea
  try simp only []
  all_goals repeat' split
  all_goals first | simp_all | rfl
@[simp] theorem releasePackets_prog (s : State) : (releasePackets s).prog = s.prog := by
  unfold releasePackets
  try simp only []
  all_goals repeat' split
  all_goals first | simp_all | rfl
@[simp] theorem mRecord_prog (kind sq : Nat) (tag : BitVec 6) (body : List Word) (s : State) :
    (mRecord kind sq tag body s).prog = s.prog := by
  unfold mRecord
  try simp only []
  all_goals repeat' split
  all_goals first | simp_all | rfl
@[simp] theorem hubRecordOf_prog (kind sq : Nat) (body : List Word) (s : State) :
    (hubRecordOf kind sq body s).prog = s.prog := by
  unfold hubRecordOf
  try simp only []
  all_goals repeat' split
  all_goals first | simp_all | rfl
@[simp] theorem hubRecord_prog (kind : Nat) (body : List Word) (s : State) : (hubRecord kind body s).prog = s.prog := by
  unfold hubRecord
  try simp only []
  all_goals repeat' split
  all_goals first | simp_all | rfl
@[simp] theorem faultReport_prog (level cls block index : Nat) (detail : Word) (s : State) :
    (faultReport level cls block index detail s).prog = s.prog := by
  unfold faultReport
  try simp only []
  all_goals repeat' split
  all_goals first | simp_all | rfl
@[simp] theorem foundBad_prog (cls a : Nat) (s : State) : (foundBad cls a s).prog = s.prog := by
  unfold foundBad
  try simp only []
  all_goals repeat' split
  all_goals first | simp_all | rfl
@[simp] theorem eventReport_prog (ev index detail : Nat) (s : State) : (eventReport ev index detail s).prog = s.prog := by
  unfold eventReport
  try simp only []
  all_goals repeat' split
  all_goals first | simp_all | rfl
@[simp] theorem refusalRecord_prog (sq op : Nat) (r : Reason) (test grp : Nat) (id : BitVec 16) (s : State) :
    (refusalRecord sq op r test grp id s).prog = s.prog := by
  unfold refusalRecord
  try simp only []
  all_goals repeat' split
  all_goals first | simp_all | rfl

/-! ### Machine/Budget.lean -/

@[simp] theorem refillBucket_prog (s : State) : (refillBucket s).prog = s.prog := by
  unfold refillBucket
  try simp only []
  all_goals repeat' split
  all_goals first | simp_all | rfl
@[simp] theorem deduct_prog (eu : Nat) (s : State) : (deduct eu s).prog = s.prog := by
  unfold deduct
  try simp only []
  all_goals repeat' split
  all_goals first | simp_all | rfl
@[simp] theorem chargeExempt_prog (eu : Nat) (s : State) : (chargeExempt eu s).prog = s.prog := by
  unfold chargeExempt
  try simp only []
  all_goals repeat' split
  all_goals first | simp_all | rfl
@[simp] theorem raiseHw_prog (w : HwWork) (cost : Nat) (s : State) : (raiseHw w cost s).prog = s.prog := by
  unfold raiseHw
  try simp only []
  all_goals repeat' split
  all_goals first | simp_all | rfl
@[simp] theorem spendClass_prog (i cost : Nat) (s : State) : (spendClass i cost s).prog = s.prog := by
  unfold spendClass
  try simp only []
  all_goals repeat' split
  all_goals first | simp_all | rfl
@[simp] theorem enterWait_prog (i cost : Nat) (barred : Bool) (s : State) : (enterWait i cost barred s).prog = s.prog := by
  unfold enterWait
  try simp only []
  all_goals repeat' split
  all_goals first | simp_all | rfl

/-! ### Machine/Tdc.lean -/

@[simp] theorem modAcc_prog (c : Nat) (orb : Word) (f : SAcc → SAcc) (s : State) : (modAcc c orb f s).prog = s.prog := by
  unfold modAcc
  try simp only []
  all_goals repeat' split
  all_goals first | simp_all | rfl
@[simp] theorem timeEdge_prog (c : Nat) (lead : Bool) (raw e : BitVec 7) (s : State) :
    (timeEdge c lead raw e s).2.prog = s.prog := by
  unfold timeEdge
  try simp only []
  all_goals repeat' split
  all_goals first | simp_all | rfl
@[simp] theorem State.setFto_prog (q : Nat) (x : Fto) (s : State) : (State.setFto q x s).prog = s.prog := by
  unfold State.setFto
  try simp only []
  all_goals repeat' split
  all_goals first | simp_all | rfl
@[simp] theorem ftoFell_prog (q : Nat) (s : State) : (ftoFell q s).prog = s.prog := by
  unfold ftoFell
  try simp only []
  all_goals repeat' split
  all_goals first | simp_all | rfl
@[simp] theorem ftoRise_prog (q at_ : Nat) (s : State) : (ftoRise q at_ s).prog = s.prog := by
  unfold ftoRise
  try simp only []
  all_goals repeat' split
  all_goals first | simp_all | rfl
@[simp] theorem withOr_prog (q at_ : Nat) (f : State → State) (s : State) (hf : ∀ t, (f t).prog = t.prog) :
    (withOr q at_ f s).prog = s.prog := by
  unfold withOr
  try simp only []
  all_goals repeat' split
  all_goals first | simp_all | rfl
@[simp] theorem countMerge_prog (c : Nat) (n : Hit) (live : Bool) (s : State) : (countMerge c n live s).prog = s.prog := by
  unfold countMerge
  try simp only []
  all_goals repeat' split
  all_goals first | simp_all | rfl
@[simp] theorem completeHit_prog (c : Nat) (e : HitEnd) (h : OpenHit) (s : State) : (completeHit c e h s).prog = s.prog := by
  unfold completeHit
  try simp only []
  all_goals repeat' split
  all_goals first | simp_all | rfl
@[simp] theorem markAged_prog (c : Nat) (s : State) : (markAged c s).prog = s.prog := by
  unfold markAged
  try simp only []
  all_goals repeat' split
  all_goals first | simp_all | rfl
@[simp] theorem timeOutHit_prog (c : Nat) (h : OpenHit) (s : State) : (timeOutHit c h s).prog = s.prog := by
  unfold timeOutHit
  try simp only []
  all_goals repeat' split
  all_goals first | simp_all | rfl
@[simp] theorem openHitAt_prog (c fine end_ : Nat) (near : Bool) (s : State) :
    (openHitAt c fine end_ near s).prog = s.prog := by
  unfold openHitAt
  try simp only []
  all_goals repeat' split
  all_goals first | simp_all | rfl
@[simp] theorem leadingEdge_prog (c fine end_ : Nat) (near : Bool) (s : State) :
    (leadingEdge c fine end_ near s).prog = s.prog := by
  unfold leadingEdge
  try simp only []
  all_goals repeat' split
  all_goals first | simp_all | rfl
@[simp] theorem closeHitAt_prog (c fine end_ : Nat) (s : State) : (closeHitAt c fine end_ s).prog = s.prog := by
  unfold closeHitAt
  try simp only []
  all_goals repeat' split
  all_goals first | simp_all | rfl
@[simp] theorem trailingEdge_prog (c fine end_ : Nat) (s : State) : (trailingEdge c fine end_ s).prog = s.prog := by
  unfold trailingEdge
  try simp only []
  all_goals repeat' split
  all_goals first | simp_all | rfl
@[simp] theorem goInactive_prog (start : Bool) (c : Nat) (s : State) : (goInactive start c s).prog = s.prog := by
  unfold goInactive
  try simp only []
  all_goals repeat' split
  all_goals first | simp_all | rfl
@[simp] theorem settleDiscs_prog (start : Bool) (s : State) : (settleDiscs start s).prog = s.prog := by
  unfold settleDiscs
  try simp only []
  all_goals repeat' split
  all_goals first | simp_all | rfl
@[simp] theorem quarantine_prog (c cause : Nat) (s : State) : (quarantine c cause s).prog = s.prog := by
  unfold quarantine
  try simp only []
  all_goals repeat' split
  all_goals first | simp_all | rfl
@[simp] theorem returned_prog (n : Nat) (s : State) : (returned n s).prog = s.prog := by
  unfold returned
  try simp only []
  all_goals repeat' split
  all_goals first | simp_all | rfl
@[simp] theorem refreshed_prog (n k : Nat) (s : State) : (refreshed n k s).prog = s.prog := by
  unfold refreshed
  try simp only []
  all_goals repeat' split
  all_goals first | simp_all | rfl
@[simp] theorem endQuarantine_prog (c : Nat) (s : State) : (endQuarantine c s).prog = s.prog := by
  unfold endQuarantine
  try simp only []
  all_goals repeat' split
  all_goals first | simp_all | rfl

/-! ### Machine/Power.lean -/

@[simp] theorem State.setLane_prog (p : Nat) (l : LaneSt) (s : State) : (State.setLane p l s).prog = s.prog := by
  unfold State.setLane
  try simp only []
  all_goals repeat' split
  all_goals first | simp_all | rfl
@[simp] theorem saveEq_prog (p : Nat) (s : State) : (saveEq p s).prog = s.prog := by
  unfold saveEq
  try simp only []
  all_goals repeat' split
  all_goals first | simp_all | rfl
@[simp] theorem restartEq_prog (p : Nat) (s : State) : (restartEq p s).prog = s.prog := by
  unfold restartEq
  try simp only []
  all_goals repeat' split
  all_goals first | simp_all | rfl
@[simp] theorem setQuadConv_prog (q : Nat) (r : Option QuadRun) (s : State) : (setQuadConv q r s).prog = s.prog := by
  unfold setQuadConv
  try simp only []
  all_goals repeat' split
  all_goals first | simp_all | rfl
@[simp] theorem chainStop_prog (bp c : Nat) (s : State) : (chainStop bp c s).prog = s.prog := by
  unfold chainStop
  try simp only []
  all_goals repeat' split
  all_goals first | simp_all | rfl
@[simp] theorem tdcReturn_prog (g : Nat) (s : State) : (tdcReturn g s).prog = s.prog := by
  unfold tdcReturn
  try simp only []
  all_goals repeat' split
  all_goals first | simp_all | rfl
@[simp] theorem tdcLeave_prog (q : Nat) (s : State) : (tdcLeave q s).prog = s.prog := by
  unfold tdcLeave
  try simp only []
  all_goals repeat' split
  all_goals first | simp_all | rfl
@[simp] theorem monReturn_prog (s : State) : (monReturn s).prog = s.prog := by
  unfold monReturn
  try simp only []
  all_goals repeat' split
  all_goals first | simp_all | rfl
@[simp] theorem lampsUnknown_prog (s : State) : (lampsUnknown s).prog = s.prog := by
  unfold lampsUnknown
  try simp only []
  all_goals repeat' split
  all_goals first | simp_all | rfl
@[simp] theorem fnReturned_prog (n : Nat) (s : State) : (fnReturned n s).prog = s.prog := by
  unfold fnReturned
  try simp only []
  all_goals repeat' split
  all_goals first | simp_all | rfl
@[simp] theorem darken_prog (p : Nat) (s : State) : (darken p s).prog = s.prog := by
  unfold darken
  try simp only []
  all_goals repeat' split
  all_goals first | simp_all | rfl
@[simp] theorem takeState_prog (n : Nat) (t : PState) (s : State) : (takeState n t s).prog = s.prog := by
  unfold takeState
  try simp only []
  all_goals repeat' split
  all_goals first | simp_all | rfl
@[simp] theorem restLanes_prog (n : Nat) (s : State) : (restLanes n s).prog = s.prog := by
  unfold restLanes
  try simp only []
  all_goals repeat' split
  all_goals first | simp_all | rfl
@[simp] theorem startExit_prog (n : Nat) (t : PState) (s : State) : (startExit n t s).prog = s.prog := by
  unfold startExit
  try simp only []
  all_goals repeat' split
  all_goals first | simp_all | rfl
@[simp] theorem wakeFn_prog (n : Nat) (s : State) : (wakeFn n s).prog = s.prog := by
  unfold wakeFn
  try simp only []
  all_goals repeat' split
  all_goals first | simp_all | rfl
@[simp] theorem moveTo_prog (n : Nat) (t : PState) (s : State) : (moveTo n t s).prog = s.prog := by
  unfold moveTo
  try simp only []
  all_goals repeat' split
  all_goals first | simp_all | rfl
@[simp] theorem leaveOff_prog (ports : Bool) (s : State) : (leaveOff ports s).prog = s.prog := by
  unfold leaveOff
  try simp only []
  all_goals repeat' split
  all_goals first | simp_all | rfl
@[simp] theorem allOff_prog (s : State) : (allOff s).prog = s.prog := by
  unfold allOff
  try simp only []
  all_goals repeat' split
  all_goals first | simp_all | rfl
@[simp] theorem cancelReport_prog (target mode : Mode) (s : State) : (cancelReport target mode s).prog = s.prog := by
  unfold cancelReport
  try simp only []
  all_goals repeat' split
  all_goals first | simp_all | rfl
@[simp] theorem cancelPending_prog (s : State) : (cancelPending s).prog = s.prog := by
  unfold cancelPending
  try simp only []
  all_goals repeat' split
  all_goals first | simp_all | rfl
@[simp] theorem chainsStop_prog (s : State) : (chainsStop s).prog = s.prog := by
  unfold chainsStop
  try simp only []
  all_goals repeat' split
  all_goals first | simp_all | rfl
@[simp] theorem wakeLoops_prog (s : State) : (wakeLoops s).prog = s.prog := by
  unfold wakeLoops
  try simp only []
  all_goals repeat' split
  all_goals first | simp_all | rfl
@[simp] theorem enterMode_prog (m : Mode) (s : State) : (enterMode m s).prog = s.prog := by
  unfold enterMode
  try simp only []
  all_goals repeat' split
  all_goals first | simp_all | rfl
@[simp] theorem noteIdle_prog (s : State) : (noteIdle s).prog = s.prog := by
  unfold noteIdle
  try simp only []
  all_goals repeat' split
  all_goals first | simp_all | rfl

/-! ### Machine/Lines.lean -/

@[simp] theorem putLine_prog (p : Nat) (l : Line) (s : State) : (putLine p l s).prog = s.prog := by
  unfold putLine
  try simp only []
  all_goals repeat' split
  all_goals first | simp_all | rfl
@[simp] theorem sendFrame_prog (p f content : Nat) (s : State) : (sendFrame p f content s).prog = s.prog := by
  unfold sendFrame
  try simp only []
  all_goals repeat' split
  all_goals first | simp_all | rfl
@[simp] theorem sendLanes_prog (g : Nat) (lead : List Bool) (f : Nat → Nat → List Ch) (s : State) :
    (sendLanes g lead f s).prog = s.prog := by
  unfold sendLanes
  refine (State.drew_prog ..).trans (overList_prog _ _ _ fun c t => ?_)
  simp only []
  repeat' split
  all_goals first | rfl | simp
@[simp] theorem sendBond_prog (g : Nat) (l : List Ch) (s : State) : (sendBond g l s).prog = s.prog := by
  unfold sendBond
  try simp only []
  all_goals repeat' split
  all_goals first | simp_all | rfl
@[simp] theorem sendWords_prog (p : Nat) (lead : List Bool) (l : List LaneWord) (s : State) :
    (sendWords p lead l s).prog = s.prog := by
  unfold sendWords
  try simp only []
  all_goals repeat' split
  all_goals first | simp_all | rfl
@[simp] theorem noteMarker_prog (p : Nat) (s : State) : (noteMarker p s).prog = s.prog := by
  unfold noteMarker
  try simp only []
  all_goals repeat' split
  all_goals first | simp_all | rfl
@[simp] theorem sendMarkers_prog (g : Nat) (ends : Bool) (s : State) : (sendMarkers g ends s).prog = s.prog := by
  unfold sendMarkers
  refine overList_prog _ _ _ fun c t => ?_
  repeat' split
  all_goals simp
@[simp] theorem sendAbort_prog (p : Nat) (s : State) : (sendAbort p s).prog = s.prog := by
  unfold sendAbort
  try simp only []
  all_goals repeat' split
  all_goals first | simp_all | rfl
@[simp] theorem sendIdle_prog (g : Nat) (lead : List Bool) (n m : Nat) (s : State) :
    (sendIdle g lead n m s).prog = s.prog := by
  unfold sendIdle
  try simp only []
  all_goals repeat' split
  all_goals first | simp_all | rfl
@[simp] theorem startLines_prog (n : Nat) (sleeping : Bool) (s : State) : (startLines n sleeping s).prog = s.prog := by
  unfold startLines
  try simp only []
  all_goals repeat' split
  all_goals first | simp_all | rfl
@[simp] theorem startPorts_prog (s : State) : (startPorts s).prog = s.prog := by
  unfold startPorts
  try simp only []
  all_goals repeat' split
  all_goals first | simp_all | rfl
@[simp] theorem sendPattern_prog (p : Nat) (s : State) : (sendPattern p s).prog = s.prog := by
  unfold sendPattern
  try simp only []
  all_goals repeat' split
  all_goals first | simp_all | rfl
@[simp] theorem checkPattern_prog (p : Nat) (s : State) : (checkPattern p s).prog = s.prog := by
  unfold checkPattern
  try simp only []
  all_goals repeat' split
  all_goals first | simp_all | rfl
@[simp] theorem testPatterns_prog (s : State) : (testPatterns s).prog = s.prog := by
  unfold testPatterns
  try simp only []
  all_goals repeat' split
  all_goals first | simp_all | rfl

/-! ### Machine/Sides.lean -/

@[simp] theorem respond_prog (side : Side) (r : Resp) (s : State) : (respond side r s).prog = s.prog := by
  unfold respond
  try simp only []
  all_goals repeat' split
  all_goals first | simp_all | rfl
@[simp] theorem mirror_prog (side : Side) (r : Resp) (s : State) : (mirror side r s).prog = s.prog := by
  unfold mirror
  try simp only []
  all_goals repeat' split
  all_goals first | simp_all | rfl
@[simp] theorem windowPut_prog (e : WinEntry) (s : State) : (windowPut e s).prog = s.prog := by
  unfold windowPut
  try simp only []
  all_goals repeat' split
  all_goals first | simp_all | rfl
@[simp] theorem ackHost_prog (side : Side) (id : BitVec 16) (gd : Word) (s : State) :
    (ackHost side id gd s).prog = s.prog := by
  unfold ackHost
  try simp only []
  all_goals repeat' split
  all_goals first | simp_all | rfl
@[simp] theorem refuseHost_prog (side : Side) (id : BitVec 16) (op : Nat) (r : Reason) (test grp : Nat) (s : State) :
    (refuseHost side id op r test grp s).prog = s.prog := by
  unfold refuseHost
  try simp only []
  all_goals repeat' split
  all_goals first | simp_all | rfl
@[simp] theorem setLive_prog (side : Side) (n : Nat) (s : State) : (setLive side n s).prog = s.prog := by
  unfold setLive
  try simp only []
  all_goals repeat' split
  all_goals first | simp_all | rfl
@[simp] theorem setRet_prog (side : Side) (r : Option Ret) (s : State) : (setRet side r s).prog = s.prog := by
  unfold setRet
  try simp only []
  all_goals repeat' split
  all_goals first | simp_all | rfl
@[simp] theorem flagHeld_prog (s : State) : (flagHeld s).prog = s.prog := by
  unfold flagHeld
  try simp only []
  all_goals repeat' split
  all_goals first | simp_all | rfl
@[simp] theorem enterHoldover_prog (s : State) : (enterHoldover s).prog = s.prog := by
  unfold enterHoldover
  try simp only []
  all_goals repeat' split
  all_goals first | simp_all | rfl
@[simp] theorem setStep_prog (n : Nat) (s : State) : (setStep n s).prog = s.prog := by
  unfold setStep
  try simp only []
  all_goals repeat' split
  all_goals first | simp_all | rfl
@[simp] theorem backToSearch_prog (s : State) : (backToSearch s).prog = s.prog := by
  unfold backToSearch
  try simp only []
  all_goals repeat' split
  all_goals first | simp_all | rfl
@[simp] theorem steer_prog (s : State) : (steer s).prog = s.prog := by
  unfold steer
  try simp only []
  all_goals repeat' split
  all_goals first | simp_all | rfl
@[simp] theorem loneReturn_prog (side : Side) (s : State) : (loneReturn side s).prog = s.prog := by
  unfold loneReturn
  try simp only []
  all_goals repeat' split
  all_goals first | simp_all | rfl
@[simp] theorem afterClaims_prog (before s : State) : (afterClaims before s).prog = s.prog := by
  unfold afterClaims
  try simp only []
  all_goals repeat' split
  all_goals first | simp_all | rfl
@[simp] theorem settled_prog (f : State → State) (s : State) (hf : ∀ t, (f t).prog = t.prog) :
    (settled f s).prog = s.prog := by
  unfold settled
  try simp only []
  all_goals repeat' split
  all_goals first | simp_all | rfl
@[simp] theorem loneTurn_prog (s : State) : (loneTurn s).prog = s.prog := by
  unfold loneTurn
  try simp only []
  all_goals repeat' split
  all_goals first | simp_all | rfl
@[simp] theorem queueSnapshot_prog (side : Side) (ret : Bool) (s : State) : (queueSnapshot side ret s).prog = s.prog := by
  unfold queueSnapshot
  try simp only []
  all_goals repeat' split
  all_goals first | simp_all | rfl
@[simp] theorem judgeHealth_prog (side : Side) (s : State) : (judgeHealth side s).prog = s.prog := by
  unfold judgeHealth
  try simp only []
  all_goals repeat' split
  all_goals first | simp_all | rfl
@[simp] theorem recomputeClaims_prog (s : State) : (recomputeClaims s).prog = s.prog := by
  unfold recomputeClaims
  try simp only []
  all_goals repeat' split
  all_goals first | simp_all | rfl

/-! ### Machine/Clock.lean -/

@[simp] theorem measurePhase_prog (s : State) : (measurePhase s).prog = s.prog := by
  unfold measurePhase
  try simp only []
  all_goals repeat' split
  all_goals first | simp_all | rfl
@[simp] theorem loseLock_prog (side : Side) (s : State) : (loseLock side s).prog = s.prog := by
  unfold loseLock
  try simp only []
  all_goals repeat' split
  all_goals first | simp_all | rfl
@[simp] theorem takeRef_prog (side : Side) (slew : Bool) (s : State) : (takeRef side slew s).prog = s.prog := by
  unfold takeRef
  try simp only []
  all_goals repeat' split
  all_goals first | simp_all | rfl
@[simp] theorem abandonCals_prog (s : State) : (abandonCals s).prog = s.prog := by
  unfold abandonCals
  try simp only []
  all_goals repeat' split
  all_goals first | simp_all | rfl
@[simp] theorem dropPulses_prog (s : State) : (dropPulses s).prog = s.prog := by
  unfold dropPulses
  try simp only []
  all_goals repeat' split
  all_goals first | simp_all | rfl
@[simp] theorem safeEpisode_prog (s : State) : (safeEpisode s).prog = s.prog := by
  unfold safeEpisode
  try simp only []
  all_goals repeat' split
  all_goals first | simp_all | rfl
@[simp] theorem enterSafe_prog (s : State) : (enterSafe s).prog = s.prog := by
  unfold enterSafe
  extract_lets s1 s2 s3 _ c _ r s4 s5
  have h2 : s2.prog = s.prog := by
    show (safeEpisode (abandonCals (dropPulses (chainsStop (cancelPending s))))).prog = _
    rw [safeEpisode_prog, abandonCals_prog, dropPulses_prog, chainsStop_prog, cancelPending_prog]
  clear_value s2
  have h4 : s4.prog = s.prog := by
    show (raiseFlag 0x302 4 (setStep 6 { s3 with clk := c, rst := r })).prog = _
    rw [raiseFlag_prog, setStep_prog]
    exact h2
  clear_value s4
  show (recomputeClaims (allOff s4)).prog = _
  rw [recomputeClaims_prog, allOff_prog, h4]
@[simp] theorem goUnsynced_prog (s : State) : (goUnsynced s).prog = s.prog := by
  unfold goUnsynced
  try simp only []
  all_goals repeat' split
  all_goals first | simp_all | rfl
@[simp] theorem releaseOrbit_prog (chip : Bool) (s : State) : (releaseOrbit chip s).prog = s.prog := by
  unfold releaseOrbit
  try simp only []
  all_goals repeat' split
  all_goals first | simp_all | rfl
@[simp] theorem dropTemps_prog (s : State) : (dropTemps s).prog = s.prog := by
  unfold dropTemps
  try simp only []
  all_goals repeat' split
  all_goals first | simp_all | rfl
@[simp] theorem takeReturn_prog (side : Side) (s : State) : (takeReturn side s).prog = s.prog := by
  unfold takeReturn
  try simp only []
  all_goals repeat' split
  all_goals first | simp_all | rfl

/-! ### Machine/Reset.lean -/

@[simp] theorem cutFuses_prog (s : State) : (cutFuses s).prog = s.prog := by
  unfold cutFuses
  refine foldl_prog _ _ _ fun t e => ?_
  split <;> rfl
@[simp] theorem clearBoard_prog (s : State) : (clearBoard s).prog = s.prog := by
  unfold clearBoard
  try simp only []
  all_goals repeat' split
  all_goals first | simp_all | rfl
@[simp] theorem clearBuffer_prog (s : State) : (clearBuffer s).prog = s.prog := by
  unfold clearBuffer
  try simp only []
  all_goals repeat' split
  all_goals first | simp_all | rfl
@[simp] theorem clearUnits_prog (s : State) : (clearUnits s).prog = s.prog := by
  unfold clearUnits
  try simp only []
  all_goals repeat' split
  all_goals first | simp_all | rfl
@[simp] theorem restartEqs_prog (s : State) : (restartEqs s).prog = s.prog := by
  unfold restartEqs
  try simp only []
  all_goals repeat' split
  all_goals first | simp_all | rfl
@[simp] theorem coreReset_prog (s : State) : (coreReset s).prog = s.prog := by
  unfold coreReset
  try simp only []
  all_goals repeat' split
  all_goals first | simp_all | rfl
@[simp] theorem chipReset_prog (s : State) : (chipReset s).prog = [] := rfl
@[simp] theorem releaseLines_prog (s : State) : (releaseLines s).prog = s.prog := by
  unfold releaseLines
  try simp only []
  all_goals repeat' split
  all_goals first | simp_all | rfl
@[simp] theorem controlReset_prog (s : State) : (controlReset s).prog = s.prog := by
  unfold controlReset
  try simp only []
  all_goals repeat' split
  all_goals first | simp_all | rfl
@[simp] theorem writeCause_prog (fresh : Bool) (c : Causes) (r : Reach) (s : State) :
    (writeCause fresh c r s).prog = s.prog := by
  unfold writeCause
  try simp only []
  all_goals repeat' split
  all_goals first | simp_all | rfl
@[simp] theorem beginEpisode_prog (s : State) : (beginEpisode s).prog = s.prog := by
  unfold beginEpisode
  try simp only []
  all_goals repeat' split
  all_goals first | simp_all | rfl
@[simp] theorem cancelOf_prog (before s : State) : (cancelOf before s).prog = s.prog := by
  unfold cancelOf
  try simp only []
  all_goals repeat' split
  all_goals first | simp_all | rfl
@[simp] theorem beginSearch_prog (s : State) : (beginSearch s).prog = s.prog := by
  unfold beginSearch
  try simp only []
  all_goals repeat' split
  all_goals first | simp_all | rfl
@[simp] theorem startSequence_prog (s : State) : (startSequence s).prog = s.prog := by
  unfold startSequence
  try simp only []
  all_goals repeat' split
  all_goals first | simp_all | rfl
@[simp] theorem calReport_prog (abandoned monitor : Bool) (s : State) : (calReport abandoned monitor s).prog = s.prog := by
  unfold calReport
  try simp only []
  all_goals repeat' split
  all_goals first | simp_all | rfl
@[simp] theorem warmReports_prog (s : State) : (warmReports s).prog = s.prog := by
  unfold warmReports
  try simp only []
  all_goals repeat' split
  all_goals first | simp_all | rfl
@[simp] theorem finishWarm_prog (s : State) : (finishWarm s).prog = s.prog := by
  unfold finishWarm
  try simp only []
  all_goals repeat' split
  all_goals first | simp_all | rfl
@[simp] theorem warmTurn_prog (s : State) : (warmTurn s).prog = s.prog := by
  unfold warmTurn
  try simp only []
  all_goals repeat' split
  all_goals first | simp_all | rfl

/-! ### Machine/Link.lean -/

@[simp] theorem dropMessage_prog (p : Nat) (s : State) : (dropMessage p s).prog = s.prog := by
  unfold dropMessage
  try simp only []
  all_goals repeat' split
  all_goals first | simp_all | rfl
@[simp] theorem dropPart_prog (side : Side) (s : State) : (dropPart side s).prog = s.prog := by
  unfold dropPart
  try simp only []
  all_goals repeat' split
  all_goals first | simp_all | rfl
@[simp] theorem completeCommand_prog (side : Side) (id : BitVec 16) (w : Word) (s : State) :
    (completeCommand side id w s).prog = s.prog := by
  unfold completeCommand
  try simp only []
  all_goals repeat' split
  all_goals first | simp_all | rfl
@[simp] theorem commandPart_prog (side : Side) (payload : BitVec 44) (s : State) :
    (commandPart side payload s).prog = s.prog := by
  unfold commandPart
  try simp only []
  all_goals repeat' split
  all_goals first | simp_all | rfl
@[simp] theorem chunkIn_prog (p : Nat) (first last : Bool) (bytes : List Byte) (s : State) :
    (chunkIn p first last bytes s).prog = s.prog := by
  unfold chunkIn
  try simp only []
  all_goals repeat' split
  all_goals first | simp_all | rfl
@[simp] theorem noteFc_prog (side : Side) (fc : BitVec 8) (s : State) : (noteFc side fc s).prog = s.prog := by
  unfold noteFc
  try simp only []
  all_goals repeat' split
  all_goals first | simp_all | rfl
@[simp] theorem noteFrame_prog (side : Side) (bad : Bool) (s : State) : (noteFrame side bad s).prog = s.prog := by
  unfold noteFrame
  try simp only []
  all_goals repeat' split
  all_goals first | simp_all | rfl
@[simp] theorem loopFrame_prog (side : Side) (ok : Bool) (hdr : BitVec 2) (fc : BitVec 8) (payload : BitVec 44) (s : State) :
    (loopFrame side ok hdr fc payload s).prog = s.prog := by
  unfold loopFrame
  try simp only []
  all_goals repeat' split
  all_goals first | simp_all | rfl
@[simp] theorem sentBytes_prog (p k : Nat) (m : TmSend) (s : State) : (sentBytes p k m s).prog = s.prog := by
  unfold sentBytes
  try simp only []
  all_goals repeat' split
  all_goals first | simp_all | rfl
@[simp] theorem snapSent_prog (side : Side) (f : SnapFrame) (s : State) : (snapSent side f s).prog = s.prog := by
  unfold snapSent
  try simp only []
  all_goals repeat' split
  all_goals first | simp_all | rfl
@[simp] theorem uplinkContent_prog (side : Side) (s : State) : (uplinkContent side s).2.prog = s.prog := by
  unfold uplinkContent
  extract_lets p status tagged timeChunk snap
  have h1 : status.2.prog = s.prog := rfl
  have h2 : ∀ n u, (tagged n u).2.prog = u.prog := fun _ _ => rfl
  have h3 : ∀ m, (timeChunk m).2.prog = s.prog := fun m => sentBytes_prog ..
  have h4 : ∀ x, snap = some x → x.2.prog = s.prog := by
    intro x hx
    simp only [snap] at hx
    split at hx
    · obtain rfl := Option.some.inj hx
      simp [h2]
    · cases hx
  clear_value snap timeChunk tagged status
  repeat' split
  all_goals first | exact h1 | exact h3 _ | (rw [h2]) | (exact h4 _ rfl) | skip
@[simp] theorem deliverMap_prog (p : Nat) (map : BitVec 16) (bcid : BitVec 8) (s : State) :
    (deliverMap p map bcid s).prog = s.prog := by
  unfold deliverMap
  try simp only []
  all_goals repeat' split
  all_goals first | simp_all | rfl
@[simp] theorem partnerContent_prog (p : Nat) (s : State) : (partnerContent p s).2.prog = s.prog := by
  unfold partnerContent
  try simp only []
  all_goals repeat' split
  all_goals first | simp_all | rfl

/-! ### Machine/Operands.lean -/

@[simp] theorem setReg_prog (i : Nat) (r : Reg) (v : Word) (s : State) : (setReg i r v s).prog = s.prog := by
  unfold setReg
  try simp only []
  all_goals repeat' split
  all_goals first | simp_all | rfl

/-! ### Machine/Flags.lean -/

@[simp] theorem setFlags_prog (i : Nat) (o : Alu) (s : State) : (setFlags i o s).prog = s.prog := by
  unfold setFlags
  try simp only []
  all_goals repeat' split
  all_goals first | simp_all | rfl

/-! ### Machine/Issue.lean -/

@[simp] theorem issued_keeps_prog (by_ : Issuer) (s : State) : (issued by_ s).prog = s.prog := by cases by_ <;> rfl
@[simp] theorem advance_prog (by_ : Issuer) (s : State) : (advance by_ s).prog = s.prog := by
  unfold advance
  try simp only []
  all_goals repeat' split
  all_goals first | simp_all | rfl
@[simp] theorem clearF_prog (by_ : Issuer) (refusable : Bool) (s : State) : (clearF by_ refusable s).prog = s.prog := by
  unfold clearF
  try simp only []
  all_goals repeat' split
  all_goals first | simp_all | rfl
@[simp] theorem acked_prog (by_ : Issuer) (gd : Word) (s : State) : (acked by_ gd s).prog = s.prog := by
  unfold acked
  try simp only []
  all_goals repeat' split
  all_goals first | simp_all | rfl
@[simp] theorem complete_prog (by_ : Issuer) (refusable : Bool) (gd : Word) (s : State) :
    (complete by_ refusable gd s).prog = s.prog := by
  unfold complete
  try simp only []
  all_goals repeat' split
  all_goals first | simp_all | rfl
@[simp] theorem refused_prog (by_ : Issuer) (op : Nat) (r : Reason) (test grp : Nat) (s : State) :
    (refused by_ op r test grp s).prog = s.prog := by
  unfold refused
  try simp only []
  all_goals repeat' split
  all_goals first | simp_all | rfl
@[simp] theorem faultSquare_prog (i cause : Nat) (s : State) : (faultSquare i cause s).prog = s.prog := by
  unfold faultSquare
  try simp only []
  all_goals repeat' split
  all_goals first | simp_all | rfl
@[simp] theorem release_prog (by_ : Issuer) (s : State) : (release by_ s).prog = s.prog := by
  unfold release
  try simp only []
  all_goals repeat' split
  all_goals first | simp_all | rfl

@[simp] theorem ite_st_prog (c : Prop) [Decidable c] (a b : Outc) :
    (if c then a else b).st.prog = if c then a.st.prog else b.st.prog := by split <;> rfl
@[simp] theorem settle_prog (by_ : Issuer) (op : Nat) (rf : Bool) (o : Outc) : (settle by_ op rf o).prog = o.st.prog := by
  cases o <;> simp only [settle, Outc.st] <;> (try cases by_) <;> simp
theorem issue_prog (by_ : Issuer) (op : Nat) (rf : Bool) (body : State → Outc) (s : State) (h : ∀ t, (body t).st.prog = t.prog) :
    (issue by_ op rf body s).prog = s.prog := by
  unfold issue; split
  · rw [settle_prog, h, issued_keeps_prog]
  · rfl
theorem issueProg_prog (by_ : Issuer) (op : Nat) (body : State → Outc) (s : State) (h : ∀ t, (body t).st.prog = t.prog) :
    (issueProg by_ op body s).prog = s.prog := by
  unfold issueProg; apply issue_prog; intro t; split
  · rfl
  · exact h t
@[simp] theorem result_st_prog (i : Nat) (gd : Reg) (v : Word) (s : State) :
    (result i gd v s).st.prog = s.prog := setReg_prog ..
@[simp] theorem refuse_st_prog (r : Reason) (s : State) : (refuse r s).st.prog = s.prog := rfl

/-! ### Machine/Flow.lean -/

@[simp] theorem leaveSquare_prog (t : Nat) (st : SqState) (d : Deferred) (s : State) :
    (leaveSquare t st d s).prog = s.prog := by
  unfold leaveSquare
  try simp only []
  all_goals repeat' split
  all_goals first | simp_all | rfl

/-! ### Machine/Slices.lean -/

@[simp] theorem edgeOf_prog (c : Nat) (lead : Bool) (raw e : BitVec 7) (s : State) :
    (edgeOf c lead raw e s).2.prog = s.prog := by
  unfold edgeOf
  try simp only []
  all_goals repeat' split
  all_goals first | simp_all | rfl
@[simp] theorem firePulser_prog (c : Nat) (s : State) : (firePulser c s).prog = s.prog := by
  unfold firePulser
  try simp only []
  all_goals repeat' split
  all_goals first | simp_all | rfl
@[simp] theorem modLine_prog (n : Nat) (f : TbLine → TbLine) (s : State) : (modLine n f s).prog = s.prog := by
  unfold modLine
  try simp only []
  all_goals repeat' split
  all_goals first | simp_all | rfl
@[simp] theorem lineEdge_prog (n : Nat) (rising : Bool) (at_ : Nat) (s : State) :
    (lineEdge n rising at_ s).prog = s.prog := by
  unfold lineEdge
  try simp only []
  all_goals repeat' split
  all_goals first | simp_all | rfl
@[simp] theorem captureEdge_prog (n : Nat) (rising : Bool) (raw e : BitVec 7) (s : State) :
    (captureEdge n rising raw e s).prog = s.prog := by
  unfold captureEdge
  try simp only []
  all_goals repeat' split
  all_goals first | simp_all | rfl

/-! ### Machine/Filter.lean -/

@[simp] theorem chainOutput_prog (c back idx : Nat) (t : FltSet) (v : ChainVal) (s : State) :
    (chainOutput c back idx t v s).prog = s.prog := by
  unfold chainOutput
  try simp only []
  all_goals repeat' split
  all_goals first | simp_all | rfl
@[simp] theorem chainStep_prog (c : Nat) (n : Samp) (s : State) : (chainStep c n s).prog = s.prog := by
  unfold chainStep
  try simp only []
  all_goals repeat' split
  all_goals first | simp_all | rfl

/-! ### Machine/Adc.lean -/

@[simp] theorem accumulate_prog (c : Nat) (xA xB : Int) (s : State) : (accumulate c xA xB s).prog = s.prog := by
  unfold accumulate
  try simp only []
  all_goals repeat' split
  all_goals first | simp_all | rfl
@[simp] theorem trackMinMax_prog (c : Nat) (orb : Word) (xA xB : Int) (s : State) :
    (trackMinMax c orb xA xB s).prog = s.prog := by
  unfold trackMinMax
  try simp only []
  all_goals repeat' split
  all_goals first | simp_all | rfl
@[simp] theorem captureSample_prog (c : Nat) (v : Samp) (s : State) : (captureSample c v s).prog = s.prog := by
  unfold captureSample
  try simp only []
  all_goals repeat' split
  all_goals first | simp_all | rfl
@[simp] theorem deliver_prog (c : Nat) (v : Samp) (s : State) : (deliver c v s).prog = s.prog := by
  unfold deliver
  try simp only []
  all_goals repeat' split
  all_goals first | simp_all | rfl

/-! ### Machine/Marks.lean -/

@[simp] theorem chargeCredit_prog (w : Bool) (cost : Nat) (s : State) : (chargeCredit w cost s).prog = s.prog := by
  unfold chargeCredit
  try simp only []
  all_goals repeat' split
  all_goals first | simp_all | rfl
@[simp] theorem refillCredits_prog (n : Nat) (s : State) : (refillCredits n s).prog = s.prog := by
  unfold refillCredits
  try simp only []
  all_goals repeat' split
  all_goals first | simp_all | rfl
@[simp] theorem startCredits_prog (s : State) : (startCredits s).prog = s.prog := by
  unfold startCredits
  try simp only []
  all_goals repeat' split
  all_goals first | simp_all | rfl
@[simp] theorem thinWindow_prog (orb : Word) (l : List Nat) (s : State) : (thinWindow orb l s).prog = s.prog := by
  unfold thinWindow
  try simp only []
  all_goals repeat' split
  all_goals first | simp_all | rfl

theorem decideWindow_prog {w : Window} {cost : Nat → Nat} {s t : State} (h : decideWindow w cost s = some t) :
    t.prog = s.prog := by
  unfold decideWindow at h
  extract_lets n at h
  split at h
  · cases h
  · cases h; simp

@[simp] theorem freshWindow_prog (t : Tag) (mseq : Nat) (s : State) : (freshWindow t mseq s).1.prog = s.prog := by
  unfold freshWindow
  extract_lets p first first2 w cost
  split
  · next h => have e := decideWindow_prog h; exact e
  · exact thinWindow_prog ..

@[simp] theorem openWindow_prog (t : Tag) (mseq : Nat) (s : State) : (openWindow t mseq s).1.prog = s.prog := by
  unfold openWindow
  simp only []
  repeat' split
  all_goals first
    | rfl
    | exact freshWindow_prog ..
    | exact thinWindow_prog ..
    | (rename_i h; have e := decideWindow_prog h; exact e)
@[simp] theorem makeMark_prog (src : MarkSrc) (line ch : Nat) (tag : BitVec 16) (win : Bool) (t : Tag) (s : State) :
    (makeMark src line ch tag win t s).prog = s.prog := by
  unfold makeMark
  try simp only []
  all_goals repeat' split
  all_goals first | simp_all | rfl
@[simp] theorem fireDrivers_prog (src : Nat) (s : State) : (fireDrivers src s).prog = s.prog := by
  unfold fireDrivers
  try simp only []
  all_goals repeat' split
  all_goals first | simp_all | rfl
@[simp] theorem driveLine_prog (n : Nat) (s : State) : (driveLine n s).prog = s.prog := by
  unfold driveLine
  try simp only []
  all_goals repeat' split
  all_goals first | simp_all | rfl
@[simp] theorem captureTrigger_prog (t : Tag) (s : State) : (captureTrigger t s).prog = s.prog := by
  unfold captureTrigger
  try simp only []
  all_goals repeat' split
  all_goals first | simp_all | rfl
@[simp] theorem compensatedEdge_prog (n : Nat) (t : Tag) (s : State) : (compensatedEdge n t s).prog = s.prog := by
  unfold compensatedEdge
  try simp only []
  all_goals repeat' split
  all_goals first | simp_all | rfl

/-! ### Machine/Acquire.lean -/

@[simp] theorem demote_prog (c : Nat) (h : Hit) (w : Waiting) (amp : Int) (s : State) :
    (demote c h w amp s).prog = s.prog := by
  unfold demote
  try simp only []
  all_goals repeat' split
  all_goals first | simp_all | rfl
@[simp] theorem hitRecord_prog (c : Nat) (h : Hit) (l : List Samp) (s : State) : (hitRecord c h l s).prog = s.prog := by
  unfold hitRecord
  try simp only []
  all_goals repeat' split
  all_goals first | simp_all | rfl
@[simp] theorem endChannel_prog (i c : Nat) (s : State) : (endChannel i c s).prog = s.prog := by
  unfold endChannel
  try simp only []
  all_goals repeat' split
  all_goals first | simp_all | rfl
@[simp] theorem nextStart_prog (i c bp : Nat) (s : State) : (nextStart i c bp s).prog = s.prog := by
  unfold nextStart
  try simp only []
  all_goals repeat' split
  all_goals first | simp_all | rfl
@[simp] theorem chargeRecord_prog (i c : Nat) (r : Waiting) (s : State) : (chargeRecord i c r s).prog = s.prog := by
  unfold chargeRecord
  try simp only []
  all_goals repeat' split
  all_goals first | simp_all | rfl
@[simp] theorem closeWRecord_prog (i c : Nat) (w : Window) (s : State) : (closeWRecord i c w s).prog = s.prog := by
  unfold closeWRecord
  try simp only []
  all_goals repeat' split
  all_goals first | simp_all | rfl
@[simp] theorem closeOfOrbit_prog (k : Word) (c : Cls) (s : State) : (closeOfOrbit k c s).prog = s.prog := by
  unfold closeOfOrbit
  try simp only []
  all_goals repeat' split
  all_goals first | simp_all | rfl
@[simp] theorem sRecord_prog (l : Ledger) (hold : Bool) (c : Nat) (a : SAcc) (s : State) :
    (sRecord l hold c a s).prog = s.prog := by
  unfold sRecord
  try simp only []
  all_goals repeat' split
  all_goals first | simp_all | rfl
@[simp] theorem sRecords_prog (l : Ledger) (hold : Bool) (s : State) : (sRecords l hold s).prog = s.prog := by
  unfold sRecords
  try simp only []
  all_goals repeat' split
  all_goals first | simp_all | rfl
@[simp] theorem enterTrailer_prog (w : Waiting) (l : Ledger) (s : State) : (enterTrailer w l s).1.prog = s.prog := by
  unfold enterTrailer
  try simp only []
  all_goals repeat' split
  all_goals first | simp_all | rfl
@[simp] theorem tryWaiting_prog (w : Waiting) (s : State) : (tryWaiting w s).1.prog = s.prog := by
  unfold tryWaiting
  try simp only []
  all_goals repeat' split
  all_goals first | simp_all | rfl
@[simp] theorem grantOne_prog (w : Waiting) (s : State) : (grantOne w s).1.prog = s.prog := by
  unfold grantOne
  try simp only []
  all_goals repeat' split
  all_goals first | simp_all | rfl
@[simp] theorem grantTo_prog (w : Waiting) (s : State) : (grantTo w s).1.prog = s.prog := by
  unfold grantTo
  try simp only []
  all_goals repeat' split
  all_goals first | simp_all | rfl
@[simp] theorem grantRegion_prog (region : Nat) (s : State) : (grantRegion region s).prog = s.prog := by
  unfold grantRegion
  try simp only []
  all_goals repeat' split
  all_goals first | simp_all | rfl

@[simp] theorem drainRegion_prog (region n : Nat) (s : State) : (drainRegion region n s).prog = s.prog := by
  induction n generalizing s with
  | zero => rfl
  | succ n ih => exact (ih ..).trans (grantRegion_prog ..)

@[simp] theorem writeBack_prog (s : State) : (writeBack s).prog = s.prog := by
  unfold writeBack
  try simp only []
  all_goals repeat' split
  all_goals first | simp_all | rfl
@[simp] theorem drainWaiting_prog (s : State) : (drainWaiting s).prog = s.prog := by
  unfold drainWaiting
  exact (writeBack_prog ..).trans (overList_prog _ _ _ fun r t => drainRegion_prog ..)
@[simp] theorem allocCapture_prog (s : State) : (allocCapture s).prog = s.prog := by
  unfold allocCapture
  try simp only []
  all_goals repeat' split
  all_goals first | simp_all | rfl
@[simp] theorem disarm_prog (s : State) : (disarm s).prog = s.prog := by
  unfold disarm
  try simp only []
  all_goals repeat' split
  all_goals first | simp_all | rfl

@[simp] theorem capRecords_prog (c : Nat) (part : Bool) (n : Nat) (cont : Bool) (l : List Samp) (s : State) :
    (capRecords c part n cont l s).prog = s.prog := by
  induction n generalizing cont l s with
  | zero => rfl
  | succ n ih =>
    cases l with
    | nil => rfl
    | cons a r => exact (ih ..).trans (enterRecord_prog ..)

@[simp] theorem sendCapture_prog (s : State) : (sendCapture s).prog = s.prog := by
  unfold sendCapture
  try simp only []
  all_goals repeat' split
  all_goals first | simp_all | rfl

/-! ### Machine/Led.lean -/

@[simp] theorem modLed_prog (f : Led → Led) (s : State) : (modLed f s).prog = s.prog := by
  unfold modLed
  try simp only []
  all_goals repeat' split
  all_goals first | simp_all | rfl
@[simp] theorem nextRow_prog (s : State) : (nextRow s).prog = s.prog := by
  unfold nextRow
  try simp only []
  all_goals repeat' split
  all_goals first | simp_all | rfl
@[simp] theorem ledServiceEnd_prog (s : State) : (ledServiceEnd s).prog = s.prog := by
  unfold ledServiceEnd
  try simp only []
  all_goals repeat' split
  all_goals first | simp_all | rfl
@[simp] theorem ledKill_prog (s : State) : (ledKill s).prog = s.prog := by
  unfold ledKill
  try simp only []
  all_goals repeat' split
  all_goals first | simp_all | rfl
@[simp] theorem suppressOff_prog (n : Nat) (s : State) : (suppressOff n s).prog = s.prog := by
  unfold suppressOff
  try simp only []
  all_goals repeat' split
  all_goals first | simp_all | rfl
@[simp] theorem firePulse_prog (d : DuePulse) (s : State) : (firePulse d s).prog = s.prog := by
  unfold firePulse
  try simp only []
  all_goals repeat' split
  all_goals first | simp_all | rfl
@[simp] theorem fireRow_prog (row : Nat) (l : List DuePulse) (s : State) : (fireRow row l s).prog = s.prog := by
  unfold fireRow
  try simp only []
  all_goals repeat' split
  all_goals first | simp_all | rfl
@[simp] theorem fireLeds_prog (s : State) : (fireLeds s).prog = s.prog := by
  unfold fireLeds
  try simp only []
  all_goals repeat' split
  all_goals first | simp_all | rfl
@[simp] theorem fireDiag_prog (s : State) : (fireDiag s).prog = s.prog := by
  unfold fireDiag
  try simp only []
  all_goals repeat' split
  all_goals first | simp_all | rfl
@[simp] theorem handTemp_prog (r : Int) (s : State) : (handTemp r s).prog = s.prog := by
  unfold handTemp
  try simp only []
  all_goals repeat' split
  all_goals first | simp_all | rfl
@[simp] theorem flushLed_prog (s : State) : (flushLed s).prog = s.prog := by
  unfold flushLed
  try simp only []
  all_goals repeat' split
  all_goals first | simp_all | rfl
@[simp] theorem pullTrains_prog (bp : Nat) (hit : Nat → Option Nat) (s : State) : (pullTrains bp hit s).prog = s.prog := by
  unfold pullTrains
  refine foldl_prog _ _ _ fun t e => ?_
  split
  · rfl
  · extract_lets r
    split <;> simp
@[simp] theorem scheduleLeds_prog (s : State) : (scheduleLeds s).prog = s.prog := by
  unfold scheduleLeds
  try simp only []
  all_goals repeat' split
  all_goals first | simp_all | rfl
@[simp] theorem skipLeds_prog (n : Nat) (s : State) : (skipLeds n s).prog = s.prog := by
  unfold skipLeds
  try simp only []
  all_goals repeat' split
  all_goals first | simp_all | rfl
@[simp] theorem ledOrbit_prog (s : State) : (ledOrbit s).prog = s.prog := by
  unfold ledOrbit
  try simp only []
  all_goals repeat' split
  all_goals first | simp_all | rfl
@[simp] theorem putTrain_prog (slot lamp : Nat) (slow : Bool) (count : Nat) (gs ga : Word) (s : State) :
    (putTrain slot lamp slow count gs ga s).prog = s.prog := by
  unfold putTrain
  try simp only []
  all_goals repeat' split
  all_goals first | simp_all | rfl

/-! ### Machine/Gaps.lean -/

@[simp] theorem modGap_prog (f : Gap → Gap) (s : State) : (modGap f s).prog = s.prog := by
  unfold modGap
  try simp only []
  all_goals repeat' split
  all_goals first | simp_all | rfl
@[simp] theorem raiseTemp_prog (s : State) : (raiseTemp s).prog = s.prog := by
  unfold raiseTemp
  try simp only []
  all_goals repeat' split
  all_goals first | simp_all | rfl
@[simp] theorem moveSlice_prog (k c : Nat) (s : State) : (moveSlice k c s).prog = s.prog := by
  unfold moveSlice
  try simp only []
  all_goals repeat' split
  all_goals first | simp_all | rfl
@[simp] theorem moveRoles_prog (k : Nat) (quads : BitVec 4) (s : State) : (moveRoles k quads s).prog = s.prog := by
  unfold moveRoles
  try simp only []
  all_goals repeat' split
  all_goals first | simp_all | rfl
@[simp] theorem tdcMoves_prog (s : State) : (tdcMoves s).prog = s.prog := by
  unfold tdcMoves
  try simp only []
  all_goals repeat' split
  all_goals first | simp_all | rfl
@[simp] theorem startTdcRun_prog (s : State) : (startTdcRun s).prog = s.prog := by
  unfold startTdcRun
  try simp only []
  all_goals repeat' split
  all_goals first | simp_all | rfl
@[simp] theorem acceptTdc_prog (r : TdcRun) (s : State) : (acceptTdc r s).prog = s.prog := by
  unfold acceptTdc
  try simp only []
  all_goals repeat' split
  all_goals first | simp_all | rfl
@[simp] theorem acceptDue_prog (s : State) : (acceptDue s).prog = s.prog := by
  unfold acceptDue
  try simp only []
  all_goals repeat' split
  all_goals first | simp_all | rfl
@[simp] theorem endTdcRun_prog (s : State) : (endTdcRun s).prog = s.prog := by
  unfold endTdcRun
  try simp only []
  all_goals repeat' split
  all_goals first | simp_all | rfl
@[simp] theorem gapEndTdc_prog (s : State) : (gapEndTdc s).prog = s.prog := by
  unfold gapEndTdc
  try simp only []
  all_goals repeat' split
  all_goals first | simp_all | rfl
@[simp] theorem laneChoose_prog (s : State) : (laneChoose s).prog = s.prog := by
  unfold laneChoose
  try simp only []
  all_goals repeat' split
  all_goals first | simp_all | rfl
@[simp] theorem alignDue_prog (s : State) : (alignDue s).prog = s.prog := by
  unfold alignDue
  try simp only []
  all_goals repeat' split
  all_goals first | simp_all | rfl
@[simp] theorem beginGap_prog (s : State) : (beginGap s).prog = s.prog := by
  unfold beginGap
  try simp only []
  all_goals repeat' split
  all_goals first | simp_all | rfl
@[simp] theorem withdrawRequests_prog (s : State) : (withdrawRequests s).prog = s.prog := by
  unfold withdrawRequests
  try simp only []
  all_goals repeat' split
  all_goals first | simp_all | rfl
@[simp] theorem cutLane_prog (s : State) : (cutLane s).prog = s.prog := by
  unfold cutLane
  try simp only []
  all_goals repeat' split
  all_goals first | simp_all | rfl
@[simp] theorem alignBack_prog (s : State) : (alignBack s).prog = s.prog := by
  unfold alignBack
  try simp only []
  all_goals repeat' split
  all_goals first | simp_all | rfl
@[simp] theorem endGap_prog (s : State) : (endGap s).prog = s.prog := by
  unfold endGap
  try simp only []
  all_goals repeat' split
  all_goals first | simp_all | rfl
@[simp] theorem gapOrbit_prog (s : State) : (gapOrbit s).prog = s.prog := by
  unfold gapOrbit
  try simp only []
  all_goals repeat' split
  all_goals first | simp_all | rfl
@[simp] theorem startWork_prog (w : HwWork) (s : State) : (startWork w s).prog = s.prog := by
  unfold startWork
  try simp only []
  all_goals repeat' split
  all_goals first | simp_all | rfl

/-! ### Machine/Monitor.lean -/

@[simp] theorem modMon_prog (f : Mon → Mon) (s : State) : (modMon f s).prog = s.prog := by
  unfold modMon
  try simp only []
  all_goals repeat' split
  all_goals first | simp_all | rfl
@[simp] theorem skipConvs_prog (e n : Nat) (s : State) : (skipConvs e n s).prog = s.prog := by
  unfold skipConvs
  try simp only []
  all_goals repeat' split
  all_goals first | simp_all | rfl
@[simp] theorem beginRun_prog (kind : MonKind) (e n : Nat) (s : State) : (beginRun kind e n s).prog = s.prog := by
  unfold beginRun
  try simp only []
  all_goals repeat' split
  all_goals first | simp_all | rfl
@[simp] theorem badEntry_prog (e : Nat) (s : State) : (badEntry e s).prog = s.prog := by
  unfold badEntry
  try simp only []
  all_goals repeat' split
  all_goals first | simp_all | rfl
@[simp] theorem nextInjected_prog (k : Nat) (s : State) : (nextInjected k s).prog = s.prog := by
  unfold nextInjected
  try simp only []
  all_goals repeat' split
  all_goals first | simp_all | rfl
@[simp] theorem nextRegular_prog (s : State) : (nextRegular s).prog = s.prog := by
  unfold nextRegular
  try simp only []
  all_goals repeat' split
  all_goals first | simp_all | rfl
@[simp] theorem startInjected_prog (k : Nat) (s : State) : (startInjected k s).prog = s.prog := by
  unfold startInjected
  try simp only []
  all_goals repeat' split
  all_goals first | simp_all | rfl
@[simp] theorem startRegular_prog (s : State) : (startRegular s).prog = s.prog := by
  unfold startRegular
  try simp only []
  all_goals repeat' split
  all_goals first | simp_all | rfl
@[simp] theorem leaveRun_prog (r : MonRun) (s : State) : (leaveRun r s).prog = s.prog := by
  unfold leaveRun
  try simp only []
  all_goals repeat' split
  all_goals first | simp_all | rfl
@[simp] theorem skipRest_prog (r : MonRun) (s : State) : (skipRest r s).prog = s.prog := by
  unfold skipRest
  try simp only []
  all_goals repeat' split
  all_goals first | simp_all | rfl
@[simp] theorem resumeRun_prog (r : MonRun) (l : List MonRun) (s : State) : (resumeRun r l s).prog = s.prog := by
  unfold resumeRun
  try simp only []
  all_goals repeat' split
  all_goals first | simp_all | rfl
@[simp] theorem wakeMonitor_prog (s : State) : (wakeMonitor s).prog = s.prog := by
  unfold wakeMonitor
  try simp only []
  all_goals repeat' split
  all_goals first | simp_all | rfl
@[simp] theorem monRun_prog (run : Bool) (s : State) : (monRun run s).prog = s.prog := by
  unfold monRun
  try simp only []
  all_goals repeat' split
  all_goals first | simp_all | rfl
@[simp] theorem monAccumulate_prog (e : Nat) (v : Int) (s : State) : (monAccumulate e v s).prog = s.prog := by
  unfold monAccumulate
  try simp only []
  all_goals repeat' split
  all_goals first | simp_all | rfl
@[simp] theorem latchIlk_prog (exc : Bool) (e : Nat) (s : State) : (latchIlk exc e s).prog = s.prog := by
  unfold latchIlk
  try simp only []
  all_goals repeat' split
  all_goals first | simp_all | rfl
@[simp] theorem monTurn_prog (s : State) : (monTurn s).prog = s.prog := by
  unfold monTurn
  try simp only []
  all_goals repeat' split
  all_goals first | simp_all | rfl
@[simp] theorem startInjectedSeq_prog (s : State) : (startInjectedSeq s).prog = s.prog := by
  unfold startInjectedSeq
  try simp only []
  all_goals repeat' split
  all_goals first | simp_all | rfl
@[simp] theorem monCompare_prog (r : MonRun) (v : Int) (s : State) : (monCompare r v s).prog = s.prog := by
  unfold monCompare
  try simp only []
  all_goals repeat' split
  all_goals first | simp_all | rfl
@[simp] theorem afterResult_prog (r : MonRun) (s : State) : (afterResult r s).prog = s.prog := by
  unfold afterResult
  try simp only []
  all_goals repeat' split
  all_goals first | simp_all | rfl
@[simp] theorem clearIlk_prog (w : Nat) (s : State) : (clearIlk w s).prog = s.prog := by
  unfold clearIlk
  try simp only []
  all_goals repeat' split
  all_goals first | simp_all | rfl

/-! ### Machine/Devices.lean -/

@[simp] theorem finishHeld_prog (i : Nat) (gd : Word) (s : State) : (finishHeld i gd s).prog = s.prog := by
  unfold finishHeld
  try simp only []
  all_goals repeat' split
  all_goals first | simp_all | rfl
@[simp] theorem startConvs_prog (s : State) : (startConvs s).prog = s.prog := by
  unfold startConvs
  refine overList_prog _ _ _ fun c t => ?_
  repeat' split
  all_goals simp
@[simp] theorem endConversions_prog (s : State) : (endConversions s).prog = s.prog := by
  unfold endConversions
  try simp only []
  all_goals repeat' split
  all_goals first | simp_all | rfl
@[simp] theorem askAdcCal_prog (s : State) : (askAdcCal s).prog = s.prog := by
  unfold askAdcCal
  try simp only []
  all_goals repeat' split
  all_goals first | simp_all | rfl
@[simp] theorem startAdcCal_prog (s : State) : (startAdcCal s).prog = s.prog := by
  unfold startAdcCal
  try simp only []
  all_goals repeat' split
  all_goals first | simp_all | rfl
@[simp] theorem newFactors_prog (c temp : Nat) (bg : Bool) (s : State) : (newFactors c temp bg s).prog = s.prog := by
  unfold newFactors
  try simp only []
  all_goals repeat' split
  all_goals first | simp_all | rfl

@[simp] theorem emitWords_prog (a n : Nat) (s : State) : (emitWords a n s).2.prog = s.prog := by
  induction n generalizing a s with
  | zero => rfl
  | succ n ih =>
    unfold emitWords
    simp only []
    rw [ih]
    split <;> simp

theorem emitNow_prog (i : Nat) (tag : BitVec 6) (words : List Word) (s : State) (t : State) (h : (emitNow i tag words s) = some t) :
    t.prog = s.prog := by
  unfold emitNow at h
  try simp only [] at h
  all_goals repeat' split at h
  all_goals cases h
  all_goals first | simp | rfl
@[simp] theorem wakeHeld_prog (s : State) : (wakeHeld s).prog = s.prog := by
  unfold wakeHeld
  try simp only []
  all_goals repeat' split
  all_goals first | simp_all | rfl
@[simp] theorem disarmIfArmed_prog (s : State) : (disarmIfArmed s).prog = s.prog := by
  unfold disarmIfArmed
  try simp only []
  all_goals repeat' split
  all_goals first | simp_all | rfl
theorem powerIdle_prog (s : State) (t : State) (h : (powerIdle s) = some t) : t.prog = s.prog := by
  unfold powerIdle at h
  try simp only [] at h
  all_goals repeat' split at h
  all_goals cases h
  all_goals first | simp | rfl
@[simp] theorem wakeQuads_prog (s : State) : (wakeQuads s).prog = s.prog := by
  unfold wakeQuads
  try simp only []
  all_goals repeat' split
  all_goals first | simp_all | rfl
theorem powerTo_prog (m : Mode) (s : State) (t : State) (h : (powerTo m s) = some t) : t.prog = s.prog := by
  unfold powerTo at h
  try simp only [] at h
  all_goals repeat' split at h
  all_goals cases h
  all_goals first | simp | rfl
@[simp] theorem leaveIdle_prog (s : State) : (leaveIdle s).prog = s.prog := by
  unfold leaveIdle
  try simp only []
  all_goals repeat' split
  all_goals first | simp_all | rfl
@[simp] theorem modeTurn_prog (s : State) : (modeTurn s).prog = s.prog := by
  unfold modeTurn
  try simp only []
  all_goals repeat' split
  all_goals first | simp_all | rfl
@[simp] theorem raiseTimer_prog (sq : Nat) (s : State) : (raiseTimer sq s).prog = s.prog := by
  unfold raiseTimer
  try simp only []
  all_goals repeat' split
  all_goals first | simp_all | rfl
@[simp] theorem writeTolerance_prog (g : Nat) (value : Nat) (s : State) : (writeTolerance g value s).prog = s.prog := by
  unfold writeTolerance
  try simp only []
  all_goals repeat' split
  all_goals first | simp_all | rfl

/-! ### Machine/BufferCmds.lean -/

@[simp] theorem correctedWord_prog (bank : Nat) (s : State) : (correctedWord bank s).prog = s.prog := by
  unfold correctedWord
  try simp only []
  all_goals repeat' split
  all_goals first | simp_all | rfl
@[simp] theorem badWord_prog (bank : Nat) (detail : Word) (s : State) : (badWord bank detail s).prog = s.prog := by
  unfold badWord
  try simp only []
  all_goals repeat' split
  all_goals first | simp_all | rfl
@[simp] theorem poisonWord_prog (bank : Nat) (p : Packet) (s : State) : (poisonWord bank p s).prog = s.prog := by
  unfold poisonWord
  try simp only []
  all_goals repeat' split
  all_goals first | simp_all | rfl
@[simp] theorem strike_prog (k : Nat) (flips : Option (BitVec 64)) (s : State) : (strike k flips s).prog = s.prog := by
  unfold strike
  try simp only []
  all_goals repeat' split
  all_goals first | simp_all | rfl
@[simp] theorem strikeWords_prog (chain : List Nat) (n : Nat) (l : List Upset) (s : State) :
    (strikeWords chain n l s).prog = s.prog := by
  unfold strikeWords
  refine (foldl_prog _ _ _ fun t e => ?_).trans ?_
  · repeat' split
    all_goals first | rfl | simp
  · rfl
@[simp] theorem readWord_prog (pid k : Nat) (s : State) : (readWord pid k s).prog = s.prog := by
  unfold readWord
  try simp only []
  all_goals repeat' split
  all_goals first | simp_all | rfl
@[simp] theorem readWords_prog (pid : Nat) (chain : List Nat) (n : Nat) (s : State) :
    (readWords pid chain n s).prog = s.prog := by
  unfold readWords
  try simp only []
  all_goals repeat' split
  all_goals first | simp_all | rfl
@[simp] theorem storeQueued_prog (s : State) : (storeQueued s).prog = s.prog := by
  unfold storeQueued
  try simp only []
  all_goals repeat' split
  all_goals first | simp_all | rfl
@[simp] theorem startJob_prog (s : State) : (startJob s).prog = s.prog := by
  unfold startJob
  try simp only []
  all_goals repeat' split
  all_goals first | simp_all | rfl
@[simp] theorem countJob_prog (inp out : Nat) (s : State) : (countJob inp out s).prog = s.prog := by
  unfold countJob
  try simp only []
  all_goals repeat' split
  all_goals first | simp_all | rfl
@[simp] theorem succeedJob_prog (e : Nat) (p : Packet) (s : State) : (succeedJob e p s).prog = s.prog := by
  unfold succeedJob
  extract_lets bytes s1 s2
  have h : s2.prog = s.prog := (State.modPacket_prog ..).trans rfl
  clear_value bytes s2
  rw [notice_prog, countJob_prog, Fld.count_prog, h]
@[simp] theorem partRead_prog (pid : Nat) (s : State) : (partRead pid s).prog = s.prog := by
  unfold partRead
  try simp only []
  all_goals repeat' split
  all_goals first | simp_all | rfl
@[simp] theorem abortGambits_prog (pid : Nat) (s : State) : (abortGambits pid s).prog = s.prog := by
  unfold abortGambits
  refine (foldl_prog _ _ _ fun t e => ?_).trans ?_
  · repeat' split
    all_goals first | rfl | simp
  · rfl
@[simp] theorem failJob_prog (e : Nat) (p : Packet) (reason obytes : Nat) (s : State) :
    (failJob e p reason obytes s).prog = s.prog := by
  unfold failJob
  extract_lets s1 s2 s3
  have h1 : s1.prog = s.prog := (abortGambits_prog ..).trans rfl
  clear_value s1
  have h2 : s2.prog = s.prog := (State.modPacket_prog ..).trans h1
  clear_value s2
  have h3 : s3.prog = s.prog := (raiseFlag_prog ..).trans ((Fld.count_prog ..).trans h2)
  clear_value s3
  rw [notice_prog, countJob_prog, h3]
@[simp] theorem quarantineEngine_prog (e : Nat) (s : State) : (quarantineEngine e s).prog = s.prog := by
  unfold quarantineEngine
  try simp only []
  all_goals repeat' split
  all_goals first | simp_all | rfl
@[simp] theorem faultJob_prog (e : Nat) (p : Packet) (s : State) : (faultJob e p s).prog = s.prog := by
  unfold faultJob
  extract_lets last s1 s2
  have h1 : s1.prog = s.prog := readWords_prog ..
  clear_value s1
  have h2 : s2.prog = s.prog := (failJob_prog ..).trans ((State.drew_prog ..).trans h1)
  clear_value s2
  rw [quarantineEngine_prog, faultReport_prog, h2]
@[simp] theorem wakeLane_prog (side : Side) (g : Nat) (p : Packet) (s : State) : (wakeLane side g p s).prog = s.prog := by
  unfold wakeLane
  try simp only []
  all_goals repeat' split
  all_goals first | simp_all | rfl
@[simp] theorem wakeLanes_prog (s : State) : (wakeLanes s).prog = s.prog := by
  unfold wakeLanes
  try simp only []
  all_goals repeat' split
  all_goals first | simp_all | rfl
@[simp] theorem startSend_prog (side : Side) (port : Nat) (p : Packet) (s : State) :
    (startSend side port p s).prog = s.prog := by
  unfold startSend
  try simp only []
  all_goals repeat' split
  all_goals first | simp_all | rfl
@[simp] theorem giveTo_prog (side : Side) (port : Nat) (p : Packet) (s : State) : (giveTo side port p s).prog = s.prog := by
  unfold giveTo
  try simp only []
  all_goals repeat' split
  all_goals first | simp_all | rfl
@[simp] theorem sendPacket_prog (place : Nat) (gambit : Bool) (bytes : List Byte) (s : State) :
    (sendPacket place gambit bytes s).prog = s.prog := by
  unfold sendPacket
  try simp only []
  all_goals repeat' split
  all_goals first | simp_all | rfl
@[simp] theorem finishSend_prog (x : Send) (p : Packet) (s : State) : (finishSend x p s).prog = s.prog := by
  unfold finishSend
  extract_lets bytes s1 s2 s3
  have h1 : s1.prog = s.prog := sendPacket_prog ..
  clear_value s1
  have h3 : s3.prog = s.prog := (Fld.wrap_prog ..).trans ((State.modPacket_prog ..).trans h1)
  clear_value s3
  rw [releasePackets_prog]
  split
  · exact (Fld.count_prog ..).trans h3
  · exact h3
@[simp] theorem interruptSends_prog (first : Bool) (f : Send → Bool) (s : State) :
    (interruptSends first f s).prog = s.prog := by
  unfold interruptSends
  try simp only []
  all_goals repeat' split
  all_goals first | simp_all | rfl
@[simp] theorem judgeDead_prog (now : Bool) (side : Side) (s : State) : (judgeDead now side s).prog = s.prog := by
  unfold judgeDead
  try simp only []
  all_goals repeat' split
  all_goals first | simp_all | rfl
@[simp] theorem refreshDead_prog (side : Side) (s : State) : (refreshDead side s).prog = s.prog := by
  unfold refreshDead
  try simp only []
  all_goals repeat' split
  all_goals first | simp_all | rfl
@[simp] theorem countDead_prog (n : Nat) (s : State) : (countDead n s).prog = s.prog := by
  unfold countDead
  try simp only []
  all_goals repeat' split
  all_goals first | simp_all | rfl
@[simp] theorem scrubWord_prog (k : Nat) (s : State) : (scrubWord k s).prog = s.prog := by
  unfold scrubWord
  try simp only []
  all_goals repeat' split
  all_goals first | simp_all | rfl
@[simp] theorem strikeBanks_prog (l : List Upset) (s : State) : (strikeBanks l s).prog = s.prog := by
  unfold strikeBanks
  refine (foldl_prog _ _ _ fun t e => ?_).trans ?_
  · repeat' split
    all_goals first | rfl | simp
  · rfl
@[simp] theorem foundBadProg_prog (a : Nat) (s : State) : (foundBadProg a s).prog = s.prog := by
  unfold foundBadProg
  try simp only []
  all_goals repeat' split
  all_goals first | simp_all | rfl
@[simp] theorem scrubProg_prog (found : Scrubbed) (s : State) : (scrubProg found s).prog = s.prog := by
  unfold scrubProg
  try simp only []
  all_goals repeat' split
  all_goals first | simp_all | rfl
@[simp] theorem scrubScratch_prog (found : Scrubbed) (s : State) : (scrubScratch found s).prog = s.prog := by
  unfold scrubScratch
  try simp only []
  all_goals repeat' split
  all_goals first | simp_all | rfl
@[simp] theorem scrubNext_prog (s : State) : (scrubNext s).prog = s.prog := by
  unfold scrubNext
  try simp only []
  all_goals repeat' split
  all_goals first | simp_all | rfl

/-! ### Machine/Lanes.lean -/

@[simp] theorem laneLives_prog (p : Nat) (s : State) : (laneLives p s).prog = s.prog := by
  unfold laneLives
  try simp only []
  all_goals repeat' split
  all_goals first | simp_all | rfl
@[simp] theorem reacquire_prog (p : Nat) (s : State) : (reacquire p s).prog = s.prog := by
  unfold reacquire
  try simp only []
  all_goals repeat' split
  all_goals first | simp_all | rfl
@[simp] theorem rebond_prog (g : Nat) (s : State) : (rebond g s).prog = s.prog := by
  unfold rebond
  try simp only []
  all_goals repeat' split
  all_goals first | simp_all | rfl
@[simp] theorem markFailed_prog (p : Nat) (s : State) : (markFailed p s).prog = s.prog := by
  unfold markFailed
  try simp only []
  all_goals repeat' split
  all_goals first | simp_all | rfl
@[simp] theorem takeBack_prog (p : Nat) (s : State) : (takeBack p s).prog = s.prog := by
  unfold takeBack
  try simp only []
  all_goals repeat' split
  all_goals first | simp_all | rfl
@[simp] theorem failLanes_prog (g : Nat) (l : List Nat) (s : State) : (failLanes g l s).prog = s.prog := by
  unfold failLanes
  try simp only []
  all_goals repeat' split
  all_goals first | simp_all | rfl
@[simp] theorem askRejoin_prog (p : Nat) (s : State) : (askRejoin p s).prog = s.prog := by
  unfold askRejoin
  try simp only []
  all_goals repeat' split
  all_goals first | simp_all | rfl
@[simp] theorem writeLgcfg_prog (g : Nat) (v : Word) (s : State) : (writeLgcfg g v s).prog = s.prog := by
  unfold writeLgcfg
  try simp only []
  all_goals repeat' split
  all_goals first | simp_all | rfl
@[simp] theorem applySingle_prog (s : State) : (applySingle s).prog = s.prog := by
  unfold applySingle
  exact overList_prog _ _ _ fun c t => by simp
@[simp] theorem portOff_prog (p : Nat) (s : State) : (portOff p s).prog = s.prog := by
  unfold portOff
  try simp only []
  all_goals repeat' split
  all_goals first | simp_all | rfl
@[simp] theorem portOn_prog (p : Nat) (s : State) : (portOn p s).prog = s.prog := by
  unfold portOn
  try simp only []
  all_goals repeat' split
  all_goals first | simp_all | rfl

/-! ### Machine/Timing.lean -/

@[simp] theorem modTim_prog (f : Tim → Tim) (s : State) : (modTim f s).prog = s.prog := by
  unfold modTim
  try simp only []
  all_goals repeat' split
  all_goals first | simp_all | rfl
@[simp] theorem timTicks_prog (n : Nat) (s : State) : (timTicks n s).prog = s.prog := by
  unfold timTicks
  try simp only []
  all_goals repeat' split
  all_goals first | simp_all | rfl
@[simp] theorem setCmp_prog (n : Nat) (t : Option Tag) (s : State) : (setCmp n t s).prog = s.prog := by
  unfold setCmp
  try simp only []
  all_goals repeat' split
  all_goals first | simp_all | rfl
@[simp] theorem fireCompare_prog (n : Nat) (s : State) : (fireCompare n s).prog = s.prog := by
  unfold fireCompare
  try simp only []
  all_goals repeat' split
  all_goals first | simp_all | rfl
@[simp] theorem compareTicks_prog (off n : Nat) (s : State) : (compareTicks off n s).prog = s.prog := by
  unfold compareTicks
  try simp only []
  all_goals repeat' split
  all_goals first | simp_all | rfl
@[simp] theorem coreTicks_prog (off n : Nat) (s : State) : (coreTicks off n s).prog = s.prog := by
  unfold coreTicks
  try simp only []
  all_goals repeat' split
  all_goals first | simp_all | rfl
@[simp] theorem compareNow_prog (s : State) : (compareNow s).prog = s.prog := by
  unfold compareNow
  try simp only []
  all_goals repeat' split
  all_goals first | simp_all | rfl
@[simp] theorem timBoundary_prog (s : State) : (timBoundary s).prog = s.prog := by
  unfold timBoundary
  try simp only []
  all_goals repeat' split
  all_goals first | simp_all | rfl
@[simp] theorem timBase_prog (s : State) : (timBase s).prog = s.prog := by
  unfold timBase
  try simp only []
  all_goals repeat' split
  all_goals first | simp_all | rfl
@[simp] theorem stepGo_prog (s : State) : (stepGo s).prog = s.prog := by
  unfold stepGo
  try simp only []
  all_goals repeat' split
  all_goals first | simp_all | rfl
@[simp] theorem judgeStep_prog (s : State) : (judgeStep s).prog = s.prog := by
  unfold judgeStep
  try simp only []
  all_goals repeat' split
  all_goals first | simp_all | rfl
@[simp] theorem askUnsync_prog (s : State) : (askUnsync s).prog = s.prog := by
  unfold askUnsync
  try simp only []
  all_goals repeat' split
  all_goals first | simp_all | rfl
@[simp] theorem latchNow_prog (s : State) : (latchNow s).prog = s.prog := by
  unfold latchNow
  try simp only []
  all_goals repeat' split
  all_goals first | simp_all | rfl
@[simp] theorem setEgress_prog (p : Nat) (l : List TmMsg) (s : State) : (setEgress p l s).prog = s.prog := by
  unfold setEgress
  try simp only []
  all_goals repeat' split
  all_goals first | simp_all | rfl
@[simp] theorem enqueue_prog (p : Nat) (m : TmMsg) (s : State) : (enqueue p m s).1.prog = s.prog := by
  unfold enqueue
  try simp only []
  all_goals repeat' split
  all_goals first | simp_all | rfl
@[simp] theorem storeMessage_prog (p : Nat) (l : List Byte) (t : BitVec 48 × Nat × Nat) (s : State) :
    (storeMessage p l t s).prog = s.prog := by
  unfold storeMessage
  try simp only []
  all_goals repeat' split
  all_goals first | simp_all | rfl
@[simp] theorem beginMessage_prog (p : Nat) (l : List Byte) (rest : List TmMsg) (s : State) :
    (beginMessage p l rest s).prog = s.prog := by
  unfold beginMessage
  try simp only []
  all_goals repeat' split
  all_goals first | simp_all | rfl
@[simp] theorem sendTim_prog (s : State) : (sendTim s).prog = s.prog := by
  unfold sendTim
  try simp only []
  all_goals repeat' split
  all_goals first | simp_all | rfl
@[simp] theorem armCompare_prog (n : Nat) (s : State) : (armCompare n s).prog = s.prog := by
  unfold armCompare
  try simp only []
  all_goals repeat' split
  all_goals first | simp_all | rfl
@[simp] theorem orbitStamp_prog (s : State) : (orbitStamp s).prog = s.prog := by
  unfold orbitStamp
  try simp only []
  all_goals repeat' split
  all_goals first | simp_all | rfl

/-! ### Machine/Restart.lean -/

@[simp] theorem modRestart_prog (n : Nat) (f : Restart → Restart) (s : State) : (modRestart n f s).prog = s.prog := by
  unfold modRestart
  try simp only []
  all_goals repeat' split
  all_goals first | simp_all | rfl
@[simp] theorem startRestart_prog (n : Nat) (s : State) : (startRestart n s).prog = s.prog := by
  unfold startRestart
  try simp only []
  all_goals repeat' split
  all_goals first | simp_all | rfl
@[simp] theorem stopRestarts_prog (s : State) : (stopRestarts s).prog = s.prog := by
  unfold stopRestarts
  try simp only []
  all_goals repeat' split
  all_goals first | simp_all | rfl
@[simp] theorem lostHit_prog (c : Nat) (t : Tag) (counted : Bool) (s : State) : (lostHit c t counted s).prog = s.prog := by
  unfold lostHit
  try simp only []
  all_goals repeat' split
  all_goals first | simp_all | rfl
@[simp] theorem lostHits_prog (c : Nat) (s : State) : (lostHits c s).prog = s.prog := by
  unfold lostHits
  try simp only []
  all_goals repeat' split
  all_goals first | simp_all | rfl
@[simp] theorem closeInterval_prog (c : Nat) (stop : Tag) (s : State) : (closeInterval c stop s).prog = s.prog := by
  unfold closeInterval
  try simp only []
  all_goals repeat' split
  all_goals first | simp_all | rfl
@[simp] theorem closeGroup_prog (g : Nat) (stop : Tag) (s : State) : (closeGroup g stop s).prog = s.prog := by
  unfold closeGroup
  try simp only []
  all_goals repeat' split
  all_goals first | simp_all | rfl
@[simp] theorem beginReset_prog (n : Nat) (s : State) : (beginReset n s).prog = s.prog := by
  unfold beginReset
  try simp only []
  all_goals repeat' split
  all_goals first | simp_all | rfl
@[simp] theorem forceBlock_prog (n : Nat) (s : State) : (forceBlock n s).prog = s.prog := by
  unfold forceBlock
  repeat' split
  · extract_lets l h s1
    have h1 : s1.prog = s.prog := foldl_prog _ _ _ fun t w => by split <;> first | rfl | simp
    clear_value s1
    exact (modRestart_prog ..).trans h1
  · exact interruptSends_prog ..
  · exact interruptSends_prog ..
  · exact foldl_prog _ _ _ fun t j => by split <;> first | rfl | simp
  · exact modLed_prog ..
  · rfl
@[simp] theorem resetGroup_prog (g : Nat) (s : State) : (resetGroup g s).prog = s.prog := by
  unfold resetGroup
  try simp only []
  all_goals repeat' split
  all_goals first | simp_all | rfl
@[simp] theorem restartEntry_prog (r : Restart) (stop : Tag) (s : State) : (restartEntry r stop s).prog = s.prog := by
  unfold restartEntry
  try simp only []
  all_goals repeat' split
  all_goals first | simp_all | rfl
@[simp] theorem resetMonitor_prog (s : State) : (resetMonitor s).prog = s.prog := by
  unfold resetMonitor
  try simp only []
  all_goals repeat' split
  all_goals first | simp_all | rfl
@[simp] theorem resetLed_prog (s : State) : (resetLed s).prog = s.prog := by
  unfold resetLed
  try simp only []
  all_goals repeat' split
  all_goals first | simp_all | rfl
@[simp] theorem resetBlock_prog (n : Nat) (s : State) : (resetBlock n s).prog = s.prog := by
  unfold resetBlock
  try simp only []
  all_goals repeat' split
  all_goals first | simp_all | rfl
@[simp] theorem resumeBlock_prog (r : Restart) (s : State) : (resumeBlock r s).prog = s.prog := by
  unfold resumeBlock
  try simp only []
  all_goals repeat' split
  all_goals first | simp_all | rfl
@[simp] theorem nextStep_prog (n : Nat) (s : State) : (nextStep n s).prog = s.prog := by
  unfold nextStep
  try simp only []
  all_goals repeat' split
  all_goals first | simp_all | rfl
@[simp] theorem endStep_prog (n : Nat) (s : State) : (endStep n s).prog = s.prog := by
  unfold endStep
  try simp only []
  all_goals repeat' split
  all_goals first | simp_all | rfl
@[simp] theorem turnRestarts_prog (s : State) : (turnRestarts s).prog = s.prog := by
  unfold turnRestarts
  try simp only []
  all_goals repeat' split
  all_goals first | simp_all | rfl

/-! ### Machine/Faults.lean -/

@[simp] theorem noMajority_prog (region : Nat) (s : State) : (noMajority region s).prog = s.prog := by
  unfold noMajority
  try simp only []
  all_goals repeat' split
  all_goals first | simp_all | rfl
@[simp] theorem sliceLost_prog (c : Nat) (s : State) : (sliceLost c s).prog = s.prog := by
  unfold sliceLost
  try simp only []
  all_goals repeat' split
  all_goals first | simp_all | rfl
@[simp] theorem laneLost_prog (p : Nat) (s : State) : (laneLost p s).prog = s.prog := by
  unfold laneLost
  try simp only []
  all_goals repeat' split
  all_goals first | simp_all | rfl
@[simp] theorem engineLost_prog (e : Nat) (s : State) : (engineLost e s).prog = s.prog := by
  unfold engineLost
  extract_lets s1 s2
  have h1 : s1.prog = s.prog := (faultReport_prog ..).trans (noMajority_prog ..)
  clear_value s1
  have h2 : s2.prog = s.prog := by
    show (match s1.jobOf e with | some p => failJob e p 3 (s1.bytesSoFar p) (s1.drew 1) | none => s1).prog = s.prog
    split
    · rw [failJob_prog, State.drew_prog, h1]
    · exact h1
  clear_value s2
  rw [quarantineEngine_prog, h2]
@[simp] theorem regionRestart_prog (n : Nat) (s : State) : (regionRestart n s).prog = s.prog := by
  unfold regionRestart
  try simp only []
  all_goals repeat' split
  all_goals first | simp_all | rfl
@[simp] theorem portBlockLost_prog (side : Side) (s : State) : (portBlockLost side s).prog = s.prog := by
  unfold portBlockLost
  try simp only []
  all_goals repeat' split
  all_goals first | simp_all | rfl
@[simp] theorem chipStateLost_prog (code : Nat) (s : State) : (chipStateLost code s).prog = s.prog := by
  unfold chipStateLost
  try simp only []
  all_goals repeat' split
  all_goals first | simp_all | rfl
@[simp] theorem chipTurn_prog (s : State) : (chipTurn s).prog = s.prog := by
  unfold chipTurn
  try simp only []
  all_goals repeat' split
  all_goals first | simp_all | rfl

/-! ### Machine/Orbit.lean -/

@[simp] theorem judgeFcs_prog (s : State) : (judgeFcs s).prog = s.prog := by
  unfold judgeFcs
  try simp only []
  all_goals repeat' split
  all_goals first | simp_all | rfl
@[simp] theorem countHigh_prog (n : Nat) (s : State) : (countHigh n s).prog = s.prog := by
  unfold countHigh
  try simp only []
  all_goals repeat' split
  all_goals first | simp_all | rfl
@[simp] theorem stepTimers_prog (n : Nat) (s : State) : (stepTimers n s).prog = s.prog := by
  unfold stepTimers
  try simp only []
  all_goals repeat' split
  all_goals first | simp_all | rfl
@[simp] theorem restOfBoundary_prog (s : State) : (restOfBoundary s).prog = s.prog := by
  unfold restOfBoundary
  try simp only []
  all_goals repeat' split
  all_goals first | simp_all | rfl
@[simp] theorem passTime_prog (n : Nat) (s : State) : (passTime n s).prog = s.prog := by
  unfold passTime
  try simp only []
  all_goals repeat' split
  all_goals first | simp_all | rfl
@[simp] theorem latchEdge_prog (s : State) : (latchEdge s).prog = s.prog := by
  unfold latchEdge
  try simp only []
  all_goals repeat' split
  all_goals first | simp_all | rfl
@[simp] theorem atBoundary_prog (n : Nat) (s : State) : (atBoundary n s).prog = s.prog := by
  unfold atBoundary
  try simp only []
  all_goals repeat' split
  all_goals first | simp_all | rfl
@[simp] theorem nextBp_prog (s : State) : (nextBp s).prog = s.prog := by
  unfold nextBp
  try simp only []
  all_goals repeat' split
  all_goals first | simp_all | rfl
@[simp] theorem noteSets_prog (before s : State) : (noteSets before s).prog = s.prog := by
  unfold noteSets
  try simp only []
  all_goals repeat' split
  all_goals first | simp_all | rfl
@[simp] theorem endIntervals_prog (s : State) : (endIntervals s).prog = s.prog := by
  unfold endIntervals
  try simp only []
  all_goals repeat' split
  all_goals first | simp_all | rfl
@[simp] theorem beginIntervals_prog (s : State) : (beginIntervals s).prog = s.prog := by
  unfold beginIntervals
  try simp only []
  all_goals repeat' split
  all_goals first | simp_all | rfl
@[simp] theorem writeMinMax_prog (s : State) : (writeMinMax s).prog = s.prog := by
  unfold writeMinMax
  try simp only []
  all_goals repeat' split
  all_goals first | simp_all | rfl
@[simp] theorem discardAdm_prog (s : State) : (discardAdm s).prog = s.prog := by
  unfold discardAdm
  try simp only []
  all_goals repeat' split
  all_goals first | simp_all | rfl
@[simp] theorem recheckAdm_prog (s : State) : (recheckAdm s).prog = s.prog := by
  unfold recheckAdm
  try simp only []
  all_goals repeat' split
  all_goals first | simp_all | rfl
@[simp] theorem checkFlt_prog (s : State) : (checkFlt s).prog = s.prog := by
  unfold checkFlt
  try simp only []
  all_goals repeat' split
  all_goals first | simp_all | rfl
@[simp] theorem commitRwo_prog (s : State) : (commitRwo s).prog = s.prog := by
  unfold commitRwo
  extract_lets l s1
  refine (foldr_prog _ _ _ fun e t => ?_).trans rfl
  split <;> rfl
@[simp] theorem takeDelays_prog (s : State) : (takeDelays s).prog = s.prog := by
  unfold takeDelays
  try simp only []
  all_goals repeat' split
  all_goals first | simp_all | rfl
@[simp] theorem takeRwo_prog (s : State) : (takeRwo s).prog = s.prog := by
  unfold takeRwo
  try simp only []
  all_goals repeat' split
  all_goals first | simp_all | rfl
@[simp] theorem openLedger_prog (s : State) : (openLedger s).prog = s.prog := by
  unfold openLedger
  try simp only []
  all_goals repeat' split
  all_goals first | simp_all | rfl
@[simp] theorem endLedger_prog (len : Nat) (s : State) : (endLedger len s).prog = s.prog := by
  unfold endLedger
  try simp only []
  all_goals repeat' split
  all_goals first | simp_all | rfl
@[simp] theorem endWindows_prog (s : State) : (endWindows s).prog = s.prog := by
  unfold endWindows
  try simp only []
  all_goals repeat' split
  all_goals first | simp_all | rfl
@[simp] theorem streamTurn_prog (s : State) : (streamTurn s).prog = s.prog := by
  unfold streamTurn
  try simp only []
  all_goals repeat' split
  all_goals first | simp_all | rfl
@[simp] theorem freshSlice_prog (c : Nat) (s : State) : (freshSlice c s).prog = s.prog := by
  unfold freshSlice
  try simp only []
  all_goals repeat' split
  all_goals first | simp_all | rfl
@[simp] theorem freshCell_prog (n : Nat) (s : State) : (freshCell n s).prog = s.prog := by
  unfold freshCell
  try simp only []
  all_goals repeat' split
  all_goals first | simp_all | rfl
@[simp] theorem applyTdc_prog (s : State) : (applyTdc s).prog = s.prog := by
  unfold applyTdc
  try simp only []
  all_goals repeat' split
  all_goals first | simp_all | rfl
@[simp] theorem applyBackground_prog (s : State) : (applyBackground s).prog = s.prog := by
  unfold applyBackground
  try simp only []
  all_goals repeat' split
  all_goals first | simp_all | rfl
@[simp] theorem refreshStale_prog (run : BitVec 16) (s : State) : (refreshStale run s).prog = s.prog := by
  unfold refreshStale
  try simp only []
  all_goals repeat' split
  all_goals first | simp_all | rfl
@[simp] theorem countArm_prog (s : State) : (countArm s).prog = s.prog := by
  unfold countArm
  try simp only []
  all_goals repeat' split
  all_goals first | simp_all | rfl
@[simp] theorem countReturns_prog (s : State) : (countReturns s).prog = s.prog := by
  unfold countReturns
  try simp only []
  all_goals repeat' split
  all_goals first | simp_all | rfl
@[simp] theorem freshLimits_prog (s : State) : (freshLimits s).prog = s.prog := by
  unfold freshLimits
  try simp only []
  all_goals repeat' split
  all_goals first | simp_all | rfl
@[simp] theorem beginOrbit_prog (number : Word) (s : State) : (beginOrbit number s).prog = s.prog := by
  unfold beginOrbit
  try simp only []
  all_goals repeat' split
  all_goals first | simp_all | rfl

/-! ### Machine/Views.lean -/

@[simp] theorem touchAbsent_prog (a : Nat) (s : State) : (touchAbsent a s).prog = s.prog := by
  unfold touchAbsent
  try simp only []
  all_goals repeat' split
  all_goals first | simp_all | rfl
@[simp] theorem clearRc_prog (a : Nat) (s : State) : (clearRc a s).prog = s.prog := by
  unfold clearRc
  try simp only []
  all_goals repeat' split
  all_goals first | simp_all | rfl
@[simp] theorem readField_prog (by_ a : Nat) (s : State) : (readField by_ a s).2.prog = s.prog := by
  unfold readField
  try simp only []
  all_goals repeat' split
  all_goals first | simp_all | rfl

/-! ### Machine/Access.lean -/

@[simp] theorem writeByCode_prog (a : Nat) (v : Word) (s : State) : (writeByCode a v s).prog = s.prog := by
  unfold writeByCode
  try simp only []
  all_goals repeat' split
  all_goals first | simp_all | rfl
@[simp] theorem guardedWrite_prog (by_ i : Nat) (f : Square → Square) (s : State) :
    (guardedWrite by_ i f s).prog = s.prog := by
  unfold guardedWrite
  try simp only []
  all_goals repeat' split
  all_goals first | simp_all | rfl
@[simp] theorem writeSeq_prog (by_ a : Nat) (value : Word) (s : State) : (writeSeq by_ a value s).prog = s.prog := by
  unfold writeSeq
  simp only [ite_prog, guardedWrite_prog, State.modSquare_prog, writeByCode_prog, ite_self]
@[simp] theorem writeAfeStat_prog (c : Nat) (v : Word) (s : State) : (writeAfeStat c v s).prog = s.prog := by
  unfold writeAfeStat
  try simp only []
  all_goals repeat' split
  all_goals first | simp_all | rfl
@[simp] theorem writeTbcap_prog (n : Nat) (v : Word) (s : State) : (writeTbcap n v s).prog = s.prog := by
  unfold writeTbcap
  try simp only []
  all_goals repeat' split
  all_goals first | simp_all | rfl
@[simp] theorem setPmvalid_prog (s : State) : (setPmvalid s).prog = s.prog := by
  unfold setPmvalid
  try simp only []
  all_goals repeat' split
  all_goals first | simp_all | rfl
@[simp] theorem writeEngq_prog (v : Word) (s : State) : (writeEngq v s).prog = s.prog := by
  unfold writeEngq
  try simp only []
  all_goals repeat' split
  all_goals first | simp_all | rfl
@[simp] theorem writeMonCtl_prog (v : Word) (s : State) : (writeMonCtl v s).prog = s.prog := by
  unfold writeMonCtl
  try simp only []
  all_goals repeat' split
  all_goals first | simp_all | rfl
@[simp] theorem writeEntry_prog (a : Nat) (v : Word) (s : State) : (writeEntry a v s).prog = s.prog := by
  unfold writeEntry
  try simp only []
  all_goals repeat' split
  all_goals first | simp_all | rfl
@[simp] theorem writeLedCtl_prog (v : Word) (s : State) : (writeLedCtl v s).prog = s.prog := by
  unfold writeLedCtl
  try simp only []
  all_goals repeat' split
  all_goals first | simp_all | rfl
@[simp] theorem askAlign_prog (n : Nat) (s : State) : (askAlign n s).prog = s.prog := by
  unfold askAlign
  try simp only []
  all_goals repeat' split
  all_goals first | simp_all | rfl
@[simp] theorem writePcfg_prog (p : Nat) (v : Word) (s : State) : (writePcfg p v s).prog = s.prog := by
  unfold writePcfg
  try simp only []
  all_goals repeat' split
  all_goals first | simp_all | rfl
@[simp] theorem writeTxctl_prog (v : Word) (s : State) : (writeTxctl v s).prog = s.prog := by
  unfold writeTxctl
  try simp only []
  all_goals repeat' split
  all_goals first | simp_all | rfl
@[simp] theorem writeLow_prog (a : Nat) (v : Word) (s : State) : (writeLow a v s).prog = s.prog := by
  unfold writeLow
  try simp only []
  all_goals repeat' split
  all_goals first | simp_all | rfl
@[simp] theorem writeHigh_prog (a : Nat) (v : Word) (s : State) : (writeHigh a v s).prog = s.prog := by
  unfold writeHigh
  simp only []
  repeat' split
  all_goals first
    | exact settleDiscs_prog .. | exact writeAfeStat_prog .. | exact writeTbcap_prog .. | exact writePcfg_prog ..
    | exact writeLgcfg_prog .. | exact writeMonCtl_prog .. | exact writeEntry_prog .. | exact writeLedCtl_prog ..
    | simp
theorem writeField_prog (by_ a : Nat) (v : Word) (s : State) (h : a < 0x10000 ∨ 0x14000 ≤ a) :
    (writeField by_ a v s).prog = s.prog := by
  unfold writeField
  split
  · rfl
  · rw [if_neg (by omega)]
    repeat' split
    all_goals simp

@[simp] theorem scratchFill_prog (a : Nat) (l : List Word) (s : State) : (State.scratchFill a l s).prog = s.prog := by
  induction l generalizing a s with
  | nil => rfl
  | cons v r ih => exact (ih ..).trans rfl

@[simp] theorem takeBlock_prog (a n dest : Nat) (s : State) : (takeBlock a n dest s).prog = s.prog := by
  unfold takeBlock
  repeat' split
  all_goals simp

@[simp] theorem accessing_prog (f : State → State) (s : State) (hf : ∀ t, (f t).prog = t.prog) :
    (accessing f s).prog = s.prog := by
  unfold accessing
  try simp only []
  all_goals repeat' split
  all_goals first | simp_all | rfl

/-! ### Machine/Tap.lean -/

@[simp] theorem tapAct_prog (tdi : Bool) (s : State) : (tapAct tdi s).prog = s.prog := by
  unfold tapAct
  try simp only []
  all_goals repeat' split
  all_goals first | simp_all | rfl
@[simp] theorem tapFall_prog (s : State) : (tapFall s).prog = s.prog := by
  unfold tapFall
  try simp only []
  all_goals repeat' split
  all_goals first | simp_all | rfl

end Sys2Proof.Machine
end

