-- ==== Sys2Proof/Laws/Scratch.lean ====
section
/-!
SUPPORT. Sys2Proof/Laws/Scratch.lean: every shared operation that leaves scratch memory as it is says so, so that a proof about a
command never unfolds one for it (power-on, RSTN, memory initialisation and the exit from SAFE clear it, and ST, TAKE and writes of its window write it).
-/
set_option Elab.async false
namespace Sys2Proof.Machine

set_option linter.unusedTactic false
set_option linter.unreachableTactic false

/-! ### Machine/Ops.lean -/

@[simp] theorem ite_scratch (c : Prop) [Decidable c] (a b : State) :
    (if c then a else b).scratch = if c then a.scratch else b.scratch := by split <;> rfl
@[simp] theorem overList_scratch (l : List Nat) (f : Nat → State → State) (s : State) (h : ∀ c t, (f c t).scratch = t.scratch) :
    (overList l f s).scratch = s.scratch := by
  unfold overList
  induction l generalizing s with
  | nil => rfl
  | cons a r ih => exact (ih _).trans (h a s)
@[simp] theorem foldl_scratch {α : Type} (l : List α) (f : State → α → State) (s : State) (h : ∀ t a, (f t a).scratch = t.scratch) :
    (l.foldl f s).scratch = s.scratch := by
  induction l generalizing s with
  | nil => rfl
  | cons a r ih => exact (ih _).trans (h s a)
@[simp] theorem foldr_scratch {α : Type} (l : List α) (f : α → State → State) (s : State) (h : ∀ a t, (f a t).scratch = t.scratch) :
    (l.foldr f s).scratch = s.scratch := by
  induction l with
  | nil => rfl
  | cons a r ih => exact (h a _).trans ih
@[simp] theorem Fld.put_scratch (f : Fld) (b : Bool) (s : State) : (Fld.put f b s).scratch = s.scratch := by
  unfold Fld.put
  try simp only []
  all_goals repeat' split
  all_goals first | simp_all | rfl
@[simp] theorem Fld.wrInt_scratch (f : Fld) (v : Int) (s : State) : (Fld.wrInt f v s).scratch = s.scratch := by
  unfold Fld.wrInt
  try simp only []
  all_goals repeat' split
  all_goals first | simp_all | rfl
@[simp] theorem Fld.wrap_scratch (f : Fld) (s : State) : (Fld.wrap f s).scratch = s.scratch := by
  unfold Fld.wrap
  try simp only []
  all_goals repeat' split
  all_goals first | simp_all | rfl
@[simp] theorem raiseFirst_scratch (w bit : Nat) (s : State) : (raiseFirst w bit s).scratch = s.scratch := by
  unfold raiseFirst
  try simp only []
  all_goals repeat' split
  all_goals first | simp_all | rfl
@[simp] theorem burnFuses_scratch (off : Nat) (bits : Word) (s : State) : (burnFuses off bits s).scratch = s.scratch := by
  unfold burnFuses
  try simp only []
  all_goals repeat' split
  all_goals first | simp_all | rfl

/-! ### Machine/Buffer.lean -/

@[simp] theorem State.setStale_scratch (n : Nat) (b : Bool) (s : State) : (State.setStale n b s).scratch = s.scratch := by
  unfold State.setStale
  try simp only []
  all_goals repeat' split
  all_goals first | simp_all | rfl
@[simp] theorem renewPages_scratch (l : List Nat) (s : State) : (renewPages l s).scratch = s.scratch := by
  unfold renewPages
  try simp only []
  all_goals repeat' split
  all_goals first | simp_all | rfl
@[simp] theorem State.takePages_scratch (s : State) (n : Nat) : (State.takePages s n).2.scratch = s.scratch := by
  unfold State.takePages
  try simp only []
  all_goals repeat' split
  all_goals first | simp_all | rfl
@[simp] theorem State.modPacket_scratch (pid : Nat) (f : Packet → Packet) (s : State) :
    (State.modPacket pid f s).scratch = s.scratch := by
  unfold State.modPacket
  try simp only []
  all_goals repeat' split
  all_goals first | simp_all | rfl
@[simp] theorem notice_scratch (c : Cls) (s : State) : (notice c s).scratch = s.scratch := by
  unfold notice
  try simp only []
  all_goals repeat' split
  all_goals first | simp_all | rfl
@[simp] theorem State.modLedger_scratch (k : Word) (f : Ledger → Ledger) (s : State) :
    (State.modLedger k f s).scratch = s.scratch := by
  unfold State.modLedger
  try simp only []
  all_goals repeat' split
  all_goals first | simp_all | rfl
@[simp] theorem closePacket_scratch (pid : Nat) (s : State) : (closePacket pid s).scratch = s.scratch := by
  unfold closePacket
  try simp only []
  all_goals repeat' split
  all_goals first | simp_all | rfl
@[simp] theorem closeClass_scratch (c : Cls) (s : State) : (closeClass c s).scratch = s.scratch := by
  unfold closeClass
  try simp only []
  all_goals repeat' split
  all_goals first | simp_all | rfl
theorem linkPages_scratch {p q : Packet} {s t : State} (h : s.linkPages p = some (q, t)) :
    t.scratch = s.scratch := (congrArg State.scratch (linkPages_path h).1).trans rfl
@[simp] theorem tryEnter_scratch (w : Waiting) (s : State) :
    (tryEnter w s).1.scratch = s.scratch := (congrArg State.scratch (tryEnter_path ..).1).trans rfl
@[simp] theorem waitSpace_scratch (why : WaitWhy) (w : Waiting) (s : State) : (waitSpace why w s).scratch = s.scratch := by
  unfold waitSpace
  try simp only []
  all_goals repeat' split
  all_goals first | simp_all | rfl
@[simp] theorem servedBlock_scratch (w : Waiting) (s : State) : (servedBlock w s).scratch = s.scratch := by
  unfold servedBlock
  try simp only []
  all_goals repeat' split
  all_goals first | simp_all | rfl
@[simp] theorem enterRecord_scratch (w : Waiting) (s : State) : (enterRecord w s).scratch = s.scratch := by
  unfold enterRecord
  try simp only []
  all_goals repeat' split
  all_goals first | simp_all | rfl
@[simp] theorem freeArea_scratch (s : State) : (freeArea s).scratch = s.scratch := by
  unfold freeArea
  try simp only []
  all_goals repeat' split
  all_goals first | simp_all | rfl
@[simp] theorem releasePackets_scratch (s : State) : (releasePackets s).scratch = s.scratch := by
  unfold releasePackets
  try simp only []
  all_goals repeat' split
  all_goals first | simp_all | rfl
@[simp] theorem mRecord_scratch (kind sq : Nat) (tag : BitVec 6) (body : List Word) (s : State) :
    (mRecord kind sq tag body s).scratch = s.scratch := by
  unfold mRecord
  try simp only []
  all_goals repeat' split
  all_goals first | simp_all | rfl
@[simp] theorem hubRecordOf_scratch (kind sq : Nat) (body : List Word) (s : State) :
    (hubRecordOf kind sq body s).scratch = s.scratch := by
  unfold hubRecordOf
  try simp only []
  all_goals repeat' split
  all_goals first | simp_all | rfl
@[simp] theorem hubRecord_scratch (kind : Nat) (body : List Word) (s : State) :
    (hubRecord kind body s).scratch = s.scratch := by
  unfold hubRecord
  try simp only []
  all_goals repeat' split
  all_goals first | simp_all | rfl
@[simp] theorem faultReport_scratch (level cls block index : Nat) (detail : Word) (s : State) :
    (faultReport level cls block index detail s).scratch = s.scratch := by
  unfold faultReport
  try simp only []
  all_goals repeat' split
  all_goals first | simp_all | rfl
@[simp] theorem foundBad_scratch (cls a : Nat) (s : State) : (foundBad cls a s).scratch = s.scratch := by
  unfold foundBad
  try simp only []
  all_goals repeat' split
  all_goals first | simp_all | rfl
@[simp] theorem eventReport_scratch (ev index detail : Nat) (s : State) :
    (eventReport ev index detail s).scratch = s.scratch := by
  unfold eventReport
  try simp only []
  all_goals repeat' split
  all_goals first | simp_all | rfl
@[simp] theorem refusalRecord_scratch (sq op : Nat) (r : Reason) (test grp : Nat) (id : BitVec 16) (s : State) :
    (refusalRecord sq op r test grp id s).scratch = s.scratch := by
  unfold refusalRecord
  try simp only []
  all_goals repeat' split
  all_goals first | simp_all | rfl

/-! ### Machine/Budget.lean -/

@[simp] theorem refillBucket_scratch (s : State) : (refillBucket s).scratch = s.scratch := by
  unfold refillBucket
  try simp only []
  all_goals repeat' split
  all_goals first | simp_all | rfl
@[simp] theorem deduct_scratch (eu : Nat) (s : State) : (deduct eu s).scratch = s.scratch := by
  unfold deduct
  try simp only []
  all_goals repeat' split
  all_goals first | simp_all | rfl
@[simp] theorem chargeExempt_scratch (eu : Nat) (s : State) : (chargeExempt eu s).scratch = s.scratch := by
  unfold chargeExempt
  try simp only []
  all_goals repeat' split
  all_goals first | simp_all | rfl
@[simp] theorem raiseHw_scratch (w : HwWork) (cost : Nat) (s : State) : (raiseHw w cost s).scratch = s.scratch := by
  unfold raiseHw
  try simp only []
  all_goals repeat' split
  all_goals first | simp_all | rfl
@[simp] theorem spendClass_scratch (i cost : Nat) (s : State) : (spendClass i cost s).scratch = s.scratch := by
  unfold spendClass
  try simp only []
  all_goals repeat' split
  all_goals first | simp_all | rfl
@[simp] theorem enterWait_scratch (i cost : Nat) (barred : Bool) (s : State) :
    (enterWait i cost barred s).scratch = s.scratch := by
  unfold enterWait
  try simp only []
  all_goals repeat' split
  all_goals first | simp_all | rfl

/-! ### Machine/Tdc.lean -/

@[simp] theorem modAcc_scratch (c : Nat) (orb : Word) (f : SAcc → SAcc) (s : State) :
    (modAcc c orb f s).scratch = s.scratch := by
  unfold modAcc
  try simp only []
  all_goals repeat' split
  all_goals first | simp_all | rfl
@[simp] theorem timeEdge_scratch (c : Nat) (lead : Bool) (raw e : BitVec 7) (s : State) :
    (timeEdge c lead raw e s).2.scratch = s.scratch := by
  unfold timeEdge
  try simp only []
  all_goals repeat' split
  all_goals first | simp_all | rfl
@[simp] theorem State.setFto_scratch (q : Nat) (x : Fto) (s : State) : (State.setFto q x s).scratch = s.scratch := by
  unfold State.setFto
  try simp only []
  all_goals repeat' split
  all_goals first | simp_all | rfl
@[simp] theorem ftoFell_scratch (q : Nat) (s : State) : (ftoFell q s).scratch = s.scratch := by
  unfold ftoFell
  try simp only []
  all_goals repeat' split
  all_goals first | simp_all | rfl
@[simp] theorem ftoRise_scratch (q at_ : Nat) (s : State) : (ftoRise q at_ s).scratch = s.scratch := by
  unfold ftoRise
  try simp only []
  all_goals repeat' split
  all_goals first | simp_all | rfl
@[simp] theorem withOr_scratch (q at_ : Nat) (f : State → State) (s : State) (hf : ∀ t, (f t).scratch = t.scratch) :
    (withOr q at_ f s).scratch = s.scratch := by
  unfold withOr
  try simp only []
  all_goals repeat' split
  all_goals first | simp_all | rfl
@[simp] theorem countMerge_scratch (c : Nat) (n : Hit) (live : Bool) (s : State) :
    (countMerge c n live s).scratch = s.scratch := by
  unfold countMerge
  try simp only []
  all_goals repeat' split
  all_goals first | simp_all | rfl
@[simp] theorem completeHit_scratch (c : Nat) (e : HitEnd) (h : OpenHit) (s : State) :
    (completeHit c e h s).scratch = s.scratch := by
  unfold completeHit
  try simp only []
  all_goals repeat' split
  all_goals first | simp_all | rfl
@[simp] theorem markAged_scratch (c : Nat) (s : State) : (markAged c s).scratch = s.scratch := by
  unfold markAged
  try simp only []
  all_goals repeat' split
  all_goals first | simp_all | rfl
@[simp] theorem timeOutHit_scratch (c : Nat) (h : OpenHit) (s : State) : (timeOutHit c h s).scratch = s.scratch := by
  unfold timeOutHit
  try simp only []
  all_goals repeat' split
  all_goals first | simp_all | rfl
@[simp] theorem openHitAt_scratch (c fine end_ : Nat) (near : Bool) (s : State) :
    (openHitAt c fine end_ near s).scratch = s.scratch := by
  unfold openHitAt
  try simp only []
  all_goals repeat' split
  all_goals first | simp_all | rfl
@[simp] theorem leadingEdge_scratch (c fine end_ : Nat) (near : Bool) (s : State) :
    (leadingEdge c fine end_ near s).scratch = s.scratch := by
  unfold leadingEdge
  try simp only []
  all_goals repeat' split
  all_goals first | simp_all | rfl
@[simp] theorem closeHitAt_scratch (c fine end_ : Nat) (s : State) : (closeHitAt c fine end_ s).scratch = s.scratch := by
  unfold closeHitAt
  try simp only []
  all_goals repeat' split
  all_goals first | simp_all | rfl
@[simp] theorem trailingEdge_scratch (c fine end_ : Nat) (s : State) : (trailingEdge c fine end_ s).scratch = s.scratch := by
  unfold trailingEdge
  try simp only []
  all_goals repeat' split
  all_goals first | simp_all | rfl
@[simp] theorem goInactive_scratch (start : Bool) (c : Nat) (s : State) : (goInactive start c s).scratch = s.scratch := by
  unfold goInactive
  try simp only []
  all_goals repeat' split
  all_goals first | simp_all | rfl
@[simp] theorem settleDiscs_scratch (start : Bool) (s : State) : (settleDiscs start s).scratch = s.scratch := by
  unfold settleDiscs
  try simp only []
  all_goals repeat' split
  all_goals first | simp_all | rfl
@[simp] theorem quarantine_scratch (c cause : Nat) (s : State) : (quarantine c cause s).scratch = s.scratch := by
  unfold quarantine
  try simp only []
  all_goals repeat' split
  all_goals first | simp_all | rfl
@[simp] theorem returned_scratch (n : Nat) (s : State) : (returned n s).scratch = s.scratch := by
  unfold returned
  try simp only []
  all_goals repeat' split
  all_goals first | simp_all | rfl
@[simp] theorem refreshed_scratch (n k : Nat) (s : State) : (refreshed n k s).scratch = s.scratch := by
  unfold refreshed
  try simp only []
  all_goals repeat' split
  all_goals first | simp_all | rfl
@[simp] theorem endQuarantine_scratch (c : Nat) (s : State) : (endQuarantine c s).scratch = s.scratch := by
  unfold endQuarantine
  try simp only []
  all_goals repeat' split
  all_goals first | simp_all | rfl

/-! ### Machine/Power.lean -/

@[simp] theorem State.setLane_scratch (p : Nat) (l : LaneSt) (s : State) : (State.setLane p l s).scratch = s.scratch := by
  unfold State.setLane
  try simp only []
  all_goals repeat' split
  all_goals first | simp_all | rfl
@[simp] theorem saveEq_scratch (p : Nat) (s : State) : (saveEq p s).scratch = s.scratch := by
  unfold saveEq
  try simp only []
  all_goals repeat' split
  all_goals first | simp_all | rfl
@[simp] theorem restartEq_scratch (p : Nat) (s : State) : (restartEq p s).scratch = s.scratch := by
  unfold restartEq
  try simp only []
  all_goals repeat' split
  all_goals first | simp_all | rfl
@[simp] theorem setQuadConv_scratch (q : Nat) (r : Option QuadRun) (s : State) :
    (setQuadConv q r s).scratch = s.scratch := by
  unfold setQuadConv
  try simp only []
  all_goals repeat' split
  all_goals first | simp_all | rfl
@[simp] theorem chainStop_scratch (bp c : Nat) (s : State) : (chainStop bp c s).scratch = s.scratch := by
  unfold chainStop
  try simp only []
  all_goals repeat' split
  all_goals first | simp_all | rfl
@[simp] theorem tdcReturn_scratch (g : Nat) (s : State) : (tdcReturn g s).scratch = s.scratch := by
  unfold tdcReturn
  try simp only []
  all_goals repeat' split
  all_goals first | simp_all | rfl
@[simp] theorem tdcLeave_scratch (q : Nat) (s : State) : (tdcLeave q s).scratch = s.scratch := by
  unfold tdcLeave
  try simp only []
  all_goals repeat' split
  all_goals first | simp_all | rfl
@[simp] theorem monReturn_scratch (s : State) : (monReturn s).scratch = s.scratch := by
  unfold monReturn
  try simp only []
  all_goals repeat' split
  all_goals first | simp_all | rfl
@[simp] theorem lampsUnknown_scratch (s : State) : (lampsUnknown s).scratch = s.scratch := by
  unfold lampsUnknown
  try simp only []
  all_goals repeat' split
  all_goals first | simp_all | rfl
@[simp] theorem fnReturned_scratch (n : Nat) (s : State) : (fnReturned n s).scratch = s.scratch := by
  unfold fnReturned
  try simp only []
  all_goals repeat' split
  all_goals first | simp_all | rfl
@[simp] theorem darken_scratch (p : Nat) (s : State) : (darken p s).scratch = s.scratch := by
  unfold darken
  try simp only []
  all_goals repeat' split
  all_goals first | simp_all | rfl
@[simp] theorem takeState_scratch (n : Nat) (t : PState) (s : State) : (takeState n t s).scratch = s.scratch := by
  unfold takeState
  try simp only []
  all_goals repeat' split
  all_goals first | simp_all | rfl
@[simp] theorem restLanes_scratch (n : Nat) (s : State) : (restLanes n s).scratch = s.scratch := by
  unfold restLanes
  try simp only []
  all_goals repeat' split
  all_goals first | simp_all | rfl
@[simp] theorem startExit_scratch (n : Nat) (t : PState) (s : State) : (startExit n t s).scratch = s.scratch := by
  unfold startExit
  try simp only []
  all_goals repeat' split
  all_goals first | simp_all | rfl
@[simp] theorem wakeFn_scratch (n : Nat) (s : State) : (wakeFn n s).scratch = s.scratch := by
  unfold wakeFn
  try simp only []
  all_goals repeat' split
  all_goals first | simp_all | rfl
@[simp] theorem moveTo_scratch (n : Nat) (t : PState) (s : State) : (moveTo n t s).scratch = s.scratch := by
  unfold moveTo
  try simp only []
  all_goals repeat' split
  all_goals first | simp_all | rfl
@[simp] theorem leaveOff_scratch (ports : Bool) (s : State) : (leaveOff ports s).scratch = s.scratch := by
  unfold leaveOff
  try simp only []
  all_goals repeat' split
  all_goals first | simp_all | rfl
@[simp] theorem allOff_scratch (s : State) : (allOff s).scratch = s.scratch := by
  unfold allOff
  try simp only []
  all_goals repeat' split
  all_goals first | simp_all | rfl
@[simp] theorem cancelReport_scratch (target mode : Mode) (s : State) :
    (cancelReport target mode s).scratch = s.scratch := by
  unfold cancelReport
  try simp only []
  all_goals repeat' split
  all_goals first | simp_all | rfl
@[simp] theorem cancelPending_scratch (s : State) : (cancelPending s).scratch = s.scratch := by
  unfold cancelPending
  try simp only []
  all_goals repeat' split
  all_goals first | simp_all | rfl
@[simp] theorem chainsStop_scratch (s : State) : (chainsStop s).scratch = s.scratch := by
  unfold chainsStop
  try simp only []
  all_goals repeat' split
  all_goals first | simp_all | rfl
@[simp] theorem wakeLoops_scratch (s : State) : (wakeLoops s).scratch = s.scratch := by
  unfold wakeLoops
  try simp only []
  all_goals repeat' split
  all_goals first | simp_all | rfl
@[simp] theorem enterMode_scratch (m : Mode) (s : State) : (enterMode m s).scratch = s.scratch := by
  unfold enterMode
  try simp only []
  all_goals repeat' split
  all_goals first | simp_all | rfl
@[simp] theorem noteIdle_scratch (s : State) : (noteIdle s).scratch = s.scratch := by
  unfold noteIdle
  try simp only []
  all_goals repeat' split
  all_goals first | simp_all | rfl

/-! ### Machine/Lines.lean -/

@[simp] theorem putLine_scratch (p : Nat) (l : Line) (s : State) : (putLine p l s).scratch = s.scratch := by
  unfold putLine
  try simp only []
  all_goals repeat' split
  all_goals first | simp_all | rfl
@[simp] theorem sendFrame_scratch (p f content : Nat) (s : State) : (sendFrame p f content s).scratch = s.scratch := by
  unfold sendFrame
  try simp only []
  all_goals repeat' split
  all_goals first | simp_all | rfl
@[simp] theorem sendLanes_scratch (g : Nat) (lead : List Bool) (f : Nat → Nat → List Ch) (s : State) :
    (sendLanes g lead f s).scratch = s.scratch := by
  unfold sendLanes
  refine (State.drew_scratch ..).trans (overList_scratch _ _ _ fun c t => ?_)
  simp only []
  repeat' split
  all_goals first | rfl | simp
@[simp] theorem sendBond_scratch (g : Nat) (l : List Ch) (s : State) : (sendBond g l s).scratch = s.scratch := by
  unfold sendBond
  try simp only []
  all_goals repeat' split
  all_goals first | simp_all | rfl
@[simp] theorem sendWords_scratch (p : Nat) (lead : List Bool) (l : List LaneWord) (s : State) :
    (sendWords p lead l s).scratch = s.scratch := by
  unfold sendWords
  try simp only []
  all_goals repeat' split
  all_goals first | simp_all | rfl
@[simp] theorem noteMarker_scratch (p : Nat) (s : State) : (noteMarker p s).scratch = s.scratch := by
  unfold noteMarker
  try simp only []
  all_goals repeat' split
  all_goals first | simp_all | rfl
@[simp] theorem sendMarkers_scratch (g : Nat) (ends : Bool) (s : State) : (sendMarkers g ends s).scratch = s.scratch := by
  unfold sendMarkers
  refine overList_scratch _ _ _ fun c t => ?_
  repeat' split
  all_goals simp
@[simp] theorem sendAbort_scratch (p : Nat) (s : State) : (sendAbort p s).scratch = s.scratch := by
  unfold sendAbort
  try simp only []
  all_goals repeat' split
  all_goals first | simp_all | rfl
@[simp] theorem sendIdle_scratch (g : Nat) (lead : List Bool) (n m : Nat) (s : State) :
    (sendIdle g lead n m s).scratch = s.scratch := by
  unfold sendIdle
  try simp only []
  all_goals repeat' split
  all_goals first | simp_all | rfl
@[simp] theorem startLines_scratch (n : Nat) (sleeping : Bool) (s : State) :
    (startLines n sleeping s).scratch = s.scratch := by
  unfold startLines
  try simp only []
  all_goals repeat' split
  all_goals first | simp_all | rfl
@[simp] theorem startPorts_scratch (s : State) : (startPorts s).scratch = s.scratch := by
  unfold startPorts
  try simp only []
  all_goals repeat' split
  all_goals first | simp_all | rfl
@[simp] theorem sendPattern_scratch (p : Nat) (s : State) : (sendPattern p s).scratch = s.scratch := by
  unfold sendPattern
  try simp only []
  all_goals repeat' split
  all_goals first | simp_all | rfl
@[simp] theorem checkPattern_scratch (p : Nat) (s : State) : (checkPattern p s).scratch = s.scratch := by
  unfold checkPattern
  try simp only []
  all_goals repeat' split
  all_goals first | simp_all | rfl
@[simp] theorem testPatterns_scratch (s : State) : (testPatterns s).scratch = s.scratch := by
  unfold testPatterns
  try simp only []
  all_goals repeat' split
  all_goals first | simp_all | rfl

/-! ### Machine/Sides.lean -/

@[simp] theorem respond_scratch (side : Side) (r : Resp) (s : State) : (respond side r s).scratch = s.scratch := by
  unfold respond
  try simp only []
  all_goals repeat' split
  all_goals first | simp_all | rfl
@[simp] theorem mirror_scratch (side : Side) (r : Resp) (s : State) : (mirror side r s).scratch = s.scratch := by
  unfold mirror
  try simp only []
  all_goals repeat' split
  all_goals first | simp_all | rfl
@[simp] theorem windowPut_scratch (e : WinEntry) (s : State) : (windowPut e s).scratch = s.scratch := by
  unfold windowPut
  try simp only []
  all_goals repeat' split
  all_goals first | simp_all | rfl
@[simp] theorem ackHost_scratch (side : Side) (id : BitVec 16) (gd : Word) (s : State) :
    (ackHost side id gd s).scratch = s.scratch := by
  unfold ackHost
  try simp only []
  all_goals repeat' split
  all_goals first | simp_all | rfl
@[simp] theorem refuseHost_scratch (side : Side) (id : BitVec 16) (op : Nat) (r : Reason) (test grp : Nat) (s : State) :
    (refuseHost side id op r test grp s).scratch = s.scratch := by
  unfold refuseHost
  try simp only []
  all_goals repeat' split
  all_goals first | simp_all | rfl
@[simp] theorem setLive_scratch (side : Side) (n : Nat) (s : State) : (setLive side n s).scratch = s.scratch := by
  unfold setLive
  try simp only []
  all_goals repeat' split
  all_goals first | simp_all | rfl
@[simp] theorem setRet_scratch (side : Side) (r : Option Ret) (s : State) : (setRet side r s).scratch = s.scratch := by
  unfold setRet
  try simp only []
  all_goals repeat' split
  all_goals first | simp_all | rfl
@[simp] theorem flagHeld_scratch (s : State) : (flagHeld s).scratch = s.scratch := by
  unfold flagHeld
  try simp only []
  all_goals repeat' split
  all_goals first | simp_all | rfl
@[simp] theorem enterHoldover_scratch (s : State) : (enterHoldover s).scratch = s.scratch := by
  unfold enterHoldover
  try simp only []
  all_goals repeat' split
  all_goals first | simp_all | rfl
@[simp] theorem setStep_scratch (n : Nat) (s : State) : (setStep n s).scratch = s.scratch := by
  unfold setStep
  try simp only []
  all_goals repeat' split
  all_goals first | simp_all | rfl
@[simp] theorem backToSearch_scratch (s : State) : (backToSearch s).scratch = s.scratch := by
  unfold backToSearch
  try simp only []
  all_goals repeat' split
  all_goals first | simp_all | rfl
@[simp] theorem steer_scratch (s : State) : (steer s).scratch = s.scratch := by
  unfold steer
  try simp only []
  all_goals repeat' split
  all_goals first | simp_all | rfl
@[simp] theorem loneReturn_scratch (side : Side) (s : State) : (loneReturn side s).scratch = s.scratch := by
  unfold loneReturn
  try simp only []
  all_goals repeat' split
  all_goals first | simp_all | rfl
@[simp] theorem afterClaims_scratch (before s : State) : (afterClaims before s).scratch = s.scratch := by
  unfold afterClaims
  try simp only []
  all_goals repeat' split
  all_goals first | simp_all | rfl
@[simp] theorem settled_scratch (f : State → State) (s : State) (hf : ∀ t, (f t).scratch = t.scratch) :
    (settled f s).scratch = s.scratch := by
  unfold settled
  try simp only []
  all_goals repeat' split
  all_goals first | simp_all | rfl
@[simp] theorem loneTurn_scratch (s : State) : (loneTurn s).scratch = s.scratch := by
  unfold loneTurn
  try simp only []
  all_goals repeat' split
  all_goals first | simp_all | rfl
@[simp] theorem queueSnapshot_scratch (side : Side) (ret : Bool) (s : State) :
    (queueSnapshot side ret s).scratch = s.scratch := by
  unfold queueSnapshot
  try simp only []
  all_goals repeat' split
  all_goals first | simp_all | rfl
@[simp] theorem judgeHealth_scratch (side : Side) (s : State) : (judgeHealth side s).scratch = s.scratch := by
  unfold judgeHealth
  try simp only []
  all_goals repeat' split
  all_goals first | simp_all | rfl
@[simp] theorem recomputeClaims_scratch (s : State) : (recomputeClaims s).scratch = s.scratch := by
  unfold recomputeClaims
  try simp only []
  all_goals repeat' split
  all_goals first | simp_all | rfl

/-! ### Machine/Clock.lean -/

@[simp] theorem measurePhase_scratch (s : State) : (measurePhase s).scratch = s.scratch := by
  unfold measurePhase
  try simp only []
  all_goals repeat' split
  all_goals first | simp_all | rfl
@[simp] theorem loseLock_scratch (side : Side) (s : State) : (loseLock side s).scratch = s.scratch := by
  unfold loseLock
  try simp only []
  all_goals repeat' split
  all_goals first | simp_all | rfl
@[simp] theorem takeRef_scratch (side : Side) (slew : Bool) (s : State) : (takeRef side slew s).scratch = s.scratch := by
  unfold takeRef
  try simp only []
  all_goals repeat' split
  all_goals first | simp_all | rfl
@[simp] theorem abandonCals_scratch (s : State) : (abandonCals s).scratch = s.scratch := by
  unfold abandonCals
  try simp only []
  all_goals repeat' split
  all_goals first | simp_all | rfl
@[simp] theorem dropPulses_scratch (s : State) : (dropPulses s).scratch = s.scratch := by
  unfold dropPulses
  try simp only []
  all_goals repeat' split
  all_goals first | simp_all | rfl
@[simp] theorem safeEpisode_scratch (s : State) : (safeEpisode s).scratch = s.scratch := by
  unfold safeEpisode
  try simp only []
  all_goals repeat' split
  all_goals first | simp_all | rfl
@[simp] theorem enterSafe_scratch (s : State) : (enterSafe s).scratch = s.scratch := by
  unfold enterSafe
  extract_lets s1 s2 s3 _ c _ r s4 s5
  have h2 : s2.scratch = s.scratch := by
    show (safeEpisode (abandonCals (dropPulses (chainsStop (cancelPending s))))).scratch = _
    rw [safeEpisode_scratch, abandonCals_scratch, dropPulses_scratch, chainsStop_scratch, cancelPending_scratch]
  clear_value s2
  have h4 : s4.scratch = s.scratch := by
    show (raiseFlag 0x302 4 (setStep 6 { s3 with clk := c, rst := r })).scratch = _
    rw [raiseFlag_scratch, setStep_scratch]
    exact h2
  clear_value s4
  show (recomputeClaims (allOff s4)).scratch = _
  rw [recomputeClaims_scratch, allOff_scratch, h4]
@[simp] theorem goUnsynced_scratch (s : State) : (goUnsynced s).scratch = s.scratch := by
  unfold goUnsynced
  try simp only []
  all_goals repeat' split
  all_goals first | simp_all | rfl
@[simp] theorem releaseOrbit_scratch (chip : Bool) (s : State) : (releaseOrbit chip s).scratch = s.scratch := by
  unfold releaseOrbit
  try simp only []
  all_goals repeat' split
  all_goals first | simp_all | rfl
@[simp] theorem dropTemps_scratch (s : State) : (dropTemps s).scratch = s.scratch := by
  unfold dropTemps
  try simp only []
  all_goals repeat' split
  all_goals first | simp_all | rfl
@[simp] theorem takeReturn_scratch (side : Side) (s : State) : (takeReturn side s).scratch = s.scratch := by
  unfold takeReturn
  try simp only []
  all_goals repeat' split
  all_goals first | simp_all | rfl

/-! ### Machine/Reset.lean -/

@[simp] theorem cutFuses_scratch (s : State) : (cutFuses s).scratch = s.scratch := by
  unfold cutFuses
  refine foldl_scratch _ _ _ fun t e => ?_
  split <;> rfl
@[simp] theorem clearBoard_scratch (s : State) : (clearBoard s).scratch = s.scratch := by
  unfold clearBoard
  try simp only []
  all_goals repeat' split
  all_goals first | simp_all | rfl
@[simp] theorem clearBuffer_scratch (s : State) : (clearBuffer s).scratch = s.scratch := by
  unfold clearBuffer
  try simp only []
  all_goals repeat' split
  all_goals first | simp_all | rfl
@[simp] theorem clearUnits_scratch (s : State) : (clearUnits s).scratch = [] := by simp [clearUnits]
@[simp] theorem restartEqs_scratch (s : State) : (restartEqs s).scratch = s.scratch := by
  unfold restartEqs
  try simp only []
  all_goals repeat' split
  all_goals first | simp_all | rfl

@[simp] theorem coreReset_scratch (s : State) : (coreReset s).scratch = [] := by
  unfold coreReset
  simp only []
  split <;> simp

@[simp] theorem chipReset_scratch (s : State) : (chipReset s).scratch = [] := by simp [chipReset, clearBoard]
@[simp] theorem releaseLines_scratch (s : State) : (releaseLines s).scratch = s.scratch := by
  unfold releaseLines
  try simp only []
  all_goals repeat' split
  all_goals first | simp_all | rfl
@[simp] theorem controlReset_scratch (s : State) : (controlReset s).scratch = s.scratch := by
  unfold controlReset
  try simp only []
  all_goals repeat' split
  all_goals first | simp_all | rfl
@[simp] theorem writeCause_scratch (fresh : Bool) (c : Causes) (r : Reach) (s : State) :
    (writeCause fresh c r s).scratch = s.scratch := by
  unfold writeCause
  try simp only []
  all_goals repeat' split
  all_goals first | simp_all | rfl
@[simp] theorem beginEpisode_scratch (s : State) : (beginEpisode s).scratch = s.scratch := by
  unfold beginEpisode
  try simp only []
  all_goals repeat' split
  all_goals first | simp_all | rfl
@[simp] theorem cancelOf_scratch (before s : State) : (cancelOf before s).scratch = s.scratch := by
  unfold cancelOf
  try simp only []
  all_goals repeat' split
  all_goals first | simp_all | rfl
@[simp] theorem beginSearch_scratch (s : State) : (beginSearch s).scratch = s.scratch := by
  unfold beginSearch
  try simp only []
  all_goals repeat' split
  all_goals first | simp_all | rfl
@[simp] theorem startSequence_scratch (s : State) : (startSequence s).scratch = s.scratch := by
  unfold startSequence
  try simp only []
  all_goals repeat' split
  all_goals first | simp_all | rfl
@[simp] theorem calReport_scratch (abandoned monitor : Bool) (s : State) :
    (calReport abandoned monitor s).scratch = s.scratch := by
  unfold calReport
  try simp only []
  all_goals repeat' split
  all_goals first | simp_all | rfl
@[simp] theorem warmReports_scratch (s : State) : (warmReports s).scratch = s.scratch := by
  unfold warmReports
  try simp only []
  all_goals repeat' split
  all_goals first | simp_all | rfl

/-! ### Machine/Link.lean -/

@[simp] theorem dropMessage_scratch (p : Nat) (s : State) : (dropMessage p s).scratch = s.scratch := by
  unfold dropMessage
  try simp only []
  all_goals repeat' split
  all_goals first | simp_all | rfl
@[simp] theorem dropPart_scratch (side : Side) (s : State) : (dropPart side s).scratch = s.scratch := by
  unfold dropPart
  try simp only []
  all_goals repeat' split
  all_goals first | simp_all | rfl
@[simp] theorem completeCommand_scratch (side : Side) (id : BitVec 16) (w : Word) (s : State) :
    (completeCommand side id w s).scratch = s.scratch := by
  unfold completeCommand
  try simp only []
  all_goals repeat' split
  all_goals first | simp_all | rfl
@[simp] theorem commandPart_scratch (side : Side) (payload : BitVec 44) (s : State) :
    (commandPart side payload s).scratch = s.scratch := by
  unfold commandPart
  try simp only []
  all_goals repeat' split
  all_goals first | simp_all | rfl
@[simp] theorem chunkIn_scratch (p : Nat) (first last : Bool) (bytes : List Byte) (s : State) :
    (chunkIn p first last bytes s).scratch = s.scratch := by
  unfold chunkIn
  try simp only []
  all_goals repeat' split
  all_goals first | simp_all | rfl
@[simp] theorem noteFc_scratch (side : Side) (fc : BitVec 8) (s : State) : (noteFc side fc s).scratch = s.scratch := by
  unfold noteFc
  try simp only []
  all_goals repeat' split
  all_goals first | simp_all | rfl
@[simp] theorem noteFrame_scratch (side : Side) (bad : Bool) (s : State) : (noteFrame side bad s).scratch = s.scratch := by
  unfold noteFrame
  try simp only []
  all_goals repeat' split
  all_goals first | simp_all | rfl
@[simp] theorem loopFrame_scratch (side : Side) (ok : Bool) (hdr : BitVec 2) (fc : BitVec 8) (payload : BitVec 44) (s : State) :
    (loopFrame side ok hdr fc payload s).scratch = s.scratch := by
  unfold loopFrame
  try simp only []
  all_goals repeat' split
  all_goals first | simp_all | rfl
@[simp] theorem sentBytes_scratch (p k : Nat) (m : TmSend) (s : State) : (sentBytes p k m s).scratch = s.scratch := by
  unfold sentBytes
  try simp only []
  all_goals repeat' split
  all_goals first | simp_all | rfl
@[simp] theorem snapSent_scratch (side : Side) (f : SnapFrame) (s : State) : (snapSent side f s).scratch = s.scratch := by
  unfold snapSent
  try simp only []
  all_goals repeat' split
  all_goals first | simp_all | rfl
@[simp] theorem uplinkContent_scratch (side : Side) (s : State) : (uplinkContent side s).2.scratch = s.scratch := by
  unfold uplinkContent
  extract_lets p status tagged timeChunk snap
  have h1 : status.2.scratch = s.scratch := rfl
  have h2 : ∀ n u, (tagged n u).2.scratch = u.scratch := fun _ _ => rfl
  have h3 : ∀ m, (timeChunk m).2.scratch = s.scratch := fun m => sentBytes_scratch ..
  have h4 : ∀ x, snap = some x → x.2.scratch = s.scratch := by
    intro x hx
    simp only [snap] at hx
    split at hx
    · obtain rfl := Option.some.inj hx
      simp [h2]
    · cases hx
  clear_value snap timeChunk tagged status
  repeat' split
  all_goals first | exact h1 | exact h3 _ | (rw [h2]) | (exact h4 _ rfl) | skip
@[simp] theorem deliverMap_scratch (p : Nat) (map : BitVec 16) (bcid : BitVec 8) (s : State) :
    (deliverMap p map bcid s).scratch = s.scratch := by
  unfold deliverMap
  try simp only []
  all_goals repeat' split
  all_goals first | simp_all | rfl
@[simp] theorem partnerContent_scratch (p : Nat) (s : State) : (partnerContent p s).2.scratch = s.scratch := by
  unfold partnerContent
  try simp only []
  all_goals repeat' split
  all_goals first | simp_all | rfl

/-! ### Machine/Operands.lean -/

@[simp] theorem setReg_scratch (i : Nat) (r : Reg) (v : Word) (s : State) : (setReg i r v s).scratch = s.scratch := by
  unfold setReg
  try simp only []
  all_goals repeat' split
  all_goals first | simp_all | rfl

/-! ### Machine/Flags.lean -/

@[simp] theorem setFlags_scratch (i : Nat) (o : Alu) (s : State) : (setFlags i o s).scratch = s.scratch := by
  unfold setFlags
  try simp only []
  all_goals repeat' split
  all_goals first | simp_all | rfl

/-! ### Machine/Issue.lean -/

@[simp] theorem issued_keeps_scratch (by_ : Issuer) (s : State) : (issued by_ s).scratch = s.scratch := by cases by_ <;> rfl
@[simp] theorem advance_scratch (by_ : Issuer) (s : State) : (advance by_ s).scratch = s.scratch := by
  unfold advance
  try simp only []
  all_goals repeat' split
  all_goals first | simp_all | rfl
@[simp] theorem clearF_scratch (by_ : Issuer) (refusable : Bool) (s : State) :
    (clearF by_ refusable s).scratch = s.scratch := by
  unfold clearF
  try simp only []
  all_goals repeat' split
  all_goals first | simp_all | rfl
@[simp] theorem acked_scratch (by_ : Issuer) (gd : Word) (s : State) : (acked by_ gd s).scratch = s.scratch := by
  unfold acked
  try simp only []
  all_goals repeat' split
  all_goals first | simp_all | rfl
@[simp] theorem complete_scratch (by_ : Issuer) (refusable : Bool) (gd : Word) (s : State) :
    (complete by_ refusable gd s).scratch = s.scratch := by
  unfold complete
  try simp only []
  all_goals repeat' split
  all_goals first | simp_all | rfl
@[simp] theorem refused_scratch (by_ : Issuer) (op : Nat) (r : Reason) (test grp : Nat) (s : State) :
    (refused by_ op r test grp s).scratch = s.scratch := by
  unfold refused
  try simp only []
  all_goals repeat' split
  all_goals first | simp_all | rfl
@[simp] theorem faultSquare_scratch (i cause : Nat) (s : State) : (faultSquare i cause s).scratch = s.scratch := by
  unfold faultSquare
  try simp only []
  all_goals repeat' split
  all_goals first | simp_all | rfl
@[simp] theorem release_scratch (by_ : Issuer) (s : State) : (release by_ s).scratch = s.scratch := by
  unfold release
  try simp only []
  all_goals repeat' split
  all_goals first | simp_all | rfl

@[simp] theorem ite_st_scratch (c : Prop) [Decidable c] (a b : Outc) :
    (if c then a else b).st.scratch = if c then a.st.scratch else b.st.scratch := by split <;> rfl
@[simp] theorem settle_scratch (by_ : Issuer) (op : Nat) (rf : Bool) (o : Outc) :
    (settle by_ op rf o).scratch = o.st.scratch := by
  cases o <;> simp only [settle, Outc.st] <;> (try cases by_) <;> simp
theorem issue_scratch (by_ : Issuer) (op : Nat) (rf : Bool) (body : State → Outc) (s : State) (h : ∀ t, (body t).st.scratch = t.scratch) :
    (issue by_ op rf body s).scratch = s.scratch := by
  unfold issue; split
  · rw [settle_scratch, h, issued_keeps_scratch]
  · rfl
theorem issueProg_scratch (by_ : Issuer) (op : Nat) (body : State → Outc) (s : State) (h : ∀ t, (body t).st.scratch = t.scratch) :
    (issueProg by_ op body s).scratch = s.scratch := by
  unfold issueProg; apply issue_scratch; intro t; split
  · rfl
  · exact h t
@[simp] theorem result_st_scratch (i : Nat) (gd : Reg) (v : Word) (s : State) :
    (result i gd v s).st.scratch = s.scratch := setReg_scratch ..
@[simp] theorem refuse_st_scratch (r : Reason) (s : State) : (refuse r s).st.scratch = s.scratch := rfl

/-! ### Machine/Flow.lean -/

@[simp] theorem leaveSquare_scratch (t : Nat) (st : SqState) (d : Deferred) (s : State) :
    (leaveSquare t st d s).scratch = s.scratch := by
  unfold leaveSquare
  try simp only []
  all_goals repeat' split
  all_goals first | simp_all | rfl

/-! ### Machine/Slices.lean -/

@[simp] theorem edgeOf_scratch (c : Nat) (lead : Bool) (raw e : BitVec 7) (s : State) :
    (edgeOf c lead raw e s).2.scratch = s.scratch := by
  unfold edgeOf
  try simp only []
  all_goals repeat' split
  all_goals first | simp_all | rfl
@[simp] theorem firePulser_scratch (c : Nat) (s : State) : (firePulser c s).scratch = s.scratch := by
  unfold firePulser
  try simp only []
  all_goals repeat' split
  all_goals first | simp_all | rfl
@[simp] theorem modLine_scratch (n : Nat) (f : TbLine → TbLine) (s : State) : (modLine n f s).scratch = s.scratch := by
  unfold modLine
  try simp only []
  all_goals repeat' split
  all_goals first | simp_all | rfl
@[simp] theorem lineEdge_scratch (n : Nat) (rising : Bool) (at_ : Nat) (s : State) :
    (lineEdge n rising at_ s).scratch = s.scratch := by
  unfold lineEdge
  try simp only []
  all_goals repeat' split
  all_goals first | simp_all | rfl
@[simp] theorem captureEdge_scratch (n : Nat) (rising : Bool) (raw e : BitVec 7) (s : State) :
    (captureEdge n rising raw e s).scratch = s.scratch := by
  unfold captureEdge
  try simp only []
  all_goals repeat' split
  all_goals first | simp_all | rfl

/-! ### Machine/Filter.lean -/

@[simp] theorem chainOutput_scratch (c back idx : Nat) (t : FltSet) (v : ChainVal) (s : State) :
    (chainOutput c back idx t v s).scratch = s.scratch := by
  unfold chainOutput
  try simp only []
  all_goals repeat' split
  all_goals first | simp_all | rfl
@[simp] theorem chainStep_scratch (c : Nat) (n : Samp) (s : State) : (chainStep c n s).scratch = s.scratch := by
  unfold chainStep
  try simp only []
  all_goals repeat' split
  all_goals first | simp_all | rfl

/-! ### Machine/Adc.lean -/

@[simp] theorem accumulate_scratch (c : Nat) (xA xB : Int) (s : State) : (accumulate c xA xB s).scratch = s.scratch := by
  unfold accumulate
  try simp only []
  all_goals repeat' split
  all_goals first | simp_all | rfl
@[simp] theorem trackMinMax_scratch (c : Nat) (orb : Word) (xA xB : Int) (s : State) :
    (trackMinMax c orb xA xB s).scratch = s.scratch := by
  unfold trackMinMax
  try simp only []
  all_goals repeat' split
  all_goals first | simp_all | rfl
@[simp] theorem captureSample_scratch (c : Nat) (v : Samp) (s : State) : (captureSample c v s).scratch = s.scratch := by
  unfold captureSample
  try simp only []
  all_goals repeat' split
  all_goals first | simp_all | rfl
@[simp] theorem deliver_scratch (c : Nat) (v : Samp) (s : State) : (deliver c v s).scratch = s.scratch := by
  unfold deliver
  try simp only []
  all_goals repeat' split
  all_goals first | simp_all | rfl

/-! ### Machine/Marks.lean -/

@[simp] theorem chargeCredit_scratch (w : Bool) (cost : Nat) (s : State) : (chargeCredit w cost s).scratch = s.scratch := by
  unfold chargeCredit
  try simp only []
  all_goals repeat' split
  all_goals first | simp_all | rfl
@[simp] theorem refillCredits_scratch (n : Nat) (s : State) : (refillCredits n s).scratch = s.scratch := by
  unfold refillCredits
  try simp only []
  all_goals repeat' split
  all_goals first | simp_all | rfl
@[simp] theorem startCredits_scratch (s : State) : (startCredits s).scratch = s.scratch := by
  unfold startCredits
  try simp only []
  all_goals repeat' split
  all_goals first | simp_all | rfl
@[simp] theorem thinWindow_scratch (orb : Word) (l : List Nat) (s : State) : (thinWindow orb l s).scratch = s.scratch := by
  unfold thinWindow
  try simp only []
  all_goals repeat' split
  all_goals first | simp_all | rfl

theorem decideWindow_scratch {w : Window} {cost : Nat → Nat} {s t : State} (h : decideWindow w cost s = some t) :
    t.scratch = s.scratch := by
  unfold decideWindow at h
  extract_lets n at h
  split at h
  · cases h
  · cases h; simp

@[simp] theorem freshWindow_scratch (t : Tag) (mseq : Nat) (s : State) : (freshWindow t mseq s).1.scratch = s.scratch := by
  unfold freshWindow
  extract_lets p first first2 w cost
  split
  · next h => have e := decideWindow_scratch h; exact e
  · exact thinWindow_scratch ..

@[simp] theorem openWindow_scratch (t : Tag) (mseq : Nat) (s : State) : (openWindow t mseq s).1.scratch = s.scratch := by
  unfold openWindow
  simp only []
  repeat' split
  all_goals first
    | rfl
    | exact freshWindow_scratch ..
    | exact thinWindow_scratch ..
    | (rename_i h; have e := decideWindow_scratch h; exact e)
@[simp] theorem makeMark_scratch (src : MarkSrc) (line ch : Nat) (tag : BitVec 16) (win : Bool) (t : Tag) (s : State) :
    (makeMark src line ch tag win t s).scratch = s.scratch := by
  unfold makeMark
  try simp only []
  all_goals repeat' split
  all_goals first | simp_all | rfl
@[simp] theorem fireDrivers_scratch (src : Nat) (s : State) : (fireDrivers src s).scratch = s.scratch := by
  unfold fireDrivers
  try simp only []
  all_goals repeat' split
  all_goals first | simp_all | rfl
@[simp] theorem driveLine_scratch (n : Nat) (s : State) : (driveLine n s).scratch = s.scratch := by
  unfold driveLine
  try simp only []
  all_goals repeat' split
  all_goals first | simp_all | rfl
@[simp] theorem captureTrigger_scratch (t : Tag) (s : State) : (captureTrigger t s).scratch = s.scratch := by
  unfold captureTrigger
  try simp only []
  all_goals repeat' split
  all_goals first | simp_all | rfl
@[simp] theorem compensatedEdge_scratch (n : Nat) (t : Tag) (s : State) : (compensatedEdge n t s).scratch = s.scratch := by
  unfold compensatedEdge
  try simp only []
  all_goals repeat' split
  all_goals first | simp_all | rfl

/-! ### Machine/Acquire.lean -/

@[simp] theorem demote_scratch (c : Nat) (h : Hit) (w : Waiting) (amp : Int) (s : State) :
    (demote c h w amp s).scratch = s.scratch := by
  unfold demote
  try simp only []
  all_goals repeat' split
  all_goals first | simp_all | rfl
@[simp] theorem hitRecord_scratch (c : Nat) (h : Hit) (l : List Samp) (s : State) :
    (hitRecord c h l s).scratch = s.scratch := by
  unfold hitRecord
  try simp only []
  all_goals repeat' split
  all_goals first | simp_all | rfl
@[simp] theorem endChannel_scratch (i c : Nat) (s : State) : (endChannel i c s).scratch = s.scratch := by
  unfold endChannel
  try simp only []
  all_goals repeat' split
  all_goals first | simp_all | rfl
@[simp] theorem nextStart_scratch (i c bp : Nat) (s : State) : (nextStart i c bp s).scratch = s.scratch := by
  unfold nextStart
  try simp only []
  all_goals repeat' split
  all_goals first | simp_all | rfl
@[simp] theorem chargeRecord_scratch (i c : Nat) (r : Waiting) (s : State) : (chargeRecord i c r s).scratch = s.scratch := by
  unfold chargeRecord
  try simp only []
  all_goals repeat' split
  all_goals first | simp_all | rfl
@[simp] theorem closeWRecord_scratch (i c : Nat) (w : Window) (s : State) : (closeWRecord i c w s).scratch = s.scratch := by
  unfold closeWRecord
  try simp only []
  all_goals repeat' split
  all_goals first | simp_all | rfl
@[simp] theorem closeOfOrbit_scratch (k : Word) (c : Cls) (s : State) : (closeOfOrbit k c s).scratch = s.scratch := by
  unfold closeOfOrbit
  try simp only []
  all_goals repeat' split
  all_goals first | simp_all | rfl
@[simp] theorem sRecord_scratch (l : Ledger) (hold : Bool) (c : Nat) (a : SAcc) (s : State) :
    (sRecord l hold c a s).scratch = s.scratch := by
  unfold sRecord
  try simp only []
  all_goals repeat' split
  all_goals first | simp_all | rfl
@[simp] theorem sRecords_scratch (l : Ledger) (hold : Bool) (s : State) : (sRecords l hold s).scratch = s.scratch := by
  unfold sRecords
  try simp only []
  all_goals repeat' split
  all_goals first | simp_all | rfl
@[simp] theorem enterTrailer_scratch (w : Waiting) (l : Ledger) (s : State) :
    (enterTrailer w l s).1.scratch = s.scratch := by
  unfold enterTrailer
  try simp only []
  all_goals repeat' split
  all_goals first | simp_all | rfl
@[simp] theorem tryWaiting_scratch (w : Waiting) (s : State) : (tryWaiting w s).1.scratch = s.scratch := by
  unfold tryWaiting
  try simp only []
  all_goals repeat' split
  all_goals first | simp_all | rfl
@[simp] theorem grantOne_scratch (w : Waiting) (s : State) : (grantOne w s).1.scratch = s.scratch := by
  unfold grantOne
  try simp only []
  all_goals repeat' split
  all_goals first | simp_all | rfl
@[simp] theorem grantTo_scratch (w : Waiting) (s : State) : (grantTo w s).1.scratch = s.scratch := by
  unfold grantTo
  try simp only []
  all_goals repeat' split
  all_goals first | simp_all | rfl
@[simp] theorem grantRegion_scratch (region : Nat) (s : State) : (grantRegion region s).scratch = s.scratch := by
  unfold grantRegion
  try simp only []
  all_goals repeat' split
  all_goals first | simp_all | rfl

@[simp] theorem drainRegion_scratch (region n : Nat) (s : State) : (drainRegion region n s).scratch = s.scratch := by
  induction n generalizing s with
  | zero => rfl
  | succ n ih => exact (ih ..).trans (grantRegion_scratch ..)

@[simp] theorem writeBack_scratch (s : State) : (writeBack s).scratch = s.scratch := by
  unfold writeBack
  try simp only []
  all_goals repeat' split
  all_goals first | simp_all | rfl
@[simp] theorem drainWaiting_scratch (s : State) : (drainWaiting s).scratch = s.scratch := by
  unfold drainWaiting
  exact (writeBack_scratch ..).trans (overList_scratch _ _ _ fun r t => drainRegion_scratch ..)
@[simp] theorem allocCapture_scratch (s : State) : (allocCapture s).scratch = s.scratch := by
  unfold allocCapture
  try simp only []
  all_goals repeat' split
  all_goals first | simp_all | rfl
@[simp] theorem disarm_scratch (s : State) : (disarm s).scratch = s.scratch := by
  unfold disarm
  try simp only []
  all_goals repeat' split
  all_goals first | simp_all | rfl

@[simp] theorem capRecords_scratch (c : Nat) (part : Bool) (n : Nat) (cont : Bool) (l : List Samp) (s : State) :
    (capRecords c part n cont l s).scratch = s.scratch := by
  induction n generalizing cont l s with
  | zero => rfl
  | succ n ih =>
    cases l with
    | nil => rfl
    | cons a r => exact (ih ..).trans (enterRecord_scratch ..)

@[simp] theorem sendCapture_scratch (s : State) : (sendCapture s).scratch = s.scratch := by
  unfold sendCapture
  try simp only []
  all_goals repeat' split
  all_goals first | simp_all | rfl

/-! ### Machine/Led.lean -/

@[simp] theorem modLed_scratch (f : Led → Led) (s : State) : (modLed f s).scratch = s.scratch := by
  unfold modLed
  try simp only []
  all_goals repeat' split
  all_goals first | simp_all | rfl
@[simp] theorem nextRow_scratch (s : State) : (nextRow s).scratch = s.scratch := by
  unfold nextRow
  try simp only []
  all_goals repeat' split
  all_goals first | simp_all | rfl
@[simp] theorem ledServiceEnd_scratch (s : State) : (ledServiceEnd s).scratch = s.scratch := by
  unfold ledServiceEnd
  try simp only []
  all_goals repeat' split
  all_goals first | simp_all | rfl
@[simp] theorem ledKill_scratch (s : State) : (ledKill s).scratch = s.scratch := by
  unfold ledKill
  try simp only []
  all_goals repeat' split
  all_goals first | simp_all | rfl
@[simp] theorem suppressOff_scratch (n : Nat) (s : State) : (suppressOff n s).scratch = s.scratch := by
  unfold suppressOff
  try simp only []
  all_goals repeat' split
  all_goals first | simp_all | rfl
@[simp] theorem firePulse_scratch (d : DuePulse) (s : State) : (firePulse d s).scratch = s.scratch := by
  unfold firePulse
  try simp only []
  all_goals repeat' split
  all_goals first | simp_all | rfl
@[simp] theorem fireRow_scratch (row : Nat) (l : List DuePulse) (s : State) : (fireRow row l s).scratch = s.scratch := by
  unfold fireRow
  try simp only []
  all_goals repeat' split
  all_goals first | simp_all | rfl
@[simp] theorem fireLeds_scratch (s : State) : (fireLeds s).scratch = s.scratch := by
  unfold fireLeds
  try simp only []
  all_goals repeat' split
  all_goals first | simp_all | rfl
@[simp] theorem fireDiag_scratch (s : State) : (fireDiag s).scratch = s.scratch := by
  unfold fireDiag
  try simp only []
  all_goals repeat' split
  all_goals first | simp_all | rfl
@[simp] theorem handTemp_scratch (r : Int) (s : State) : (handTemp r s).scratch = s.scratch := by
  unfold handTemp
  try simp only []
  all_goals repeat' split
  all_goals first | simp_all | rfl
@[simp] theorem flushLed_scratch (s : State) : (flushLed s).scratch = s.scratch := by
  unfold flushLed
  try simp only []
  all_goals repeat' split
  all_goals first | simp_all | rfl
@[simp] theorem pullTrains_scratch (bp : Nat) (hit : Nat → Option Nat) (s : State) :
    (pullTrains bp hit s).scratch = s.scratch := by
  unfold pullTrains
  refine foldl_scratch _ _ _ fun t e => ?_
  split
  · rfl
  · extract_lets r
    split <;> simp
@[simp] theorem scheduleLeds_scratch (s : State) : (scheduleLeds s).scratch = s.scratch := by
  unfold scheduleLeds
  try simp only []
  all_goals repeat' split
  all_goals first | simp_all | rfl
@[simp] theorem skipLeds_scratch (n : Nat) (s : State) : (skipLeds n s).scratch = s.scratch := by
  unfold skipLeds
  try simp only []
  all_goals repeat' split
  all_goals first | simp_all | rfl
@[simp] theorem ledOrbit_scratch (s : State) : (ledOrbit s).scratch = s.scratch := by
  unfold ledOrbit
  try simp only []
  all_goals repeat' split
  all_goals first | simp_all | rfl
@[simp] theorem putTrain_scratch (slot lamp : Nat) (slow : Bool) (count : Nat) (gs ga : Word) (s : State) :
    (putTrain slot lamp slow count gs ga s).scratch = s.scratch := by
  unfold putTrain
  try simp only []
  all_goals repeat' split
  all_goals first | simp_all | rfl

/-! ### Machine/Gaps.lean -/

@[simp] theorem modGap_scratch (f : Gap → Gap) (s : State) : (modGap f s).scratch = s.scratch := by
  unfold modGap
  try simp only []
  all_goals repeat' split
  all_goals first | simp_all | rfl
@[simp] theorem raiseTemp_scratch (s : State) : (raiseTemp s).scratch = s.scratch := by
  unfold raiseTemp
  try simp only []
  all_goals repeat' split
  all_goals first | simp_all | rfl
@[simp] theorem moveSlice_scratch (k c : Nat) (s : State) : (moveSlice k c s).scratch = s.scratch := by
  unfold moveSlice
  try simp only []
  all_goals repeat' split
  all_goals first | simp_all | rfl
@[simp] theorem moveRoles_scratch (k : Nat) (quads : BitVec 4) (s : State) : (moveRoles k quads s).scratch = s.scratch := by
  unfold moveRoles
  try simp only []
  all_goals repeat' split
  all_goals first | simp_all | rfl
@[simp] theorem tdcMoves_scratch (s : State) : (tdcMoves s).scratch = s.scratch := by
  unfold tdcMoves
  try simp only []
  all_goals repeat' split
  all_goals first | simp_all | rfl
@[simp] theorem startTdcRun_scratch (s : State) : (startTdcRun s).scratch = s.scratch := by
  unfold startTdcRun
  try simp only []
  all_goals repeat' split
  all_goals first | simp_all | rfl
@[simp] theorem acceptTdc_scratch (r : TdcRun) (s : State) : (acceptTdc r s).scratch = s.scratch := by
  unfold acceptTdc
  try simp only []
  all_goals repeat' split
  all_goals first | simp_all | rfl
@[simp] theorem acceptDue_scratch (s : State) : (acceptDue s).scratch = s.scratch := by
  unfold acceptDue
  try simp only []
  all_goals repeat' split
  all_goals first | simp_all | rfl
@[simp] theorem endTdcRun_scratch (s : State) : (endTdcRun s).scratch = s.scratch := by
  unfold endTdcRun
  try simp only []
  all_goals repeat' split
  all_goals first | simp_all | rfl
@[simp] theorem gapEndTdc_scratch (s : State) : (gapEndTdc s).scratch = s.scratch := by
  unfold gapEndTdc
  try simp only []
  all_goals repeat' split
  all_goals first | simp_all | rfl
@[simp] theorem laneChoose_scratch (s : State) : (laneChoose s).scratch = s.scratch := by
  unfold laneChoose
  try simp only []
  all_goals repeat' split
  all_goals first | simp_all | rfl
@[simp] theorem alignDue_scratch (s : State) : (alignDue s).scratch = s.scratch := by
  unfold alignDue
  try simp only []
  all_goals repeat' split
  all_goals first | simp_all | rfl
@[simp] theorem beginGap_scratch (s : State) : (beginGap s).scratch = s.scratch := by
  unfold beginGap
  try simp only []
  all_goals repeat' split
  all_goals first | simp_all | rfl
@[simp] theorem withdrawRequests_scratch (s : State) : (withdrawRequests s).scratch = s.scratch := by
  unfold withdrawRequests
  try simp only []
  all_goals repeat' split
  all_goals first | simp_all | rfl
@[simp] theorem cutLane_scratch (s : State) : (cutLane s).scratch = s.scratch := by
  unfold cutLane
  try simp only []
  all_goals repeat' split
  all_goals first | simp_all | rfl
@[simp] theorem alignBack_scratch (s : State) : (alignBack s).scratch = s.scratch := by
  unfold alignBack
  try simp only []
  all_goals repeat' split
  all_goals first | simp_all | rfl
@[simp] theorem endGap_scratch (s : State) : (endGap s).scratch = s.scratch := by
  unfold endGap
  try simp only []
  all_goals repeat' split
  all_goals first | simp_all | rfl
@[simp] theorem gapOrbit_scratch (s : State) : (gapOrbit s).scratch = s.scratch := by
  unfold gapOrbit
  try simp only []
  all_goals repeat' split
  all_goals first | simp_all | rfl
@[simp] theorem startWork_scratch (w : HwWork) (s : State) : (startWork w s).scratch = s.scratch := by
  unfold startWork
  try simp only []
  all_goals repeat' split
  all_goals first | simp_all | rfl

/-! ### Machine/Monitor.lean -/

@[simp] theorem modMon_scratch (f : Mon → Mon) (s : State) : (modMon f s).scratch = s.scratch := by
  unfold modMon
  try simp only []
  all_goals repeat' split
  all_goals first | simp_all | rfl
@[simp] theorem skipConvs_scratch (e n : Nat) (s : State) : (skipConvs e n s).scratch = s.scratch := by
  unfold skipConvs
  try simp only []
  all_goals repeat' split
  all_goals first | simp_all | rfl
@[simp] theorem beginRun_scratch (kind : MonKind) (e n : Nat) (s : State) : (beginRun kind e n s).scratch = s.scratch := by
  unfold beginRun
  try simp only []
  all_goals repeat' split
  all_goals first | simp_all | rfl
@[simp] theorem badEntry_scratch (e : Nat) (s : State) : (badEntry e s).scratch = s.scratch := by
  unfold badEntry
  try simp only []
  all_goals repeat' split
  all_goals first | simp_all | rfl
@[simp] theorem nextInjected_scratch (k : Nat) (s : State) : (nextInjected k s).scratch = s.scratch := by
  unfold nextInjected
  try simp only []
  all_goals repeat' split
  all_goals first | simp_all | rfl
@[simp] theorem nextRegular_scratch (s : State) : (nextRegular s).scratch = s.scratch := by
  unfold nextRegular
  try simp only []
  all_goals repeat' split
  all_goals first | simp_all | rfl
@[simp] theorem startInjected_scratch (k : Nat) (s : State) : (startInjected k s).scratch = s.scratch := by
  unfold startInjected
  try simp only []
  all_goals repeat' split
  all_goals first | simp_all | rfl
@[simp] theorem startRegular_scratch (s : State) : (startRegular s).scratch = s.scratch := by
  unfold startRegular
  try simp only []
  all_goals repeat' split
  all_goals first | simp_all | rfl
@[simp] theorem leaveRun_scratch (r : MonRun) (s : State) : (leaveRun r s).scratch = s.scratch := by
  unfold leaveRun
  try simp only []
  all_goals repeat' split
  all_goals first | simp_all | rfl
@[simp] theorem skipRest_scratch (r : MonRun) (s : State) : (skipRest r s).scratch = s.scratch := by
  unfold skipRest
  try simp only []
  all_goals repeat' split
  all_goals first | simp_all | rfl
@[simp] theorem resumeRun_scratch (r : MonRun) (l : List MonRun) (s : State) : (resumeRun r l s).scratch = s.scratch := by
  unfold resumeRun
  try simp only []
  all_goals repeat' split
  all_goals first | simp_all | rfl
@[simp] theorem wakeMonitor_scratch (s : State) : (wakeMonitor s).scratch = s.scratch := by
  unfold wakeMonitor
  try simp only []
  all_goals repeat' split
  all_goals first | simp_all | rfl
@[simp] theorem monRun_scratch (run : Bool) (s : State) : (monRun run s).scratch = s.scratch := by
  unfold monRun
  try simp only []
  all_goals repeat' split
  all_goals first | simp_all | rfl
@[simp] theorem monAccumulate_scratch (e : Nat) (v : Int) (s : State) : (monAccumulate e v s).scratch = s.scratch := by
  unfold monAccumulate
  try simp only []
  all_goals repeat' split
  all_goals first | simp_all | rfl
@[simp] theorem latchIlk_scratch (exc : Bool) (e : Nat) (s : State) : (latchIlk exc e s).scratch = s.scratch := by
  unfold latchIlk
  try simp only []
  all_goals repeat' split
  all_goals first | simp_all | rfl
@[simp] theorem monTurn_scratch (s : State) : (monTurn s).scratch = s.scratch := by
  unfold monTurn
  try simp only []
  all_goals repeat' split
  all_goals first | simp_all | rfl
@[simp] theorem startInjectedSeq_scratch (s : State) : (startInjectedSeq s).scratch = s.scratch := by
  unfold startInjectedSeq
  try simp only []
  all_goals repeat' split
  all_goals first | simp_all | rfl
@[simp] theorem monCompare_scratch (r : MonRun) (v : Int) (s : State) : (monCompare r v s).scratch = s.scratch := by
  unfold monCompare
  try simp only []
  all_goals repeat' split
  all_goals first | simp_all | rfl
@[simp] theorem afterResult_scratch (r : MonRun) (s : State) : (afterResult r s).scratch = s.scratch := by
  unfold afterResult
  try simp only []
  all_goals repeat' split
  all_goals first | simp_all | rfl
@[simp] theorem clearIlk_scratch (w : Nat) (s : State) : (clearIlk w s).scratch = s.scratch := by
  unfold clearIlk
  try simp only []
  all_goals repeat' split
  all_goals first | simp_all | rfl

/-! ### Machine/Devices.lean -/

@[simp] theorem finishHeld_scratch (i : Nat) (gd : Word) (s : State) : (finishHeld i gd s).scratch = s.scratch := by
  unfold finishHeld
  try simp only []
  all_goals repeat' split
  all_goals first | simp_all | rfl
@[simp] theorem startConvs_scratch (s : State) : (startConvs s).scratch = s.scratch := by
  unfold startConvs
  refine overList_scratch _ _ _ fun c t => ?_
  repeat' split
  all_goals simp
@[simp] theorem endConversions_scratch (s : State) : (endConversions s).scratch = s.scratch := by
  unfold endConversions
  try simp only []
  all_goals repeat' split
  all_goals first | simp_all | rfl
@[simp] theorem askAdcCal_scratch (s : State) : (askAdcCal s).scratch = s.scratch := by
  unfold askAdcCal
  try simp only []
  all_goals repeat' split
  all_goals first | simp_all | rfl
@[simp] theorem startAdcCal_scratch (s : State) : (startAdcCal s).scratch = s.scratch := by
  unfold startAdcCal
  try simp only []
  all_goals repeat' split
  all_goals first | simp_all | rfl
@[simp] theorem newFactors_scratch (c temp : Nat) (bg : Bool) (s : State) :
    (newFactors c temp bg s).scratch = s.scratch := by
  unfold newFactors
  try simp only []
  all_goals repeat' split
  all_goals first | simp_all | rfl

@[simp] theorem emitWords_scratch (a n : Nat) (s : State) : (emitWords a n s).2.scratch = s.scratch := by
  induction n generalizing a s with
  | zero => rfl
  | succ n ih =>
    unfold emitWords
    simp only []
    rw [ih]
    split <;> simp

theorem emitNow_scratch (i : Nat) (tag : BitVec 6) (words : List Word) (s : State) (t : State) (h : (emitNow i tag words s) = some t) :
    t.scratch = s.scratch := by
  unfold emitNow at h
  try simp only [] at h
  all_goals repeat' split at h
  all_goals cases h
  all_goals first | simp | rfl
@[simp] theorem wakeHeld_scratch (s : State) : (wakeHeld s).scratch = s.scratch := by
  unfold wakeHeld
  try simp only []
  all_goals repeat' split
  all_goals first | simp_all | rfl
@[simp] theorem disarmIfArmed_scratch (s : State) : (disarmIfArmed s).scratch = s.scratch := by
  unfold disarmIfArmed
  try simp only []
  all_goals repeat' split
  all_goals first | simp_all | rfl
theorem powerIdle_scratch (s : State) (t : State) (h : (powerIdle s) = some t) : t.scratch = s.scratch := by
  unfold powerIdle at h
  try simp only [] at h
  all_goals repeat' split at h
  all_goals cases h
  all_goals first | simp | rfl
@[simp] theorem wakeQuads_scratch (s : State) : (wakeQuads s).scratch = s.scratch := by
  unfold wakeQuads
  try simp only []
  all_goals repeat' split
  all_goals first | simp_all | rfl
theorem powerTo_scratch (m : Mode) (s : State) (t : State) (h : (powerTo m s) = some t) : t.scratch = s.scratch := by
  unfold powerTo at h
  try simp only [] at h
  all_goals repeat' split at h
  all_goals cases h
  all_goals first | simp | rfl
@[simp] theorem leaveIdle_scratch (s : State) : (leaveIdle s).scratch = s.scratch := by
  unfold leaveIdle
  try simp only []
  all_goals repeat' split
  all_goals first | simp_all | rfl
@[simp] theorem modeTurn_scratch (s : State) : (modeTurn s).scratch = s.scratch := by
  unfold modeTurn
  try simp only []
  all_goals repeat' split
  all_goals first | simp_all | rfl
@[simp] theorem raiseTimer_scratch (sq : Nat) (s : State) : (raiseTimer sq s).scratch = s.scratch := by
  unfold raiseTimer
  try simp only []
  all_goals repeat' split
  all_goals first | simp_all | rfl
@[simp] theorem writeTolerance_scratch (g : Nat) (value : Nat) (s : State) :
    (writeTolerance g value s).scratch = s.scratch := by
  unfold writeTolerance
  try simp only []
  all_goals repeat' split
  all_goals first | simp_all | rfl

/-! ### Machine/BufferCmds.lean -/

@[simp] theorem correctedWord_scratch (bank : Nat) (s : State) : (correctedWord bank s).scratch = s.scratch := by
  unfold correctedWord
  try simp only []
  all_goals repeat' split
  all_goals first | simp_all | rfl
@[simp] theorem badWord_scratch (bank : Nat) (detail : Word) (s : State) : (badWord bank detail s).scratch = s.scratch := by
  unfold badWord
  try simp only []
  all_goals repeat' split
  all_goals first | simp_all | rfl
@[simp] theorem poisonWord_scratch (bank : Nat) (p : Packet) (s : State) : (poisonWord bank p s).scratch = s.scratch := by
  unfold poisonWord
  try simp only []
  all_goals repeat' split
  all_goals first | simp_all | rfl
@[simp] theorem strike_scratch (k : Nat) (flips : Option (BitVec 64)) (s : State) :
    (strike k flips s).scratch = s.scratch := by
  unfold strike
  try simp only []
  all_goals repeat' split
  all_goals first | simp_all | rfl
@[simp] theorem strikeWords_scratch (chain : List Nat) (n : Nat) (l : List Upset) (s : State) :
    (strikeWords chain n l s).scratch = s.scratch := by
  unfold strikeWords
  refine (foldl_scratch _ _ _ fun t e => ?_).trans ?_
  · repeat' split
    all_goals first | rfl | simp
  · rfl
@[simp] theorem readWord_scratch (pid k : Nat) (s : State) : (readWord pid k s).scratch = s.scratch := by
  unfold readWord
  try simp only []
  all_goals repeat' split
  all_goals first | simp_all | rfl
@[simp] theorem readWords_scratch (pid : Nat) (chain : List Nat) (n : Nat) (s : State) :
    (readWords pid chain n s).scratch = s.scratch := by
  unfold readWords
  try simp only []
  all_goals repeat' split
  all_goals first | simp_all | rfl
@[simp] theorem storeQueued_scratch (s : State) : (storeQueued s).scratch = s.scratch := by
  unfold storeQueued
  try simp only []
  all_goals repeat' split
  all_goals first | simp_all | rfl
@[simp] theorem startJob_scratch (s : State) : (startJob s).scratch = s.scratch := by
  unfold startJob
  try simp only []
  all_goals repeat' split
  all_goals first | simp_all | rfl
@[simp] theorem countJob_scratch (inp out : Nat) (s : State) : (countJob inp out s).scratch = s.scratch := by
  unfold countJob
  try simp only []
  all_goals repeat' split
  all_goals first | simp_all | rfl
@[simp] theorem succeedJob_scratch (e : Nat) (p : Packet) (s : State) : (succeedJob e p s).scratch = s.scratch := by
  unfold succeedJob
  extract_lets bytes s1 s2
  have h : s2.scratch = s.scratch := (State.modPacket_scratch ..).trans rfl
  clear_value bytes s2
  rw [notice_scratch, countJob_scratch, Fld.count_scratch, h]
@[simp] theorem partRead_scratch (pid : Nat) (s : State) : (partRead pid s).scratch = s.scratch := by
  unfold partRead
  try simp only []
  all_goals repeat' split
  all_goals first | simp_all | rfl
@[simp] theorem abortGambits_scratch (pid : Nat) (s : State) : (abortGambits pid s).scratch = s.scratch := by
  unfold abortGambits
  refine (foldl_scratch _ _ _ fun t e => ?_).trans ?_
  · repeat' split
    all_goals first | rfl | simp
  · rfl
@[simp] theorem failJob_scratch (e : Nat) (p : Packet) (reason obytes : Nat) (s : State) :
    (failJob e p reason obytes s).scratch = s.scratch := by
  unfold failJob
  extract_lets s1 s2 s3
  have h1 : s1.scratch = s.scratch := (abortGambits_scratch ..).trans rfl
  clear_value s1
  have h2 : s2.scratch = s.scratch := (State.modPacket_scratch ..).trans h1
  clear_value s2
  have h3 : s3.scratch = s.scratch := (raiseFlag_scratch ..).trans ((Fld.count_scratch ..).trans h2)
  clear_value s3
  rw [notice_scratch, countJob_scratch, h3]
@[simp] theorem quarantineEngine_scratch (e : Nat) (s : State) : (quarantineEngine e s).scratch = s.scratch := by
  unfold quarantineEngine
  try simp only []
  all_goals repeat' split
  all_goals first | simp_all | rfl
@[simp] theorem faultJob_scratch (e : Nat) (p : Packet) (s : State) : (faultJob e p s).scratch = s.scratch := by
  unfold faultJob
  extract_lets last s1 s2
  have h1 : s1.scratch = s.scratch := readWords_scratch ..
  clear_value s1
  have h2 : s2.scratch = s.scratch := (failJob_scratch ..).trans ((State.drew_scratch ..).trans h1)
  clear_value s2
  rw [quarantineEngine_scratch, faultReport_scratch, h2]
@[simp] theorem wakeLane_scratch (side : Side) (g : Nat) (p : Packet) (s : State) :
    (wakeLane side g p s).scratch = s.scratch := by
  unfold wakeLane
  try simp only []
  all_goals repeat' split
  all_goals first | simp_all | rfl
@[simp] theorem wakeLanes_scratch (s : State) : (wakeLanes s).scratch = s.scratch := by
  unfold wakeLanes
  try simp only []
  all_goals repeat' split
  all_goals first | simp_all | rfl
@[simp] theorem startSend_scratch (side : Side) (port : Nat) (p : Packet) (s : State) :
    (startSend side port p s).scratch = s.scratch := by
  unfold startSend
  try simp only []
  all_goals repeat' split
  all_goals first | simp_all | rfl
@[simp] theorem giveTo_scratch (side : Side) (port : Nat) (p : Packet) (s : State) :
    (giveTo side port p s).scratch = s.scratch := by
  unfold giveTo
  try simp only []
  all_goals repeat' split
  all_goals first | simp_all | rfl
@[simp] theorem sendPacket_scratch (place : Nat) (gambit : Bool) (bytes : List Byte) (s : State) :
    (sendPacket place gambit bytes s).scratch = s.scratch := by
  unfold sendPacket
  try simp only []
  all_goals repeat' split
  all_goals first | simp_all | rfl
@[simp] theorem finishSend_scratch (x : Send) (p : Packet) (s : State) : (finishSend x p s).scratch = s.scratch := by
  unfold finishSend
  extract_lets bytes s1 s2 s3
  have h1 : s1.scratch = s.scratch := sendPacket_scratch ..
  clear_value s1
  have h3 : s3.scratch = s.scratch := (Fld.wrap_scratch ..).trans ((State.modPacket_scratch ..).trans h1)
  clear_value s3
  rw [releasePackets_scratch]
  split
  · exact (Fld.count_scratch ..).trans h3
  · exact h3
@[simp] theorem interruptSends_scratch (first : Bool) (f : Send → Bool) (s : State) :
    (interruptSends first f s).scratch = s.scratch := by
  unfold interruptSends
  try simp only []
  all_goals repeat' split
  all_goals first | simp_all | rfl
@[simp] theorem judgeDead_scratch (now : Bool) (side : Side) (s : State) : (judgeDead now side s).scratch = s.scratch := by
  unfold judgeDead
  try simp only []
  all_goals repeat' split
  all_goals first | simp_all | rfl
@[simp] theorem refreshDead_scratch (side : Side) (s : State) : (refreshDead side s).scratch = s.scratch := by
  unfold refreshDead
  try simp only []
  all_goals repeat' split
  all_goals first | simp_all | rfl
@[simp] theorem countDead_scratch (n : Nat) (s : State) : (countDead n s).scratch = s.scratch := by
  unfold countDead
  try simp only []
  all_goals repeat' split
  all_goals first | simp_all | rfl
@[simp] theorem scrubWord_scratch (k : Nat) (s : State) : (scrubWord k s).scratch = s.scratch := by
  unfold scrubWord
  try simp only []
  all_goals repeat' split
  all_goals first | simp_all | rfl
@[simp] theorem strikeBanks_scratch (l : List Upset) (s : State) : (strikeBanks l s).scratch = s.scratch := by
  unfold strikeBanks
  refine (foldl_scratch _ _ _ fun t e => ?_).trans ?_
  · repeat' split
    all_goals first | rfl | simp
  · rfl
@[simp] theorem foundBadProg_scratch (a : Nat) (s : State) : (foundBadProg a s).scratch = s.scratch := by
  unfold foundBadProg
  try simp only []
  all_goals repeat' split
  all_goals first | simp_all | rfl
@[simp] theorem scrubProg_scratch (found : Scrubbed) (s : State) : (scrubProg found s).scratch = s.scratch := by
  unfold scrubProg
  try simp only []
  all_goals repeat' split
  all_goals first | simp_all | rfl
@[simp] theorem scrubScratch_scratch (found : Scrubbed) (s : State) : (scrubScratch found s).scratch = s.scratch := by
  unfold scrubScratch
  try simp only []
  all_goals repeat' split
  all_goals first | simp_all | rfl
@[simp] theorem scrubNext_scratch (s : State) : (scrubNext s).scratch = s.scratch := by
  unfold scrubNext
  try simp only []
  all_goals repeat' split
  all_goals first | simp_all | rfl

/-! ### Machine/Lanes.lean -/

@[simp] theorem laneLives_scratch (p : Nat) (s : State) : (laneLives p s).scratch = s.scratch := by
  unfold laneLives
  try simp only []
  all_goals repeat' split
  all_goals first | simp_all | rfl
@[simp] theorem reacquire_scratch (p : Nat) (s : State) : (reacquire p s).scratch = s.scratch := by
  unfold reacquire
  try simp only []
  all_goals repeat' split
  all_goals first | simp_all | rfl
@[simp] theorem rebond_scratch (g : Nat) (s : State) : (rebond g s).scratch = s.scratch := by
  unfold rebond
  try simp only []
  all_goals repeat' split
  all_goals first | simp_all | rfl
@[simp] theorem markFailed_scratch (p : Nat) (s : State) : (markFailed p s).scratch = s.scratch := by
  unfold markFailed
  try simp only []
  all_goals repeat' split
  all_goals first | simp_all | rfl
@[simp] theorem takeBack_scratch (p : Nat) (s : State) : (takeBack p s).scratch = s.scratch := by
  unfold takeBack
  try simp only []
  all_goals repeat' split
  all_goals first | simp_all | rfl
@[simp] theorem failLanes_scratch (g : Nat) (l : List Nat) (s : State) : (failLanes g l s).scratch = s.scratch := by
  unfold failLanes
  try simp only []
  all_goals repeat' split
  all_goals first | simp_all | rfl
@[simp] theorem askRejoin_scratch (p : Nat) (s : State) : (askRejoin p s).scratch = s.scratch := by
  unfold askRejoin
  try simp only []
  all_goals repeat' split
  all_goals first | simp_all | rfl
@[simp] theorem writeLgcfg_scratch (g : Nat) (v : Word) (s : State) : (writeLgcfg g v s).scratch = s.scratch := by
  unfold writeLgcfg
  try simp only []
  all_goals repeat' split
  all_goals first | simp_all | rfl
@[simp] theorem applySingle_scratch (s : State) : (applySingle s).scratch = s.scratch := by
  unfold applySingle
  exact overList_scratch _ _ _ fun c t => by simp
@[simp] theorem portOff_scratch (p : Nat) (s : State) : (portOff p s).scratch = s.scratch := by
  unfold portOff
  try simp only []
  all_goals repeat' split
  all_goals first | simp_all | rfl
@[simp] theorem portOn_scratch (p : Nat) (s : State) : (portOn p s).scratch = s.scratch := by
  unfold portOn
  try simp only []
  all_goals repeat' split
  all_goals first | simp_all | rfl

/-! ### Machine/Timing.lean -/

@[simp] theorem modTim_scratch (f : Tim → Tim) (s : State) : (modTim f s).scratch = s.scratch := by
  unfold modTim
  try simp only []
  all_goals repeat' split
  all_goals first | simp_all | rfl
@[simp] theorem timTicks_scratch (n : Nat) (s : State) : (timTicks n s).scratch = s.scratch := by
  unfold timTicks
  try simp only []
  all_goals repeat' split
  all_goals first | simp_all | rfl
@[simp] theorem setCmp_scratch (n : Nat) (t : Option Tag) (s : State) : (setCmp n t s).scratch = s.scratch := by
  unfold setCmp
  try simp only []
  all_goals repeat' split
  all_goals first | simp_all | rfl
@[simp] theorem fireCompare_scratch (n : Nat) (s : State) : (fireCompare n s).scratch = s.scratch := by
  unfold fireCompare
  try simp only []
  all_goals repeat' split
  all_goals first | simp_all | rfl
@[simp] theorem compareTicks_scratch (off n : Nat) (s : State) : (compareTicks off n s).scratch = s.scratch := by
  unfold compareTicks
  try simp only []
  all_goals repeat' split
  all_goals first | simp_all | rfl
@[simp] theorem coreTicks_scratch (off n : Nat) (s : State) : (coreTicks off n s).scratch = s.scratch := by
  unfold coreTicks
  try simp only []
  all_goals repeat' split
  all_goals first | simp_all | rfl
@[simp] theorem compareNow_scratch (s : State) : (compareNow s).scratch = s.scratch := by
  unfold compareNow
  try simp only []
  all_goals repeat' split
  all_goals first | simp_all | rfl
@[simp] theorem timBoundary_scratch (s : State) : (timBoundary s).scratch = s.scratch := by
  unfold timBoundary
  try simp only []
  all_goals repeat' split
  all_goals first | simp_all | rfl
@[simp] theorem timBase_scratch (s : State) : (timBase s).scratch = s.scratch := by
  unfold timBase
  try simp only []
  all_goals repeat' split
  all_goals first | simp_all | rfl
@[simp] theorem stepGo_scratch (s : State) : (stepGo s).scratch = s.scratch := by
  unfold stepGo
  try simp only []
  all_goals repeat' split
  all_goals first | simp_all | rfl
@[simp] theorem judgeStep_scratch (s : State) : (judgeStep s).scratch = s.scratch := by
  unfold judgeStep
  try simp only []
  all_goals repeat' split
  all_goals first | simp_all | rfl
@[simp] theorem askUnsync_scratch (s : State) : (askUnsync s).scratch = s.scratch := by
  unfold askUnsync
  try simp only []
  all_goals repeat' split
  all_goals first | simp_all | rfl
@[simp] theorem latchNow_scratch (s : State) : (latchNow s).scratch = s.scratch := by
  unfold latchNow
  try simp only []
  all_goals repeat' split
  all_goals first | simp_all | rfl
@[simp] theorem setEgress_scratch (p : Nat) (l : List TmMsg) (s : State) : (setEgress p l s).scratch = s.scratch := by
  unfold setEgress
  try simp only []
  all_goals repeat' split
  all_goals first | simp_all | rfl
@[simp] theorem enqueue_scratch (p : Nat) (m : TmMsg) (s : State) : (enqueue p m s).1.scratch = s.scratch := by
  unfold enqueue
  try simp only []
  all_goals repeat' split
  all_goals first | simp_all | rfl
@[simp] theorem storeMessage_scratch (p : Nat) (l : List Byte) (t : BitVec 48 × Nat × Nat) (s : State) :
    (storeMessage p l t s).scratch = s.scratch := by
  unfold storeMessage
  try simp only []
  all_goals repeat' split
  all_goals first | simp_all | rfl
@[simp] theorem beginMessage_scratch (p : Nat) (l : List Byte) (rest : List TmMsg) (s : State) :
    (beginMessage p l rest s).scratch = s.scratch := by
  unfold beginMessage
  try simp only []
  all_goals repeat' split
  all_goals first | simp_all | rfl
@[simp] theorem sendTim_scratch (s : State) : (sendTim s).scratch = s.scratch := by
  unfold sendTim
  try simp only []
  all_goals repeat' split
  all_goals first | simp_all | rfl
@[simp] theorem armCompare_scratch (n : Nat) (s : State) : (armCompare n s).scratch = s.scratch := by
  unfold armCompare
  try simp only []
  all_goals repeat' split
  all_goals first | simp_all | rfl
@[simp] theorem orbitStamp_scratch (s : State) : (orbitStamp s).scratch = s.scratch := by
  unfold orbitStamp
  try simp only []
  all_goals repeat' split
  all_goals first | simp_all | rfl

/-! ### Machine/Restart.lean -/

@[simp] theorem modRestart_scratch (n : Nat) (f : Restart → Restart) (s : State) :
    (modRestart n f s).scratch = s.scratch := by
  unfold modRestart
  try simp only []
  all_goals repeat' split
  all_goals first | simp_all | rfl
@[simp] theorem startRestart_scratch (n : Nat) (s : State) : (startRestart n s).scratch = s.scratch := by
  unfold startRestart
  try simp only []
  all_goals repeat' split
  all_goals first | simp_all | rfl
@[simp] theorem stopRestarts_scratch (s : State) : (stopRestarts s).scratch = s.scratch := by
  unfold stopRestarts
  try simp only []
  all_goals repeat' split
  all_goals first | simp_all | rfl
@[simp] theorem lostHit_scratch (c : Nat) (t : Tag) (counted : Bool) (s : State) :
    (lostHit c t counted s).scratch = s.scratch := by
  unfold lostHit
  try simp only []
  all_goals repeat' split
  all_goals first | simp_all | rfl
@[simp] theorem lostHits_scratch (c : Nat) (s : State) : (lostHits c s).scratch = s.scratch := by
  unfold lostHits
  try simp only []
  all_goals repeat' split
  all_goals first | simp_all | rfl
@[simp] theorem closeInterval_scratch (c : Nat) (stop : Tag) (s : State) : (closeInterval c stop s).scratch = s.scratch := by
  unfold closeInterval
  try simp only []
  all_goals repeat' split
  all_goals first | simp_all | rfl
@[simp] theorem closeGroup_scratch (g : Nat) (stop : Tag) (s : State) : (closeGroup g stop s).scratch = s.scratch := by
  unfold closeGroup
  try simp only []
  all_goals repeat' split
  all_goals first | simp_all | rfl
@[simp] theorem beginReset_scratch (n : Nat) (s : State) : (beginReset n s).scratch = s.scratch := by
  unfold beginReset
  try simp only []
  all_goals repeat' split
  all_goals first | simp_all | rfl
@[simp] theorem forceBlock_scratch (n : Nat) (s : State) : (forceBlock n s).scratch = s.scratch := by
  unfold forceBlock
  repeat' split
  · extract_lets l h s1
    have h1 : s1.scratch = s.scratch := foldl_scratch _ _ _ fun t w => by split <;> first | rfl | simp
    clear_value s1
    exact (modRestart_scratch ..).trans h1
  · exact interruptSends_scratch ..
  · exact interruptSends_scratch ..
  · exact foldl_scratch _ _ _ fun t j => by split <;> first | rfl | simp
  · exact modLed_scratch ..
  · rfl
@[simp] theorem resetGroup_scratch (g : Nat) (s : State) : (resetGroup g s).scratch = s.scratch := by
  unfold resetGroup
  try simp only []
  all_goals repeat' split
  all_goals first | simp_all | rfl
@[simp] theorem restartEntry_scratch (r : Restart) (stop : Tag) (s : State) :
    (restartEntry r stop s).scratch = s.scratch := by
  unfold restartEntry
  try simp only []
  all_goals repeat' split
  all_goals first | simp_all | rfl
@[simp] theorem resetMonitor_scratch (s : State) : (resetMonitor s).scratch = s.scratch := by
  unfold resetMonitor
  try simp only []
  all_goals repeat' split
  all_goals first | simp_all | rfl
@[simp] theorem resetLed_scratch (s : State) : (resetLed s).scratch = s.scratch := by
  unfold resetLed
  try simp only []
  all_goals repeat' split
  all_goals first | simp_all | rfl
@[simp] theorem resetBlock_scratch (n : Nat) (s : State) : (resetBlock n s).scratch = s.scratch := by
  unfold resetBlock
  try simp only []
  all_goals repeat' split
  all_goals first | simp_all | rfl
@[simp] theorem resumeBlock_scratch (r : Restart) (s : State) : (resumeBlock r s).scratch = s.scratch := by
  unfold resumeBlock
  try simp only []
  all_goals repeat' split
  all_goals first | simp_all | rfl
@[simp] theorem nextStep_scratch (n : Nat) (s : State) : (nextStep n s).scratch = s.scratch := by
  unfold nextStep
  try simp only []
  all_goals repeat' split
  all_goals first | simp_all | rfl
@[simp] theorem endStep_scratch (n : Nat) (s : State) : (endStep n s).scratch = s.scratch := by
  unfold endStep
  try simp only []
  all_goals repeat' split
  all_goals first | simp_all | rfl
@[simp] theorem turnRestarts_scratch (s : State) : (turnRestarts s).scratch = s.scratch := by
  unfold turnRestarts
  try simp only []
  all_goals repeat' split
  all_goals first | simp_all | rfl

/-! ### Machine/Faults.lean -/

@[simp] theorem noMajority_scratch (region : Nat) (s : State) : (noMajority region s).scratch = s.scratch := by
  unfold noMajority
  try simp only []
  all_goals repeat' split
  all_goals first | simp_all | rfl
@[simp] theorem sliceLost_scratch (c : Nat) (s : State) : (sliceLost c s).scratch = s.scratch := by
  unfold sliceLost
  try simp only []
  all_goals repeat' split
  all_goals first | simp_all | rfl
@[simp] theorem laneLost_scratch (p : Nat) (s : State) : (laneLost p s).scratch = s.scratch := by
  unfold laneLost
  try simp only []
  all_goals repeat' split
  all_goals first | simp_all | rfl
@[simp] theorem engineLost_scratch (e : Nat) (s : State) : (engineLost e s).scratch = s.scratch := by
  unfold engineLost
  extract_lets s1 s2
  have h1 : s1.scratch = s.scratch := (faultReport_scratch ..).trans (noMajority_scratch ..)
  clear_value s1
  have h2 : s2.scratch = s.scratch := by
    show (match s1.jobOf e with | some p => failJob e p 3 (s1.bytesSoFar p) (s1.drew 1) | none => s1).scratch = s.scratch
    split
    · rw [failJob_scratch, State.drew_scratch, h1]
    · exact h1
  clear_value s2
  rw [quarantineEngine_scratch, h2]
@[simp] theorem regionRestart_scratch (n : Nat) (s : State) : (regionRestart n s).scratch = s.scratch := by
  unfold regionRestart
  try simp only []
  all_goals repeat' split
  all_goals first | simp_all | rfl
@[simp] theorem portBlockLost_scratch (side : Side) (s : State) : (portBlockLost side s).scratch = s.scratch := by
  unfold portBlockLost
  try simp only []
  all_goals repeat' split
  all_goals first | simp_all | rfl
@[simp] theorem chipStateLost_scratch (code : Nat) (s : State) : (chipStateLost code s).scratch = s.scratch := by
  unfold chipStateLost
  try simp only []
  all_goals repeat' split
  all_goals first | simp_all | rfl
@[simp] theorem chipTurn_scratch (s : State) : (chipTurn s).scratch = s.scratch := by
  unfold chipTurn
  try simp only []
  all_goals repeat' split
  all_goals first | simp_all | rfl

/-! ### Machine/Orbit.lean -/

@[simp] theorem judgeFcs_scratch (s : State) : (judgeFcs s).scratch = s.scratch := by
  unfold judgeFcs
  try simp only []
  all_goals repeat' split
  all_goals first | simp_all | rfl
@[simp] theorem countHigh_scratch (n : Nat) (s : State) : (countHigh n s).scratch = s.scratch := by
  unfold countHigh
  try simp only []
  all_goals repeat' split
  all_goals first | simp_all | rfl
@[simp] theorem stepTimers_scratch (n : Nat) (s : State) : (stepTimers n s).scratch = s.scratch := by
  unfold stepTimers
  try simp only []
  all_goals repeat' split
  all_goals first | simp_all | rfl
@[simp] theorem restOfBoundary_scratch (s : State) : (restOfBoundary s).scratch = s.scratch := by
  unfold restOfBoundary
  try simp only []
  all_goals repeat' split
  all_goals first | simp_all | rfl
@[simp] theorem passTime_scratch (n : Nat) (s : State) : (passTime n s).scratch = s.scratch := by
  unfold passTime
  try simp only []
  all_goals repeat' split
  all_goals first | simp_all | rfl
@[simp] theorem latchEdge_scratch (s : State) : (latchEdge s).scratch = s.scratch := by
  unfold latchEdge
  try simp only []
  all_goals repeat' split
  all_goals first | simp_all | rfl
@[simp] theorem noteSets_scratch (before s : State) : (noteSets before s).scratch = s.scratch := by
  unfold noteSets
  try simp only []
  all_goals repeat' split
  all_goals first | simp_all | rfl
@[simp] theorem endIntervals_scratch (s : State) : (endIntervals s).scratch = s.scratch := by
  unfold endIntervals
  try simp only []
  all_goals repeat' split
  all_goals first | simp_all | rfl
@[simp] theorem beginIntervals_scratch (s : State) : (beginIntervals s).scratch = s.scratch := by
  unfold beginIntervals
  try simp only []
  all_goals repeat' split
  all_goals first | simp_all | rfl
@[simp] theorem writeMinMax_scratch (s : State) : (writeMinMax s).scratch = s.scratch := by
  unfold writeMinMax
  try simp only []
  all_goals repeat' split
  all_goals first | simp_all | rfl
@[simp] theorem discardAdm_scratch (s : State) : (discardAdm s).scratch = s.scratch := by
  unfold discardAdm
  try simp only []
  all_goals repeat' split
  all_goals first | simp_all | rfl
@[simp] theorem recheckAdm_scratch (s : State) : (recheckAdm s).scratch = s.scratch := by
  unfold recheckAdm
  try simp only []
  all_goals repeat' split
  all_goals first | simp_all | rfl
@[simp] theorem checkFlt_scratch (s : State) : (checkFlt s).scratch = s.scratch := by
  unfold checkFlt
  try simp only []
  all_goals repeat' split
  all_goals first | simp_all | rfl
@[simp] theorem commitRwo_scratch (s : State) : (commitRwo s).scratch = s.scratch := by
  unfold commitRwo
  extract_lets l s1
  refine (foldr_scratch _ _ _ fun e t => ?_).trans rfl
  split <;> rfl
@[simp] theorem takeDelays_scratch (s : State) : (takeDelays s).scratch = s.scratch := by
  unfold takeDelays
  try simp only []
  all_goals repeat' split
  all_goals first | simp_all | rfl
@[simp] theorem takeRwo_scratch (s : State) : (takeRwo s).scratch = s.scratch := by
  unfold takeRwo
  try simp only []
  all_goals repeat' split
  all_goals first | simp_all | rfl
@[simp] theorem openLedger_scratch (s : State) : (openLedger s).scratch = s.scratch := by
  unfold openLedger
  try simp only []
  all_goals repeat' split
  all_goals first | simp_all | rfl
@[simp] theorem endLedger_scratch (len : Nat) (s : State) : (endLedger len s).scratch = s.scratch := by
  unfold endLedger
  try simp only []
  all_goals repeat' split
  all_goals first | simp_all | rfl
@[simp] theorem endWindows_scratch (s : State) : (endWindows s).scratch = s.scratch := by
  unfold endWindows
  try simp only []
  all_goals repeat' split
  all_goals first | simp_all | rfl
@[simp] theorem streamTurn_scratch (s : State) : (streamTurn s).scratch = s.scratch := by
  unfold streamTurn
  try simp only []
  all_goals repeat' split
  all_goals first | simp_all | rfl
@[simp] theorem freshSlice_scratch (c : Nat) (s : State) : (freshSlice c s).scratch = s.scratch := by
  unfold freshSlice
  try simp only []
  all_goals repeat' split
  all_goals first | simp_all | rfl
@[simp] theorem freshCell_scratch (n : Nat) (s : State) : (freshCell n s).scratch = s.scratch := by
  unfold freshCell
  try simp only []
  all_goals repeat' split
  all_goals first | simp_all | rfl
@[simp] theorem applyTdc_scratch (s : State) : (applyTdc s).scratch = s.scratch := by
  unfold applyTdc
  try simp only []
  all_goals repeat' split
  all_goals first | simp_all | rfl
@[simp] theorem applyBackground_scratch (s : State) : (applyBackground s).scratch = s.scratch := by
  unfold applyBackground
  try simp only []
  all_goals repeat' split
  all_goals first | simp_all | rfl
@[simp] theorem refreshStale_scratch (run : BitVec 16) (s : State) : (refreshStale run s).scratch = s.scratch := by
  unfold refreshStale
  try simp only []
  all_goals repeat' split
  all_goals first | simp_all | rfl
@[simp] theorem countArm_scratch (s : State) : (countArm s).scratch = s.scratch := by
  unfold countArm
  try simp only []
  all_goals repeat' split
  all_goals first | simp_all | rfl
@[simp] theorem countReturns_scratch (s : State) : (countReturns s).scratch = s.scratch := by
  unfold countReturns
  try simp only []
  all_goals repeat' split
  all_goals first | simp_all | rfl
@[simp] theorem freshLimits_scratch (s : State) : (freshLimits s).scratch = s.scratch := by
  unfold freshLimits
  try simp only []
  all_goals repeat' split
  all_goals first | simp_all | rfl
@[simp] theorem beginOrbit_scratch (number : Word) (s : State) : (beginOrbit number s).scratch = s.scratch := by
  unfold beginOrbit
  try simp only []
  all_goals repeat' split
  all_goals first | simp_all | rfl

/-! ### Machine/Views.lean -/

@[simp] theorem touchAbsent_scratch (a : Nat) (s : State) : (touchAbsent a s).scratch = s.scratch := by
  unfold touchAbsent
  try simp only []
  all_goals repeat' split
  all_goals first | simp_all | rfl
@[simp] theorem clearRc_scratch (a : Nat) (s : State) : (clearRc a s).scratch = s.scratch := by
  unfold clearRc
  try simp only []
  all_goals repeat' split
  all_goals first | simp_all | rfl
@[simp] theorem readField_scratch (by_ a : Nat) (s : State) : (readField by_ a s).2.scratch = s.scratch := by
  unfold readField
  try simp only []
  all_goals repeat' split
  all_goals first | simp_all | rfl

/-! ### Machine/Access.lean -/

@[simp] theorem writeByCode_scratch (a : Nat) (v : Word) (s : State) : (writeByCode a v s).scratch = s.scratch := by
  unfold writeByCode
  try simp only []
  all_goals repeat' split
  all_goals first | simp_all | rfl
@[simp] theorem guardedWrite_scratch (by_ i : Nat) (f : Square → Square) (s : State) :
    (guardedWrite by_ i f s).scratch = s.scratch := by
  unfold guardedWrite
  try simp only []
  all_goals repeat' split
  all_goals first | simp_all | rfl
@[simp] theorem writeSeq_scratch (by_ a : Nat) (value : Word) (s : State) :
    (writeSeq by_ a value s).scratch = s.scratch := by
  unfold writeSeq
  simp only [ite_scratch, guardedWrite_scratch, State.modSquare_scratch, writeByCode_scratch, ite_self]
@[simp] theorem writeAfeStat_scratch (c : Nat) (v : Word) (s : State) : (writeAfeStat c v s).scratch = s.scratch := by
  unfold writeAfeStat
  try simp only []
  all_goals repeat' split
  all_goals first | simp_all | rfl
@[simp] theorem writeTbcap_scratch (n : Nat) (v : Word) (s : State) : (writeTbcap n v s).scratch = s.scratch := by
  unfold writeTbcap
  try simp only []
  all_goals repeat' split
  all_goals first | simp_all | rfl
@[simp] theorem setPmvalid_scratch (s : State) : (setPmvalid s).scratch = s.scratch := by
  unfold setPmvalid
  try simp only []
  all_goals repeat' split
  all_goals first | simp_all | rfl
@[simp] theorem writeEngq_scratch (v : Word) (s : State) : (writeEngq v s).scratch = s.scratch := by
  unfold writeEngq
  try simp only []
  all_goals repeat' split
  all_goals first | simp_all | rfl
@[simp] theorem writeMonCtl_scratch (v : Word) (s : State) : (writeMonCtl v s).scratch = s.scratch := by
  unfold writeMonCtl
  try simp only []
  all_goals repeat' split
  all_goals first | simp_all | rfl
@[simp] theorem writeEntry_scratch (a : Nat) (v : Word) (s : State) : (writeEntry a v s).scratch = s.scratch := by
  unfold writeEntry
  try simp only []
  all_goals repeat' split
  all_goals first | simp_all | rfl
@[simp] theorem writeLedCtl_scratch (v : Word) (s : State) : (writeLedCtl v s).scratch = s.scratch := by
  unfold writeLedCtl
  try simp only []
  all_goals repeat' split
  all_goals first | simp_all | rfl
@[simp] theorem askAlign_scratch (n : Nat) (s : State) : (askAlign n s).scratch = s.scratch := by
  unfold askAlign
  try simp only []
  all_goals repeat' split
  all_goals first | simp_all | rfl
@[simp] theorem writePcfg_scratch (p : Nat) (v : Word) (s : State) : (writePcfg p v s).scratch = s.scratch := by
  unfold writePcfg
  try simp only []
  all_goals repeat' split
  all_goals first | simp_all | rfl
@[simp] theorem writeTxctl_scratch (v : Word) (s : State) : (writeTxctl v s).scratch = s.scratch := by
  unfold writeTxctl
  try simp only []
  all_goals repeat' split
  all_goals first | simp_all | rfl
@[simp] theorem writeLow_scratch (a : Nat) (v : Word) (s : State) : (writeLow a v s).scratch = s.scratch := by
  unfold writeLow
  try simp only []
  all_goals repeat' split
  all_goals first | simp_all | rfl
@[simp] theorem writeHigh_scratch (a : Nat) (v : Word) (s : State) : (writeHigh a v s).scratch = s.scratch := by
  unfold writeHigh
  simp only []
  repeat' split
  all_goals first
    | exact settleDiscs_scratch .. | exact writeAfeStat_scratch .. | exact writeTbcap_scratch .. | exact writePcfg_scratch ..
    | exact writeLgcfg_scratch .. | exact writeMonCtl_scratch .. | exact writeEntry_scratch .. | exact writeLedCtl_scratch ..
    | simp
theorem writeField_scratch (by_ a : Nat) (v : Word) (s : State) (h : a < 0x14000) :
    (writeField by_ a v s).scratch = s.scratch := by
  unfold writeField
  rw [if_neg (by omega)]
  split
  · rfl
  · repeat' split
    all_goals simp

@[simp] theorem accessing_scratch (f : State → State) (s : State) (hf : ∀ t, (f t).scratch = t.scratch) :
    (accessing f s).scratch = s.scratch := by
  unfold accessing
  try simp only []
  all_goals repeat' split
  all_goals first | simp_all | rfl

/-! ### Machine/Tap.lean -/

@[simp] theorem tapAct_scratch (tdi : Bool) (s : State) : (tapAct tdi s).scratch = s.scratch := by
  unfold tapAct
  try simp only []
  all_goals repeat' split
  all_goals first | simp_all | rfl
@[simp] theorem tapFall_scratch (s : State) : (tapFall s).scratch = s.scratch := by
  unfold tapFall
  try simp only []
  all_goals repeat' split
  all_goals first | simp_all | rfl

end Sys2Proof.Machine
end

