-- ==== Sys2Proof/Tests/Slice0.lean ====
section
/-!
SUPPORT. Sys2Proof/Tests/Slice0.lean: checks of the model on small states. Commands outside their bounds are refused by `wf`; the
words and figures of the spec's worked examples come out; and, for every statement with hypotheses, a concrete state and
operands meet them, clause by clause.
-/
set_option Elab.async false
namespace Sys2Proof.Tests
open Sys2Proof.Machine

/-! ### States -/

/-- A hub in IDLE: its core clock runs on side K's reference, both sides are connected with claim 1, every function group is
ACTIVE. -/
def up : State := { State.reset with
  mode := .idle
  rst := { por := false, reach := none }
  pins := { forcing := false }
  clk := { act := ⟨true, true⟩, locked := ⟨true, true⟩, ref := some .k, pllLock := true, settled := true }
  sid := { live := ⟨1, 1⟩, healthy := ⟨true, true⟩ }
  groups := (List.range 11).map fun n => (n, { st := .active })
  cyc := 1
  bp := 5000
  bcid := 7 }

/-- The hub with its first program square as given. -/
def withSquare (q : Square) : State := { up with squares := [(1, q)] }

/-- The hub with its first program square READY and some of its registers set. -/
def withRegs (g : Sparse Word) : State := withSquare { state := .ready, g := g }

/-- The hub with square a1's registers as given. -/
def withA1 (g : Sparse Word) : State := { up with squares := [(0, { g := g })] }

/-- The first program square, and the host on side K. -/
def prog : Issuer := .prog 0
def host : Issuer := .host .k 9

/-- What a command leaves of a state. -/
def run (c : Instr) (s : State) : State := after s (exec c s)

/-! ### Bounds of operands -/

theorem test_wf_signal_refuses_other_rows :
    ([1, 2, 3, 4].all fun op => !(Instr.signalSig prog 1 2 op).wf) = true ∧ (Instr.signalSig prog 1 2 0).wf = true ∧
      (Instr.signalSig prog 1 2 7).wf = true := by decide

theorem test_wf_illegal_opcode_refuses_a_legal_one :
    (Instr.illegalOpcode prog 0x00).wf = false ∧ (Instr.illegalOpcode prog 0x3B).wf = false ∧
      (Instr.illegalOpcode prog 0x3A).wf = true := by decide

theorem test_wf_phase_bounds :
    (Instr.referenceSwitch 512).wf = false ∧ (Instr.phaseStep (-513)).wf = false ∧ (Instr.referenceSwitch 511).wf = true ∧
      (Instr.phaseStep (-512)).wf = true := by decide

theorem test_wf_block_bounds :
    ([Instr.quiesceAck 29, .quiesceTimeout 29, .blockResetEnd 31, .blockNoMajority 29, .watchdogExpiry 30].all fun c => !c.wf) = true ∧
      (Instr.quiesceAck 28).wf = true := by decide

theorem test_wf_data_port_bounds :
    ([Instr.packetSent .k 1 [], .laneFail 18, .laneDrop 0, .laneRejoinWrite 1, .laneRejoin 18, .cellNoMajority (.lane 1)].all
      fun c => !c.wf) = true ∧ (Instr.packetSent .k 17 []).wf = true ∧ (Instr.cellNoMajority (.lane 2)).wf = true := by decide

theorem test_wf_lane_lock_bounds :
    (Instr.laneLock 1).wf = false ∧ (Instr.laneUnlock 0 true).wf = false ∧ (Instr.laneLock 2).wf = true := by decide

theorem test_wf_time_message_bounds :
    (Instr.timeMessageReceived 2 [0] 0 0 0).wf = false ∧ (Instr.timeMessageReceived 0 [] 0 0 0).wf = false ∧
      (Instr.timeMessageReceived 0 (List.replicate 65 0) 0 0 0).wf = false ∧
      (Instr.timeMessageReceived 23 (List.replicate 64 0) 0 0 0).wf = true ∧ (Instr.timeMessageForward 21 0).wf = false ∧
      (Instr.timTxEgress 2 0).wf = false := by decide

theorem test_wf_field_address_bounds :
    (Instr.rcRead 0x15000).wf = false ∧ (Instr.fieldWrite 0x3FFFF 0).wf = false ∧ (Instr.rcRead 0x14FFF).wf = true := by decide

theorem test_wf_eye_width_bound :
    (Instr.adaptationConverged 2 65 0 0).wf = false ∧ (Instr.adaptationConverged 2 64 0 0).wf = true := by decide

/-! ### Words and figures of the spec -/

/-- Table 20-7: the words of field commands of a KN7412A. -/
theorem test_words_of_table_20_7 :
    decodeWord host 0x68400000 = .ldf host 1 0 0 ∧ decodeWord host 0x68400003 = .ldf host 1 0 3 ∧
      decodeWord host 0x68483005 = .ldf host 1 2 0x3005 ∧ decodeWord host 0x684C5008 = .ldf host 1 3 0x5008 ∧
      decodeWord host 0x6840B611 = .ldf host 1 0 0xB611 ∧ decodeWord host 0x68502000 = .ldf host 1 4 0x2000 := by decide

/-- Table 6-9: the words of the gap pulser that the statements leave out. -/
theorem test_words_of_table_6_9 :
    decodeWord prog 0x4D800DAC = .movi prog 6 0xDAC ∧ decodeWord prog 0x51980004 = .movhi prog 6 6 4 := by decide

/-- Table 20-7: what those commands find on a KN7412A. -/
theorem test_field_commands_of_table_20_7 :
    let s : State := { withA1 [(2, 45), (3, 200), (4, 256)] with shadow := [(0, 0x200)] }
    ((run (.ldf host 1 0 0) s).reg 0 1 = 2 ∧ (run (.ldf host 1 0 3) s).reg 0 1 = 0x143C3F) ∧
      effectiveAddr 0x3005 45 = some 0x32D5 ∧
      (F.CAP_ABSADDR_ADDR.rd (run (.ldf host 1 3 0x5008) s) = 0x8208 ∧ ((run (.ldf host 1 3 0x5008) s).square 0).f = false) ∧
      F.CAP_ABSADDR_ADDR.rd (run (.ldf host 1 0 0xB611) s) = 0xB611 ∧
      (((run (.ldf host 1 4 0x2000) s).square 0).f = true ∧ F.CAP_ABSENT_FLAG.is (run (.ldf host 1 4 0x2000) s) = false) := by
  decide

/-- Table 8-4: the low-range values of Core B codes, and the high-range value of sample 0. -/
theorem test_stream_values_of_table_8_4 :
    [1029, 1243, 2240, 3010, 1840, 1350, 1123, 1054, 1035].map (fun c => lowValue 0x7F3A (coreValue 0x4000 0 c)) =
      [80, 3483, 19338, 31584, 12977, 5184, 1574, 477, 175] ∧ coreValue 0x4000 0 1030 = 6 := by decide

/-- The example of chapter 9: fine times and times over threshold. -/
theorem test_hit_of_chapter_9 :
    fineTime 528 1064 45 13 = 186 ∧ fineTime 528 1064 58 37 = 564 ∧ totOf 378 = 94 ∧ totOf 514 = 128 := by decide

/-- Table 12-5: the payload of the job of six zero words, and its codes. -/
theorem test_job_of_table_12_5 :
    codeStream ([3, 1, 0, 0x66] ++ List.replicate 28 0) =
      [0x01, 0x80, 0x40, 0x06, 0x60, 0x04, 0x1A, 0x0F, 0x08, 0x84, 0xC2, 0xA1, 0x70, 0x10] := by decide

/-- The example of R454: a residence of 15,884 bins, and the asymmetry of +120 ps. -/
theorem test_residence_of_chapter_15 :
    residence 15884 0x0C800000 = 25414400 ∧ (F.LNK_TASYM_ASYM 0).addr = 0xB010 ∧
      ({ up with regs := [(0xB010, 120)] } : State).asym 0 = 7864 := by decide

/-- The examples of chapters 6 and 18: a pulse of 10.0 ns with code 0x5F costs 2 EU; 50 mA cap it at code 42. -/
theorem test_led_figures :
    ledCost 0x5F 40 = 2 ∧ up.ledCap = 42 := by decide

/-! ### The hypotheses of the statements can be met -/

theorem test_hyp_step :
    up.pending = [] ∧ MemoryForm { up with prog := [(16383, 1)], scratch := [(0, 5), (4095, 6)] } ∧
      ∃ t, step { up with prog := [(16383, 1)], pending := [.eventLatch] } = .next t := by
  unfold MemoryForm
  exact ⟨by decide, by decide, _, rfl⟩

theorem test_hyp_memory_kept : ∃ t, exec .eventLatch up = .next t := ⟨_, rfl⟩

theorem test_hyp_encoded : (Instr.illegalOpcode prog 0x3F).wf = true ∧ issuerOf (.illegalOpcode prog 0x3F) = some prog := by decide

theorem test_hyp_issuable :
    (withRegs []).issuable prog = true ∧ up.issuable host = true ∧ up.issuable (.host .q 0) = true ∧
      ({ up with squares := [(63, { state := .ready })] } : State).issuable (.prog 62) = true := by decide

/-- `LD` and `ST`: the last word, a bad word, and the first address outside. -/
theorem test_hyp_scratch :
    ((withRegs [(2, 4094)]).reg 1 2 + (1 : BitVec 18).signExtend 32).toNat = 4095 ∧
      4095 ∈ ({ withRegs [(2, 4094)] with scratchBad := [4095] } : State).scratchBad ∧
      ((withRegs [(2, 4095)]).reg 1 2 + (1 : BitVec 18).signExtend 32).toNat = 4096 ∧
      ((withA1 []).reg 0 2 + (-1 : BitVec 18).signExtend 32).toNat = 0xFFFFFFFF := by decide

theorem test_ld_st_reach_the_last_word :
    Memory.read (run (.st prog 3 2 1) (withRegs [(2, 4094), (3, 77)])).scratch 4095 = 77 ∧
      (run (.ld prog 5 2 1) { withRegs [(2, 4094)] with scratch := [(4095, 9)] }).reg 1 5 = 9 ∧
      ((run (.ld prog 5 2 2) (withRegs [(2, 4094)])).square 1).faultCause = 6 := by decide

/-- `BR`, `CALL` and `RET`: a full stack, an empty one, and a condition value that names none. -/
theorem test_branch_corners :
    ((run (.call prog 0 0 5) (withSquare { state := .ready, depth := 4 })).square 1).faultCause = 2 ∧
      ((run (.ret prog 0) (withSquare { state := .ready })).square 1).faultCause = 3 ∧
      ((run (.br prog 10 0 5) (withSquare { state := .ready })).square 1).faultCause = 1 ∧
      ((run (.br prog 9 0 5) (withSquare { state := .ready, evmask := 2, evpend := 2 })).square 1).pc = 5 := by decide

theorem test_wait_takes_or_waits :
    ((run (.wait prog 2 0 0x20002) (withSquare { state := .ready, evpend := 6 })).square 1).evpend = 4 ∧
      ((run (.wait prog 2 0 0x20001) (withSquare { state := .ready, evpend := 6 })).square 1).state = .waitEvent := by decide

/-- `MUL` takes 16 bits, `SAR` keeps the sign, `ADD` carries. -/
theorem test_arithmetic_corners :
    (run (.mul prog 1 2 3) (withRegs [(2, 0x1FFFF), (3, 3)])).reg 1 1 = 0xFFFFFFFD ∧
      (run (.sar prog 1 2 0 4) (withRegs [(2, 0x80000000)])).reg 1 1 = 0xF8000000 ∧
      ((run (.add prog 1 2 3) (withRegs [(2, 0xFFFFFFFF), (3, 1)])).square 1).c = true ∧
      (run (.max prog 1 2 3 true) (withRegs [(2, 0xFFFFFFFF), (3, 1)])).reg 1 1 = 0xFFFFFFFF := by decide

theorem test_hyp_illegal_opcode :
    (0x34000000 : Word).extractLsb' 26 6 = 0x0D ∧ decodeWord prog 0x34000000 = .illegalOpcode prog 0x0D ∧
      (0xFC000000 : Word).extractLsb' 26 6 = 0x3F := by decide

/-- `SIGNAL`: a1 and a FREE square are refused, a square in use is not. -/
theorem test_hyp_signal_sig :
    ((withA1 [(2, 64)]).reg 0 2).toNat % 64 = 0 ∧ (up.square 5).state = .free ∧
      ((withRegs [(2, 65)]).reg 1 2).toNat % 64 = 1 ∧ ((withRegs [(2, 65)]).square 1).state ≠ .free := by decide

theorem test_hyp_signal_start :
    ((List.range 64).all fun n => n == 0 ||
        !(({ up with squares := (List.range 63).map fun k => (k + 1, { state := .ready }) } : State).square n).state == .free) = true ∧
      ((withRegs []).square 2).state = .free ∧ ((withRegs []).square 1).state ≠ .free ∧
      ((List.range 63).all fun n => n == 0 ||
        !(({ up with squares := (List.range 62).map fun k => (k + 1, { state := .ready }) } : State).square n).state == .free) = true ∧
      (({ up with squares := (List.range 62).map fun k => (k + 1, { state := .ready }) } : State).square 63).state = .free := by
  decide

/-- The example of chapter 6: the started square is b1, at 0x0100, with priority 3 and class 1. -/
theorem test_signal_start_of_chapter_6 :
    let t := run (.signalStart host 1 4 0x100) (withA1 [(4, 0x310)])
    t.reg 0 1 = 1 ∧ (t.square 1).pc = 0x100 ∧ (t.square 1).prio = 3 ∧ (t.square 1).cls = 1 ∧ (t.square 1).state = .ready := by
  decide

theorem test_hyp_signal_control :
    ((withSquare { state := .halted }).square 1).state = .halted ∧ ((withSquare { state := .waitEvent }).square 1).state = .waitEvent ∧
      ((withRegs [(2, 1)]).reg 1 2).toNat % 64 = prog.idx ∧ ((withA1 [(2, 1)]).reg 0 2).toNat % 64 ≠ host.idx := by decide

theorem test_signal_stop_and_free :
    ((run (.signalStop host 1 2) { withA1 [(2, 1)] with squares := [(0, { g := [(2, 1)] }), (1, { state := .waitEvent, pc := 8 })] }).square 1).state =
        .halted ∧ ((run (.signalFree prog 1 2) (withRegs [(2, 1)])).square 1).state = .free := by decide

/-- Field instructions: an index at its bound, an address outside every unit, and the ends of a range. -/
theorem test_hyp_field_address :
    effectiveAddr 0x2000 256 = none ∧ effectiveAddr 0x2000 255 = some 0x2FF0 ∧ effectiveAddr 0x2010 255 = none ∧
      effectiveAddr 0x15000 0 = none ∧ effectiveAddr 0x14FFF 0 = some 0x14FFF ∧ effectiveAddr 0x14FFF 1 = none ∧
      effectiveAddr 0 0 = some 0 ∧ (⟨0x2000, 0x3000, 16, 256⟩ : UnitRange) ∈ unitRanges := by decide

theorem test_hyp_output_stage :
    ({ up with sid := { live := ⟨1, 2⟩ } } : State).rating .k ≠ Nat.max 1 2 ∧
      ({ up with sid := { live := ⟨1, 2⟩ } } : State).issuable host = true ∧ effectiveAddr 0xD000 0 = some 0xD000 ∧
      outputStage 0xD000 = true ∧ up.absentWord 0xD000 = false := by decide

theorem test_hyp_memory_windows :
    effectiveAddr 0x10000 0 = some 0x10000 ∧ effectiveAddr 0x10000 0x3FFF = some 0x13FFF ∧ effectiveAddr 0x14000 0 = some 0x14000 ∧
      effectiveAddr 0x14000 0xFFF = some 0x14FFF ∧ effectiveAddr 0x10000 0x4000 = none := by decide

theorem test_hyp_filter_field :
    effectiveAddr 0x5000 0 = some 0x5000 ∧ (wordRow 0x5000).isSome = true ∧ up.absentWord 0x5000 = false ∧
      effectiveAddr 0x5015 255 = some 0x8FD5 ∧ (wordRow 0x8FD5).isSome = true ∧ wordRow 0x503F = none := by decide

theorem test_hyp_take :
    effectiveAddr 0x2008 0 = some 0x2008 ∧ blockWords 0x2008 = some 2 ∧ blockWords 0x2009 = none ∧ up.absentWord 0x2008 = false ∧
      ((withRegs [(3, 4094)]).reg 1 3).toNat + 2 ≤ 4096 ∧ 4096 < ((withRegs [(3, 4095)]).reg 1 3).toNat + 2 := by decide

theorem test_take_copies_and_clears :
    let s : State := { withRegs [(3, 4094)] with regs := [(0x2008, 11), (0x2009, 22)] }
    Memory.read (run (.take prog 3 0 0x2008) s).scratch 4095 = 22 ∧ (run (.take prog 3 0 0x2008) s).word 0x2009 = 0 := by decide

theorem test_hyp_field_commands :
    up.accessible = true ∧ up.absentWord 0x2000 = false ∧ ({ up with shadow := [(0, 0x200)] } : State).absentWord 0x2800 = true ∧
      (wordRow 0x8FD5).isSome = true ∧ wordRow 0xFFFF = none ∧ 0 ∉ up.progBad := by decide

/-! #### Budget, admission, events -/

/-- The dearest cost that can be paid, and one that a1 cannot pay. -/
theorem test_hyp_spend :
    CanPay host (2 ^ 24) up ∧ CanPay prog 5 (withRegs []) ∧ ¬CanPay host 5 { up with debt := 1 } ∧
      ¬CanPay prog 5 { withRegs [] with bucket := 0 } ∧ ((withRegs [(2, 0xFFFFFFFF)]).reg 1 2).toNat + 1 > 2 ^ 24 := by
  refine ⟨⟨by decide, by decide, by decide⟩, ⟨by unfold OverAllowance; decide, .inr ⟨by decide, by decide⟩⟩, ?_, ?_, by decide⟩
  · rintro ⟨-, h, -⟩; exact absurd h (by decide)
  · rintro ⟨-, ⟨r, h, -⟩ | ⟨-, h⟩⟩
    · exact absurd h (by simp [withRegs, withSquare, State.square, sget])
    · exact absurd h (by decide)

/-- Squares that wait: one is the head by its priority; a request of the hardware stands behind it, or before it. -/
def waitingSquares : State := { up with
  squares := [(1, { state := .waitBudget, want := 10, prio := 2 }), (3, { state := .waitBudget, want := 7, prio := 6 })] }

theorem test_hyp_budget_granted :
    waitingSquares.coreOn = true ∧ waitingSquares.debt = 0 ∧ (waitingSquares.square 3).state = .waitBudget ∧
      (waitingSquares.square 3).barred = false ∧ 256 * (waitingSquares.square 3).want ≤ waitingSquares.available ∧
      (∀ j, j < 64 → (waitingSquares.square j).state = .waitBudget ∧ j ≠ 3 →
        (waitingSquares.square j).prio.toNat < (waitingSquares.square 3).prio.toNat) ∧ waitingSquares.hwreqs = [] := by decide

theorem test_hyp_hardware_granted :
    let s : State := { up with hwreqs := [] ++ ⟨.scrub, 30⟩ :: [⟨.scrub, 30⟩] }
    s.coreOn = true ∧ s.debt = 0 ∧ 256 * 30 ≤ s.available ∧ (∀ x ∈ [(⟨.scrub, 30⟩ : HwReq)], x.work.idx ≥ (HwWork.scrub).idx) ∧
      (∀ j, j < 64 → (s.square j).state ≠ .waitBudget) := by decide

/-- The example of chapter 5: at 96.0 °C the refill is 153/256 of its amount. -/
theorem test_refill_of_chapter_5 :
    let s := F.PWR_REFILL_AMOUNT.wr 0x100 ((F.ERR_TEMP_T 2).wr 384 ((F.ERR_TEMP_VALID 2).wr 1 { up with bucket := 0 }))
    (run .bucketRefill s).bucket = 153 ∧ (F.PWR_HEAT_TWARN.int s = 360 ∧ F.PWR_HEAT_TLIMIT.int s = 420) := by decide

theorem test_hyp_refill :
    (∀ r, r < 6 → (F.ERR_TEMP_VALID r).is up = false) ∧
      (F.ERR_TEMP_VALID 5).is ((F.ERR_TEMP_VALID 5).wr 1 up) = true ∧ F.PWR_HEAT_TWARN.int up < F.PWR_HEAT_TLIMIT.int up := by
  decide

theorem test_hyp_admit :
    up.mode = .idle ∧ (withRegs []).issuable prog = true ∧
      (∀ g, g < 16 → up.hasGroup g = true ∧
        ((List.range 16).map fun i => if (F.ADC_CFG_EN (16 * g + i)).coming up = 1 then 1 else 0).sum = 0) := by decide +kernel

theorem test_hyp_events :
    ({ withSquare { state := .waitEvent, evmask := 1, waitMask := 1 } with raised := [.all .orbit] } : State).raised =
        .all .orbit :: [] ∧ up.mode.runs = true ∧
      ((withSquare { state := .ready, timer := 1 }).square 1).timer = 1 ∧
      ((withSquare { bunchEn := true, bunch := 7 }).square 1).bunch.toNat = up.bcid := by decide

theorem test_event_wakes_a_waiting_square :
    ((run .eventLatch { withSquare { state := .waitEvent, evmask := 0x1FFF, waitMask := 0x1FFF } with
      raised := [.all .orbit] }).square 1).state = .ready := by decide +kernel

/-! #### Converters, monitor, LED -/

theorem test_hyp_conv_quadrant :
    up.hasQuad 3 = true ∧ ({ up with shadow := [(0, 0x200)] } : State).hasQuad 2 = false ∧
      ((withRegs [(2, 0x1000000)]).reg 1 2).toNat = 2 ^ 24 ∧ ((withRegs [(2, 0)]).reg 1 2).toNat = 0 ∧
      ({ up with quadRun := [(3, some { count := 4, first := some 4990, stop := 5000 })] } : State).quadConv 3 =
        some { count := 4, first := some 4990, stop := 5000 } := by decide

/-- The monitor with an entry without excitation and one at 500 uA, 50 S/s, whose cost chapter 5 gives as 3301 EU. -/
def monUp : State :=
  F.MON_CTL_LEN.wr 2 ((F.MON_CONV_EXC 1).wr 5 ((F.MON_CONV_RATE 1).wr 1 (withRegs [])))

theorem test_hyp_conv_monitor :
    monUp.monLen = 2 ∧ (F.MON_CONV_EXC 0).rd monUp = 0 ∧ (F.MON_CONV_EXC 1).rd monUp = 5 ∧ monUp.mon.cal = none ∧
      monUp.claimOk host = true ∧ ({ monUp with sid := { live := ⟨1, 2⟩ } } : State).claimOk host = false ∧
      CanPay host (monUp.monCost 1) monUp ∧ monUp.monRuns = true ∧
      ((withSquare { state := .running, held := some (.conv 0) }).square 1).held = some (.conv 0) := by
  refine ⟨by decide, by decide, by decide, by decide, by decide, by decide, ⟨by decide, by decide, by decide⟩, by decide, by decide⟩

theorem test_hyp_monitor_entries :
    monUp.mon.cur = none ∧ monUp.startCheck 0 = .bad ∧
      ((F.MON_PINS_NEG 0).wr 1 ((F.MON_PINS_POS 0).wr 0 up)).startCheck 0 = .run := by decide

/-- A result of a regular entry, an injected entry next, and one that a `CONV` asked for. -/
theorem test_hyp_monitor_results :
    (let r : MonRun := ⟨.regular, 39, 1, 0, 0, 0, 0, 0, 0, 0, 1⟩
     let s : State := { up with mon := { cur := some r, seqOn := true } }
     s.mon.cur = some r ∧ r.entry < 40 ∧ s.drained 23 = false ∧ (s.group 9).st = .active) ∧
      (let s : State := F.MON_CTL_ILEN.wr 8 { up with mon := { inj := some 7 } }
       s.mon.inj = some 7 ∧ 7 < s.monIlen ∧ s.mon.stopped = []) ∧
      ({ up with mon := { extra := [31] } } : State).mon.extra = 31 :: [] ∧
      ({ up with mon := { seqOn := true, next := 1, len := 2 } } : State).mon.seqOn = true ∧
      F.MON_CTL_RUN.is up = false ∧ (F.MON_CMP_OUT 39).is ((F.MON_CMP_OUT 39).wr 1 up) = true := by decide

/-- The costs of chapters 5 and 17: 3301 EU at 500 uA and 50 S/s, 33,001 EU for two sources at 10 S/s, 34 EU at 10 uA and 100 S/s. -/
theorem test_monitor_costs :
    ((F.MON_CONV_RATE 1).wr 3 ((F.MON_CONV_EXC 1).wr 5 up)).monCost 1 = 3301 ∧
      ((F.MON_CONV_WIRE 0).wr 1 ((F.MON_CONV_EXC 0).wr 5 up)).monCost 0 = 33001 ∧
      ((F.MON_CONV_RATE 1).wr 5 ((F.MON_CONV_EXC 1).wr 1 up)).monCost 1 = 34 := by decide

theorem test_hyp_cal :
    up.adcCal = false ∧ up.mon.cal = none ∧ CanPay host 2700000 up ∧ up.gainsInUse = 0 ∧
      ((List.range 8).filter fun k => (0x81 : BitVec 8).toNat / 2 ^ k % 2 == 1).length = 2 ∧ CanPay host 800000 up := by
  exact ⟨by decide, by decide, ⟨by decide, by decide, by decide⟩, by decide, by decide, by decide, by decide, by decide⟩

theorem test_hyp_ledp :
    up.hasLed = true ∧ ({ up with shadow := [(0, 0x100)] } : State).hasLed = false ∧ up.claimOk host = true ∧ CanPay host 32 up ∧
      up.led.slot 0 = none ∧
      (∀ k, k < 8 → ({ up with led := { slots := (List.range 8).map fun i =>
        (i, some ⟨i, 0, 40, false, 4, 0, 3, 0, 0, i⟩) } } : State).led.slot k ≠ none) ∧
      ((withRegs [(5, 0x5F000098)]).reg 1 5).toNat % 2 ^ 24 = 152 ∧ ((withRegs [(5, 2000)]).reg 1 5).toNat = 2000 := by
  exact ⟨by decide, by decide, by decide, ⟨by decide, by decide, by decide⟩, by decide, by decide, by decide, by decide⟩

/-- The example of chapter 6: 16 pulses cost 32 EU and stand in slot 0. -/
theorem test_ledp_of_chapter_6 :
    let t := run (.ledp prog 6 5 37 false 16) (withRegs [(5, 0x5F000020), (6, 0x00100DAC)])
    t.bucket = 2 ^ 32 - 256 * 32 ∧ (t.led.slot 0).map (fun x => (x.lamp, x.count, x.spacing)) = some (37, 16, 4) := by decide

theorem test_hyp_lamps :
    let s : State := F.LED_CTL_EN.wr 1 { up with led := { rowOn := true, row := 2, dues := [⟨0, 0, 37, 95, 40, false, 5000⟩], diag := some 32
                                                          cols := [(9, some ⟨41, 0, 1600, false, true⟩)] } }
    s.ledOn = true ∧ s.ledScale ≠ 0 ∧ s.led.col 5 = none ∧ s.led.row = 37 / 16 ∧ s.stoppedAt 24 s.bp = false ∧
      s.led.col 9 = some ⟨41, 0, 1600, false, true⟩ ∧ s.led.diag = some 32 ∧
      ({ up with led := { blanking := true } } : State).led.blanking = true ∧
      34 * ledQmax 0 < 17000000 + (85 + 8 * 0) * 8 := by decide

/-- The example of chapter 18: the cap of 50 mA and a scale of 128 leave code 21, and the pulse is derated. -/
theorem test_derating_of_chapter_18 :
    let s : State := F.LED_HEAT_TDER.wr 160 (F.LED_HEAT_TCUT.wr 220 (F.LED_TSTAT_T.wr 190 (F.LED_TSTAT_VALID.wr 1
      (F.LED_CTL_EN.wr 1 { up with cyc := 0, led := { rowOn := true, row := 2, dues := [⟨0, 0, 37, 0x5F, 40, false, 5000⟩] } }))))
    s.ledScale = 128 ∧ ((run .ledPulseFire s).led.col 5).map (·.code) = some 21 := by decide

/-! #### Marks, captures, records, packets -/

/-- The hub in STREAM, and in CAPTURE. -/
def streaming : State := { withRegs [] with mode := .stream }
def capturing : State := { withRegs [] with mode := .capture }

theorem test_hyp_mark :
    streaming.issuable prog = true ∧ up.mode ≠ .stream ∧ streaming.wins = [] ∧
      ((streaming.windowChans streaming.bp).map (streaming.openingCost streaming.bp 9)).sum ≤ (streaming.credit true).toNat ∧
      ({ streaming with marks := [⟨0, 0, 0, 7⟩] } : State).marks = [⟨0, 0, streaming.orbit, streaming.bcid⟩] ∧
      (F.ACQ_CREDW_CREDIT.wrInt (-1) streaming).credit true < 0 := by decide +kernel

theorem test_mark_of_a_bp_is_made_once :
    (run (.mark prog 1 false 5) streaming).marks = [⟨0, 0, 0, 7⟩] ∧
      (run (.mark prog 1 false 5) (withSquare { state := .ready })).marks = [] ∧
      (run (.mark prog 1 false 5) { streaming with marks := [⟨0, 0, 0, 7⟩] }).marks = [⟨0, 0, 0, 7⟩] := by decide +kernel

theorem test_hyp_arm :
    capturing.issuable prog = true ∧ capturing.mode = .capture ∧ capturing.cap.st = .off ∧
      ({ capturing with cap := { st := .post } } : State).cap.st = .post ∧ capturing.capPackets = false ∧
      capturing.pagesFor .w capturing.capArea = true ∧ ({ capturing with cap := { st := .waitRel } } : State).coreOn = true ∧
      (5000 : Nat) + 1 + 3 ≤ ({ capturing with bp := 6000, cap := { st := .post, post := 1, trig := ⟨5000, 7, 0⟩ } } : State).bp := by
  decide +kernel

theorem test_arm_arms :
    (run (.arm prog 100) capturing).cap.st = .armed ∧ ((run (.arm prog 100) up).cap.st = .off) := by decide +kernel

/-- `EMIT`: the longest record, one word more, and the end of scratch memory. -/
theorem test_hyp_emit :
    (2040 : BitVec 12).toNat = 2040 ∧ ((withRegs [(2, 2056)]).reg 1 2).toNat + 2040 = 4096 ∧
      ((withRegs [(2, 2057)]).reg 1 2).toNat + 2040 = 4097 ∧ 4095 ∉ up.scratchBad ∧
      (emitNow 1 0 [1, 2] (withRegs [])).isSome = true ∧
      (emitNow 1 0 [1, 2] { withRegs [] with cap := { st := .armed } }).isNone = true ∧
      ({ withRegs [] with cap := { st := .armed } } : State).ringFills = true := by decide +kernel

theorem test_emit_makes_a_record :
    ((run (.emit prog 2 5 1) { withRegs [] with scratch := [(0, 3)] }).packets.map (·.recs)) =
      [[.m 3 1 4 7 5 [3]]] := by decide +kernel

/-- A hit whose window is complete, with credit and without; a window whose record is whole; an open packet that is idle. -/
def withHit : State := { streaming with
  slices := [(0, { waiting := [⟨⟨4900, 7, 0⟩, 100, 8, false, false, true, 4900, 4900, none⟩]
                   ring := [⟨⟨4902, 9, 0⟩, false, 5, false, 5, 5, false⟩, ⟨⟨4901, 8, 0⟩, false, 5, false, 5, 5, false⟩,
                            ⟨⟨4900, 7, 0⟩, false, 5, false, 5, 5, false⟩] })] }

theorem test_hyp_records :
    withHit.stoppedAt 0 withHit.bp = false ∧ (withHit.hitWindow 0 ⟨⟨4900, 7, 0⟩, 100, 8, false, false, true, 4900, 4900, none⟩).isSome = true ∧
      ((640 + 64 : Int) ≤ (F.ACQ_CREDH_CREDIT.wrInt 100000 withHit).credit false ∧
        (F.ACQ_CREDH_CREDIT.wrInt (-1) withHit).credit false < 640) ∧ withHit.overShed = false := by decide +kernel

theorem test_hyp_window :
    let s : State := { withHit with wins := [⟨4900, 4902, 0, [0, 1], [], []⟩] }
    s.wins = [] ++ ⟨4900, 4902, 0, [0, 1], [], []⟩ :: [] ∧ ((s.slice 0).ring.reverse.filter fun v =>
      Nat.ble 4900 v.tag.bp && Nat.ble v.tag.bp 4902).length = 3 := by decide +kernel

/-- A packet of class M, open since BP 4000. -/
def packet : Packet := { pid := 3, cls := .m, orbit := 0, bcid := 7, hubid := 0, recs := [.m 3 1 6 0 0 [0, 0, 0, 0, 0, 0]], b := 12, lastBp := 4000 }

theorem test_hyp_packet_close :
    ({ streaming with packets := [packet] } : State).openPacket .m = some packet ∧
      packet.lastBp + max 1 (F.ACQ_METER_FLUSH.rd streaming) + 1 ≤ streaming.bp ∧ streaming.creq .m = false ∧
      (F.BUF_CFG_CREQ.wr 15 streaming).creq .m = true ∧ streaming.engineUp 0 = true ∧
      (F.CMP_CFG_ENGEN.wr 0 streaming).engineUp 7 = false := by decide +kernel

theorem test_hyp_record_space :
    let w : Waiting := ⟨5, .m, ⟨5000, 7, 0⟩, false, false, false, false, .m 3 1 6 7 0 [0], 0, .behind⟩
    let s : State := { streaming with waiting := [w] }
    s.ringFills = false ∧ s.openPacket .m = none ∧ s.descFor .m = true ∧ w.r.size ≤ 16000 ∧
      ({ s with cap := { st := .armed } } : State).ringFills = true := by decide +kernel

theorem test_record_space_lets_a_record_in :
    let w : Waiting := ⟨5, .m, ⟨5000, 7, 0⟩, false, false, false, false, .m 3 1 6 7 0 [0], 0, .behind⟩
    (run (.recordSpaceGrant 5) { streaming with waiting := [w] }).waiting = [] := by decide +kernel

/-- A packet in a job of engine 0, and one that is ready to be sent. -/
def inJob : State := { streaming with packets := [{ packet with st := .job 0 }], jobs := [(0, 3)] }
def complete : State :=
  (F.LNK_PCFG_EN 2).wr 1 ((F.LNK_LGSTAT_MEMBERS 0).wr 15 ((F.LNK_PSTAT_LOCKED 2).wr 1 ((F.LNK_LGSTAT_SINGLE 0).wr 0
    { streaming with packets := [{ packet with st := .complete }] })))

theorem test_hyp_engines :
    (oldestPacket ({ streaming with packets := [{ packet with st := .queued }] } : State).packets).isSome = true ∧
      streaming.freeEngine = some 0 ∧ streaming.pagesFor .m 1 = true ∧
      (inJob.jobOf 0).map (·.pid) = some 3 ∧ inJob.ringFills = false ∧
      streaming.absentWord F.CMP_STAT_ENGQ.addr = false ∧ natBit (F.CMP_STAT_ENGQ.rd (F.CMP_STAT_ENGQ.wr 4 up)) 2 = true ∧
      (List.range 8).all (fun e => !(F.CMP_CFG_ENGEN.wr 0 streaming).engineUp e) = true := by decide +kernel

/-- The job of Table 12-5: 22 bytes, in a slot of 24 with B = 12, and past one of 20 with B = 10. -/
theorem test_slots_of_chapter_12 :
    packet.compressed.take 8 = [0x10, 0x04, 0, 0, 0, 0, 0, 0] ∧ packet.compressed.length = 22 ∧ packet.slot = 24 ∧
      ({ packet with b := 10 } : Packet).slot = 20 := by decide +kernel

theorem test_hyp_framers :
    complete.framerUp .k = true ∧ (complete.nextSend .k).isSome = true ∧ (complete.group 0).st = .active ∧
      ({ complete with sends := [⟨.k, 2, 3, false, false⟩] } : State).packet 3 = some { packet with st := .complete } := by
  decide +kernel

theorem test_hyp_gambit :
    let p : Packet := { packet with st := .job 0, b := 16, recs := [.m 3 1 6 7 0 ((List.range 80).map fun n => BitVec.ofNat 32 (n * 77773777))] }
    let s := F.BUF_CFG_CUT.wr 1 { complete with packets := [p], jobs := [(0, 3)] }
    s.jobOf 0 = some p ∧ s.mayGambit p = true ∧ s.unsentBy .k p = true ∧ s.readyFor .k = [] ∧ (s.placeFor .k p).isSome = true := by
  decide +kernel

theorem test_hyp_dead_sides :
    F.BUF_DEAD_BP.rd (F.BUF_DEAD_BP.wr 5 up) ≠ 0 ∧ ({ up with deadCnt := ⟨5, 0⟩ } : State).deadCnt.get .k = 5 ∧
      (F.BUF_DEAD_OFFQ.wr 1 up).declaredDead .q = true ∧ up.declaredDead .k = false ∧
      natBit (F.BUF_SIDE_DEAD.rd (F.BUF_SIDE_DEAD.wr 2 up)) 1 = true ∧ (0xC0000000 : Word).getLsbD 31 = true := by decide +kernel

theorem test_hyp_scrub :
    let s : State := { up with gap := { inGap := true, scrub := true }, progBad := [0], scrubProg := 16383, scrubScratch := 4095 }
    s.gap.scrub = true ∧ (s.scrubProg + 1) % 16384 = 0 ∧ (s.scrubScratch + 1) % 4096 = 0 ∧ 0 ∈ s.progBad := by decide

theorem test_scrub_finds_a_bad_program_word :
    let t := run (.scrubPass [] .uncorrectable .clean) { F.RST_STATUS_PMVALID.wr 1 up with gap := { inGap := true, scrub := true } }
    F.RST_STATUS_PMVALID.is t = false ∧ t.progBad = [0] ∧ t.scrubProg = 1 := by decide +kernel

/-! #### Modes, fuses, restarts -/

theorem test_hyp_power :
    ({ up with target := some .capture } : State).target = some .capture ∧ up.target = none ∧ (12 : BitVec 4).toNat = 12 ∧
      (∀ n, n < 9 → (up.group n).st = .active) ∧ up.neededQuads = [] ∧ (up.pins.testen = false) ∧
      (List.range 12).map (fun n => (BitVec.ofNat 4 n).toNat) = List.range 12 := by decide +kernel

theorem test_power_moves_and_refuses :
    (run (.power prog 1 8) (withRegs [])).target = some .doze ∧ (nextBp (run (.power prog 1 8) (withRegs []))).mode = .doze ∧ (run (.power prog 1 8) (withRegs [])).reg 1 1 = 4 ∧
      ((run (.power prog 1 10) (withRegs [])).square 1).f = true := by decide +kernel

/-- A hub in TEST, with a FUSE in its first square, and one whose word 10 is locked. -/
def fusing : State := { withSquare { state := .running, held := some (.fuse 9 3 2) } with mode := .test }
def locked : State := { withRegs [] with mode := .test, fuses := [(12, 4)] }

theorem test_hyp_fuse :
    ((fusing.square 1).held = some (.fuse 9 3 2) ∧ (fusing.square 0).fusing = false ∧ fusing.target = none) ∧
      (locked.fuseWord 12).getLsbD (10 - 8) = true ∧ (locked.fuseWord 12).getLsbD (9 - 8) = false ∧
      locked.issuable prog = true ∧ ({ locked with shadow := [(0, 0x100)] } : State).isB = true := by decide

theorem test_fuse_leaves_what_did_not_program :
    let t := run (.fuseProgramDone 1) fusing
    t.fuseWord 9 = 1 ∧ t.reg 1 2 = 2 ∧ (t.square 1).z = false := by decide

theorem test_hyp_restart :
    up.mode.restartOk = true ∧ up.restarting 28 = false ∧ up.hasBlock 28 = true ∧ up.hasBlock 29 = false ∧
      ({ up with shadow := [(0, 0x100)] } : State).hasBlock 22 = false ∧
      (let s : State := { up with restarts := [⟨3, 4990, some ⟨4990, 1, 0⟩, false, false, 0, false, 0, 0, 0⟩] }
       s.quiescing 3 = some ⟨3, 4990, some ⟨4990, 1, 0⟩, false, false, 0, false, 0, 0, 0⟩ ∧ s.blockDrained 3 = true ∧
        4990 + F.RST_QTIMEOUT_BP.rd (F.RST_QTIMEOUT_BP.wr 10 s) ≤ s.bp) ∧
      (let s : State := { up with restarts := [⟨3, 4980, some ⟨4980, 1, 0⟩, false, true, 4992, false, 0, 0, 0⟩] }
       s.restarts.find? (fun r => r.block == 3 && r.resetting) = some ⟨3, 4980, some ⟨4980, 1, 0⟩, false, true, 4992, false, 0, 0, 0⟩ ∧
        4992 + 8 ≤ s.bp) := by decide +kernel

theorem test_block_returns_stale :
    (run (.blockResetEnd 3) { up with restarts := [⟨3, 4980, some ⟨4980, 1, 0⟩, false, true, 4992, false, 0, 0, 0⟩] }).staleBlock 3 = true := by
  decide +kernel

theorem test_hyp_sources :
    up.rst.pin = false ∧ up.episode = false ∧ up.pinReach = .chip ∧ ({ up with shadow := [(8, 1)] } : State).pinReach = .core ∧
      ({ up with shadow := [(8, 2)] } : State).pinReach = .control := by decide

/-- The states of a start. -/
def starting (r : Reach) : State := { up with mode := .hold, rst := { por := true, reach := some r } }

theorem test_hyp_start :
    ((starting .chip).rst.por = true ∧ (starting .chip).rst.pin = false ∧ (starting .core).coreOn = true) ∧
      (F.RST_STATUS_STEP.rd (F.RST_STATUS_STEP.wr 1 { up with mode := .fuseLoad }) = 1) ∧
      ({ up with mode := .settle } : State).topClaim ≠ 0 ∧
      (let s := F.RST_STATUS_STEP.wr 5 { up with mode := .hold, rst := { por := false, reach := some .core, starting := true } }
       s.rst.starting = true ∧ F.RST_STATUS_STEP.rd s = 5 ∧ s.coreOn = true ∧ s.mode = .hold) ∧
      (let s := F.RST_STATUS_STEP.wr 5 { up with rst := { por := false, reach := some .control, starting := true } }
       s.rst.reach = some .control ∧ F.RST_STATUS_STEP.rd s = 5) := by decide

theorem test_chip_start_reaches_fuse_load : (run .porRelease (starting .chip)).mode = .fuseLoad := by decide +kernel

theorem test_hyp_clock :
    up.clk.ref = some .k ∧ up.clk.pllLock = true ∧ up.clk.holdover = false ∧ up.claims .q = true ∧
      ({ up with clk := { up.clk with switchTo := some .q } } : State).clk.switchTo = some .q ∧
      ({ up with clk := { up.clk with ref := none, holdover := true }, sid := {} } : State).topClaim = 0 ∧
      ({ up with clk := { up.clk with ref := none, holdover := true, holdBp := 4998 } } : State).clk.holdBp + 2 ≤ up.bp ∧
      (257 : BitVec 11).toInt = 257 ∧ (-512 : BitVec 11).toInt = -512 ∧ ({ up with mode := .safe } : State).topClaim ≠ 0 := by decide

theorem test_stop_of_the_reference_begins_holdover :
    (run (.activityStop .k) up).clk.holdover = true ∧ (run (.activityStop .k) up).clk.holdSince = 4995 := by decide +kernel

theorem test_hyp_sides :
    (let s : State := { up with clk := { up.clk with locked := ⟨true, false⟩ }, sid := { live := ⟨1, 0⟩, healthy := ⟨true, false⟩ } }
     s.clk.locked.get .q = false ∧ s.clk.act.get .q = true ∧ s.rst.reach = none ∧ s.sid.healthy.get .q = false ∧ s.topClaim ≠ 0) ∧
      up.clk.locked.get .k = true ∧
      (let s : State := { up with sid := { up.sid with ret := ⟨none, some ⟨false, 100⟩⟩ } }
       s.sid.ret.get .q = some ⟨false, 100⟩ ∧ F.SID_CFG_HOLDOFF.rd s ≤ 100) := by decide

theorem test_hyp_calibrations_end :
    ({ up with adcCal := true, mode := .calibrate } : State).adcCal = true ∧
      ({ up with mon := { cal := some 3 } } : State).mon.cal = some 3 ∧ ((F.LNK_PCFG_EN 2).wr 1 up).powered 2 = true ∧
      up.powered 0 = true := by decide

theorem test_hyp_power_groups :
    (let s : State := { up with groups := [(5, ⟨.deep, some .active, 0⟩)] }
     (s.group 5).exit = some .active ∧ (s.group 5).st = .deep) ∧
      up.hasFn 5 = true ∧ ({ up with mode := .doze } : State).fnIdle 5 = true ∧ (up.group 5).exit = none ∧
      (up.group 5).st.code < (({ up with mode := .doze } : State).restState 5).code ∧
      (exitIdle 5 = 2000 ∧ exitDeep 5 = 400000) := by decide +kernel

/-- Table 4-4: a tolerance below the exit latency of IDLE wakes the group. -/
theorem test_short_tolerance_wakes_a_group :
    ((run (.pwrLtolWrite 9 49999) { up with groups := [(9, ⟨.idle, none, 0⟩)] }).group 9).exit = some .active ∧
      ((run (.pwrLtolWrite 9 50000) { up with groups := [(9, ⟨.idle, none, 0⟩)] }).group 9).exit = none := by decide +kernel

/-! #### The link, the orbit, the gaps -/

theorem test_hyp_downlink :
    up.clk.locked.get .k = true ∧ ({ up with clk := { up.clk with locked := ⟨false, true⟩ } } : State).clk.locked.get Side.q.other = false ∧
      (2 ^ 43 + 5 * 2 ^ 27 : Nat) / 2 ^ 43 = 1 ∧ up.rating .k ≠ 0 ∧ up.sid.part.get .k = none ∧
      ({ up with sid := { up.sid with part := ⟨some (5, 7), none⟩ } } : State).sid.part.get .k = some (5, 7) ∧
      up.duplicate .k 5 = none ∧ ({ up with sid := { up.sid with window := [⟨5, 1, .k⟩] } } : State).duplicate .k 5 = some (1, .k) ∧
      up.a1.queue.length < 64 := by decide

/-- R410: the two parts of a command make it, and it stands in the queue of a1. -/
theorem test_downlink_makes_a_command :
    let first : BitVec 44 := BitVec.ofNat 44 (2 ^ 43 + 5 * 2 ^ 27 + 0x6840 * 2 ^ 11)
    let second : BitVec 44 := BitVec.ofNat 44 (3 * 2 ^ 27)
    ((run (.downlinkFrame .k true 2 0 second) (run (.downlinkFrame .k true 2 0 first) up)).a1.queue) = [⟨.k, 5, 0x68400003, 40001⟩] := by
  decide +kernel

theorem test_hyp_uplink :
    up.loopOn 0 = false ∧ up.bcid ≠ 0 ∧ up.rating .k ≠ 0 ∧ up.sendingAt 0 = none ∧ up.sid.own.get .k = [] ∧
      ({ up with sid := { up.sid with own := ⟨[.qfull 5], []⟩ } } : State).sid.own.get .k = [.qfull 5] ∧
      ({ up with tm := { sending := [(0, some ⟨[1, 2, 3, 4, 5], 4⟩)] } } : State).sendingAt 0 = some ⟨[1, 2, 3, 4, 5], 4⟩ ∧
      ({ up with shadow := [(11, 0x20)] } : State).rating .k = 0 := by decide

theorem test_hyp_partner :
    up.hasPort 22 = true ∧ (F.LNK_PCFG_EN 22).is ((F.LNK_PCFG_EN 22).wr 1 up) = true ∧ up.rating .k ≠ 0 ∧
      (let l : List BpRec := [⟨⟨4999, 6, 0⟩, 5, .idle, {}, 0, 15, []⟩]
       (l.take 64).find? (fun r => r.tag.bcid % 256 == 6) = some ⟨⟨4999, 6, 0⟩, 5, .idle, {}, 0, 15, []⟩ ∧
         (l.take 64).find? (fun r => r.tag.bcid % 256 == 8) = none) := by decide

theorem test_coincidence_counts :
    (F.LNK_PCOINC_COUNT 22).rd (run (.partnerFrameReceived .k 4 6) { (F.LNK_PSTAT_LOCKED 22).wr 1 up with bpHist := [⟨⟨4999, 6, 0⟩, 5, .idle, {}, 0, 15, []⟩] }) = 1 ∧
      (F.LNK_PCOINC_COUNT 22).rd (run (.partnerFrameReceived .k 2 6) { (F.LNK_PSTAT_LOCKED 22).wr 1 up with bpHist := [⟨⟨4999, 6, 0⟩, 5, .idle, {}, 0, 15, []⟩] }) = 0 := by
  decide +kernel

theorem test_hyp_fast_commands :
    ({ up with clk := {} } : State).coreOn = false ∧ up.clk.ref ≠ some .q ∧ up.coreOn = true := by decide

theorem test_hyp_orbit :
    up.clk.ref = some .k ∧ up.bcid ≠ 0 ∧ ({ up with bcid := 0 } : State).bcid = 0 ∧ up.mode ≠ .stream ∧ up.rwo = [] ∧ up.bgDone = [] ∧
      ({ up with target := some .stream } : State).target = some .stream ∧
      ({ streaming with target := some .idle } : State).target = some .idle := by decide

theorem test_orbit_command_of_the_reference :
    (run (.orbit .k) { up with bcid := 0 }).orbSeen = true ∧ (run (.orbit .q) { up with bcid := 0 }).orbSeen = false := by
  decide +kernel

theorem test_hyp_gaps :
    up.gap.inGap = false ∧ ({ up with gap := { inGap := true } } : State).gap.inGap = true ∧
      F.TDC_CALCTL_EN.is (F.TDC_CALCTL_EN.wr 1 up) = true ∧ F.ERR_GAPCFG_SCRUBEN.is (F.ERR_GAPCFG_SCRUBEN.wr 1 up) = true ∧
      up.gap.begun = F.ERR_GAPCFG_TDCGAP.rd up ∧ ({ up with tb := [(3, { align := true })] } : State).tb ≠ [] ∧
      (HwWork.scrub).gapBound = true := by decide

theorem test_gap_asks_for_scrubbing :
    (run (.gapBegin .k) (F.ERR_GAPCFG_SCRUBEN.wr 1 up)).hwreqs = [⟨.scrub, 30⟩] ∧
      (run (.gapEnd .k) { up with gap := { inGap := true }, hwreqs := [⟨.scrub, 30⟩, ⟨.mon, 5⟩] }).hwreqs = [⟨.mon, 5⟩] := by
  decide +kernel

theorem test_hyp_runs_end :
    let r : TdcRun := ⟨1, 15, 4952, 2, false⟩
    ({ up with gap := { tdc := some r } } : State).gap.tdc = some r ∧ r.start + 48 ≤ up.bp ∧
      ({ up with gap := { inGap := true, start := 4936, tdc := some { r with ended := true } } } : State).gap.start + 64 ≤ up.bp ∧
      ({ up with gap := { lane := .adc 5 4952 } } : State).gap.lane = .adc 5 4952 ∧ up.quadState 0 = .active ∧
      ({ up with gap := { lane := .quiet } } : State).gap.lane = .quiet := by decide

/-! #### Slices, timing, the trigger bus -/

/-- A slice whose stage is on and whose threshold is set, enabled for conversion. -/
def slice : State := (F.AFE_CFG_ON 0).wr 1 ((F.AFE_DISC_THR 0).wr 5 ((F.ADC_CFG_EN 0).wr 1 up))

theorem test_hyp_triggers :
    F.ACQ_MARKCFG_CMDEN.is up = false ∧ F.ACQ_MARKCFG_CMDEN.is (F.ACQ_MARKCFG_CMDEN.wr 1 streaming) = true ∧ streaming.marks = [] ∧
      (let s := (F.AFE_PAMP_AMP 0).wr 9 ((F.AFE_PULSE_SRC 0).wr 3 ((F.AFE_PULSE_BCID 0).wr 7 slice))
       s.stagePowered 0 = true ∧ (F.AFE_PAMP_AMP 0).rd s ≠ 0 ∧ (F.AFE_PULSE_SRC 0).rd s = 3 ∧ (F.AFE_PULSE_BCID 0).rd s = s.bcid) := by decide

theorem test_pulser_fires_once_in_78_bp :
    let s := (F.AFE_PAMP_AMP 0).wr 9 ((F.AFE_PULSE_SRC 0).wr 2 ((F.AFE_PULSE_BCID 0).wr 7 slice))
    ((run (.pulserFire 0) s).slice 0).pulse = some ⟨5000, 5120000, 36, 18, false⟩ ∧
      ((run (.pulserFire 0) { s with slices := [(0, { pulse := some ⟨4922, 4922 * 1024, 36, 18, false⟩ })] }).slice 0).pulse =
        some ⟨5000, 5120000, 36, 18, false⟩ ∧
      ((run (.pulserFire 0) { s with slices := [(0, { pulse := some ⟨4939, 4939 * 1024, 36, 18, false⟩ })] }).slice 0).pulse =
        some ⟨4939, 4939 * 1024, 36, 18, false⟩ := by decide +kernel

theorem test_hyp_ledger :
    let l : Ledger := { orbit := 3, first := 4000, final := 4900, nb := 901, age := 64, srecs := 0, restarts := 0, pktH := 0, pktW := 0
                        pktS := 0, pktM := 0, sec := 0, ns := 0, frac := 0, tstale := false, hold := false, last := false, ended := true }
    ({ streaming with ledgers := [l] } : State).ledgers = l :: [] ∧ l.ended = true ∧ 64 ≤ l.age ∧ streaming.waiting = [] := by decide

theorem test_hyp_leading_edge :
    slice.discActive 0 = true ∧ (slice.slice 0).high = false ∧ slice.stoppedAt 0 slice.bp = false ∧
      ({ slice with restarts := [⟨0, 4990, none, false, false, 0, false, 0, 0, 0⟩] } : State).stoppedAt 0 5000 = true ∧
      ([⟨⟨5000, 7, 0⟩, 186, 94, false, false, false, 5000, 5000, none⟩] : List Hit).getLast? = some ⟨⟨5000, 7, 0⟩, 186, 94, false, false, false, 5000, 5000, none⟩ := by
  decide

/-- The example of chapter 9: the hit of codes 45 and 58 with edges of cycles 13 and 37, and the merged pair's TOT. -/
theorem test_hit_of_chapter_9_is_queued :
    let s := { slice with regs := (0x4000, (1064 * 65536 + 528 : Word)) :: (0x4001, (1064 * 65536 + 528 : Word)) :: slice.regs }
    ((run (.discTrailingEdge 0 58 37) (run (.discLeadingEdge 0 45 13 false) s)).slice 0).queue.map (fun h => (h.fine, h.tot)) =
      [(186, 94)] := by decide +kernel

theorem test_hyp_hits :
    let h : OpenHit := ⟨⟨4999, 6, 0⟩, 100, false, false, 4999, true, false⟩
    let d : Hit := ⟨⟨4990, 6, 0⟩, 100, 8, false, false, true, 4997, 4990, none⟩
    (({ up with slices := [(255, { high := true, openHit := some h })] } : State).slice 255).openHit = some h ∧
      (({ up with slices := [(0, { high := true, queue := List.replicate 8 d })] } : State).slice 0).queue.length = 8 ∧
      (({ up with slices := [(0, { queue := [d] })] } : State).slice 0).queue = d :: [] ∧ d.doneBp + 3 ≤ up.bp ∧ up.hasChan 255 = true := by
  decide

theorem test_hyp_quarantine :
    up.quar 255 = false ∧ ((F.AFE_STAT_QUAR 3).wr 1 up).quar 3 = true ∧ up.absentWord (F.AFE_STAT_QREQ 255).addr = false ∧
      (F.AFE_STUCK_BP 0).rd ((F.AFE_STUCK_BP 0).wr 9 up) = 9 ∧
      (9 : Nat) ≤ (({ up with slices := [(0, { highRun := 9 })] } : State).slice 0).highRun ∧
      F.ERR_CFG_PARMAX.rd up < (0xFFFFFFFF : Word).toNat := by decide

theorem test_stuck_slice_is_quarantined :
    let s : State := { (F.AFE_STUCK_BP 0).wr 9 up with slices := [(0, { high := true, highRun := 9 })] }
    (run (.stuckDetect 0) s).quar 0 = true ∧ (F.AFE_STAT_QCAUSE 0).rd (run (.stuckDetect 0) s) = 2 := by decide +kernel

theorem test_hyp_outputs :
    up.orHigh 0 = false ∧ ({ (F.TRG_FOMASK0_MASK 0).wr 1 slice with slices := [(0, { high := true })] } : State).orHigh 0 = true ∧ up.hasQuad 3 = true ∧
      (up.line 3).level = false ∧ (F.TDC_TBCAP_ARM 3).is ((F.TDC_TBCAP_ARM 3).wr 1 up) = true := by decide

theorem test_hyp_trigger_bus :
    (({ up with tb := [(2, { dues := [5000], alignDue := some 5000 })] } : State).line 2).dues = 5000 :: [] ∧
      (({ up with tb := [(2, { dues := [5000], alignDue := some 5000 })] } : State).line 2).alignDue = some 5000 := by decide

theorem test_hyp_bus_edges :
    (F.ACQ_MARKCFG_TBEN.rd (F.ACQ_MARKCFG_TBEN.wr 8 streaming)).testBit 3 = true ∧
      (let s : State := F.ACQ_CAPCFG_SRC.wr 1 { capturing with cap := { st := .armed, armBp := 4999 } }
       F.ACQ_CAPCFG_SRC.rd s = 1 ∧ s.cap.armBp < s.bp ∧ F.ACQ_CAPCFG_TBLINE.rd s = 0) ∧
      (let s : State := F.ACQ_MARKCFG_TEVEN.wr 1 { streaming with slices := [(0, { tevs := [⟨⟨4990, 1, 0⟩, false, true, 5000, false⟩] })] }
       (s.slice 0).tevs = ⟨⟨4990, 1, 0⟩, false, true, 5000, false⟩ :: [] ∧ F.ACQ_MARKCFG_TEVCH.rd s = 0 ∧ F.ACQ_MARKCFG_TEVEN.is s = true ∧
        s.modeAt 4990 = .stream) := by decide

theorem test_hyp_temperature :
    (let s := (F.ADC_STAMP_VALID 0).wr 1 (F.ADC_CFG0_BGEN.wr 1 up)
     s.due 0 = false ∧ (run (.tempReading 0 400) s).due 0 = true) ∧ (5 : Fin 6).val = 5 := by decide +kernel

theorem test_hyp_samples :
    up.hasChan 255 = true ∧ 2 ≤ [1, 2].length ∧
      (let s : State := { slice with mode := .stream, bpHist := [⟨⟨4999, 6, 0⟩, 0, .stream, {}, 0, 15, []⟩, ⟨⟨4998, 5, 0⟩, 0, .stream, {}, 0, 15, []⟩] }
       s.tagAgo 2 = ⟨4998, 5, 0⟩ ∧ s.converted 0 (s.tagAgo 2) true = true) := by decide

/-! #### Lanes, time, faults, test access -/

theorem test_hyp_lanes :
    ((F.LNK_PCFG_EN 2).wr 1 up).powered 2 = true ∧ (F.LNK_PSTAT_LOCKED 2).is up = false ∧
      (F.LNK_PSTAT_LOCKED 17).is ((F.LNK_PSTAT_LOCKED 17).wr 1 up) = true ∧ isData 17 = true ∧ up.hasPort 17 = true ∧
      up.absentWord (F.LNK_LGCFG_SINGLE 3).addr = false ∧ (F.LNK_PSTAT_FAILED 2).is up = false ∧
      (F.LNK_PSTAT_FAILED 2).is ((F.LNK_PSTAT_FAILED 2).wr 1 up) = true ∧ up.loopOn 2 = false ∧
      (up.lane 2).changeBp + (F.LNK_LOSSBP_BP 2).rd up ≤ up.bp ∧
      (({ up with lanes := [(2, { rejoin := true, changeBp := 4744 })] } : State).lane 2).changeBp + 256 ≤ up.bp ∧
      up.hasLg 3 = true ∧ (F.LNK_LGSTAT_SINGLE 0).is ((F.LNK_LGSTAT_SINGLE 0).wr 1 up) = true ∧
      (F.LNK_LGCFG_SINGLE 0).is ((F.LNK_LGCFG_SINGLE 0).wr 1 up) = true := by decide

theorem test_failed_lane_leaves_its_bond :
    let s := (F.LNK_LGSTAT_MEMBERS 0).wr 15 up
    (F.LNK_LGSTAT_MEMBERS 0).rd (run (.laneDrop 3) s) = 13 ∧ (F.LNK_LGSTAT_EPOCH 0).rd (run (.laneDrop 3) s) = 1 := by decide +kernel

theorem test_hyp_time_counter :
    (let s : State := { up with cyc := 0, tim := { step := some (5, 4999) } }
     s.tim.step = some (5, 4999) ∧ 4999 < s.bp ∧ s.cyc = 0 ∧ s.synced = false) ∧
      (F.TIM_CTL_STATE.wr 1 up).synced = true ∧ F.TIM_THR_NS.rd up * 65536 < (2 ^ 46 : Int).natAbs ∧
      (F.TIM_CMPST_ARMED 1).is ((F.TIM_CMPST_ARMED 1).wr 1 up) = true := by decide

theorem test_step_moves_the_counter :
    (run .stepJudgement { up with cyc := 0, tim := { step := some (65536, 4999) } }).tim.now.ns = 1 := by decide +kernel

theorem test_hyp_time_messages :
    rxBit 23 = some 3 ∧ up.hasPort 23 = true ∧ (List.replicate 64 (0 : Byte)).length = 64 ∧ natBit (F.TIM_RXEN_PORTS.rd (F.TIM_RXEN_PORTS.wr 1 up)) 0 = true ∧
      (F.TIM_SLOTST_VALID 0).is up = false ∧ forwardTo 0 = some (22, 0) ∧
      natBit (F.LNK_TCFWD_PATHS.rd (F.LNK_TCFWD_PATHS.wr 1 up)) 0 = true ∧ (up.egress 22).length < 4 ∧ up.portFree 22 = true ∧
      (({ up with tm := { egress := [(22, [⟨[0], some 5⟩])] } } : State).egress 22 = ⟨[0], some 5⟩ :: []) ∧
      (({ up with tm := { egress := [(0, [⟨[1], none⟩])] } } : State).egress 0 = ⟨[1], none⟩ :: []) ∧
      up.rating (portSide 0) ≠ 0 ∧ F.TIM_TXCTL_BUSY.is up = false ∧ (64 : Word).toNat % 128 = 64 ∧ (65 : Word).toNat % 128 = 65 := by
  decide

/-- The example of R454: forwarded on P22 after 15,884 bins, the Sync carries the residence in its correction. -/
theorem test_forwarded_message_of_chapter_15 :
    let s : State := { F.TIM_INC_INC.wr 0x0C800000 up with cyc := 0, tm := { egress := [(22, [⟨List.replicate 44 0, some (4984 * 1024 + 500)⟩])] } }
    ((run (.timeMessageForward 22 0) s).sendingAt 22).map (fun m => bytesNat ((m.msg.drop 8).take 8)) = some 25414400 ∧
      (F.LNK_TRES_RES 22).rd (run (.timeMessageForward 22 0) s) = 25414400 := by decide +kernel

theorem test_hyp_faults :
    up.hasPort 17 = true ∧ up.hasCmp = true ∧ up.hasBlock 28 = true ∧ F.ERR_CFG_AUTO.is (F.ERR_CFG_AUTO.wr 1 up) = true ∧
      F.ERR_CFG_AUTO.is (F.ERR_CFG_AUTO.wr 0 up) = false ∧ F.ERR_CFG_WDOG.rd (F.ERR_CFG_WDOG.wr 0 up) = 0 ∧
      F.ERR_CFG_WDOG.rd (F.ERR_CFG_WDOG.wr 9 up) = 9 ∧ ({ up with restarts := [⟨28, 4990, none, false, false, 0, false, 0, 0, 0⟩] } : State).restarting 28 = true := by
  decide

theorem test_chip_fault_of_a_port_block :
    F.ERR_LAST_WORD0.rd (run (.chipFault (.portBlock .q)) up) = 4 * 2 ^ 28 + 10 * 2 ^ 22 + 31 * 2 ^ 17 + 1 * 2 ^ 8 ∧
      (run (.chipFault .clock) up).mode = .idle ∧ (nextBp (run (.chipFault .clock) up)).mode = .safe := by decide +kernel

theorem test_hyp_test_access :
    ({ up with mode := .test } : State).fusing = false ∧ fusing.fusing = true ∧
      ({ up with target := some .test } : State).target = some .test ∧ State.reset.rst.por = true ∧ up.rst.por = false ∧
      ({ up with tap := { st := .shDr, dr := [false] } } : State).tap.st = .shDr := by decide

/-- R555: after five TCK edges with TMS high the port is in Test-Logic-Reset with IDCODE selected. -/
theorem test_tms_high_resets_the_test_port :
    let edge := run (.tckRisingEdge true false)
    (edge (edge (edge (edge (edge { up with tap := { st := .paIr, inst := 0 } }))))).tap.st = .reset := by decide +kernel


/-! #### Premises met together -/

/-- A hub whose first square is READY, in a mode and with a request pending. -/
def turning (m : Mode) (g : Option Mode) : State := { withRegs [] with mode := m, target := g }

/-- A function group's state in every lane, trigger and quadrant group. -/
def sleeping (st : PState) (s : State) : State :=
  { s with groups := (List.range 11).map fun n => (n, { st := if n < 9 then st else .active }) }

/-- The stamps of the first `n` channels, set. -/
def stamps : Nat → Sparse Word
  | 0 => []
  | n + 1 => ((F.ADC_STAMP_VALID n).addr, (F.ADC_STAMP_VALID n).into 1 0) :: stamps n

/-- A KN7412A of which every channel has been calibrated, the monitor too, and whose settings are admitted. -/
def calibrated : State := { turning .idle none with
  shadow := [(0, 0x200)]
  regs := (F.MON_CALSTAMP_VALID.addr, F.MON_CALSTAMP_VALID.into 1 0) :: (F.PWR_ADM_ADMITTED.addr, F.PWR_ADM_ADMITTED.into 1 0) ::
    ((List.range 6).map fun r => ((F.ERR_TEMP_VALID r).addr, (F.ERR_TEMP_VALID r).into 1 0)) ++ stamps 128 }

theorem test_hyp_power_requests :
    ([Mode.idle, .stream, .capture, .calibrate, .doze, .deep, .test].all fun m =>
      [none, some .idle, some .capture, some .deep].all fun g => (turning m g).issuable prog) = true ∧
      (F.PWR_ADM_ADMITTED.is calibrated = true ∧ calibrated.calibrated = true ∧ calibrated.mode = .idle ∧ calibrated.target = none ∧
        calibrated.issuable prog = true) ∧
      (calibrated.chans.all (F.ADC_STAMP_VALID · |>.is calibrated) = true) ∧
      (turning .idle none).calibrated = false ∧ (F.ADC_STAMP_VALID 0).is (turning .idle none) = false ∧
      ({ turning .idle none with pins := { testen := true, forcing := false } } : State).pins.testen = true := by decide +kernel

theorem test_hyp_modes_turn :
    (({ turning .idle (some .deep) with mon := { cal := some 1 } } : State).mon.cal ≠ none ∧ (turning .idle none).adcCal = false ∧
        (turning .idle none).mon.cal = none ∧ (turning .calibrate none).mon.cal = none ∧
        ({ turning .calibrate (some .doze) with adcCal := true } : State).adcCal = true) ∧
      ((turning .idle (some .capture)).enabled 0 = false ∧
        (let s := sleeping .idle ((F.ADC_CFG_EN 64).wr 1 (turning .idle (some .capture)))
         s.target = some .capture ∧ s.hasQuad 1 = true ∧ s.enabled (64 * 1 + 0) = true ∧ (s.group (5 + 1)).st ≠ .active)) ∧
      ({ turning .capture (some .idle) with cap := { st := .post } } : State).cap.st = .post ∧ (turning .capture (some .idle)).cap.st ≠ .post ∧
      (∀ n, n < 9 → ((turning .doze (some .idle)).group n).st = .active) ∧
      (sleeping .idle (turning .doze (some .idle))).hasFn 0 = true ∧ ((sleeping .idle (turning .doze (some .idle))).group 0).st ≠ .active ∧
      (∀ i, i < 64 → ((turning .test (some .idle)).square i).fusing = false) ∧ ({ fusing with testEnd := true } : State).testEnd = true ∧
      (fusing.square 1).fusing = true := by decide +kernel

theorem test_hyp_orbit_turns :
    (let s : State := { calibrated with target := some .stream }
     s.rwo = [] ∧ s.bgDone = [] ∧ F.PWR_ADM_ADMITTED.is s = true ∧ s.calibrated = true ∧ s.neededQuads = [] ∧ (s.group 4).st = .active ∧
      s.rst.chipDue = false ∧ s.coreOn = true) ∧
      ({ streaming with target := some .idle, wins := [⟨4900, 5100, 0, [0], [], []⟩] } : State).target = some .idle := by decide +kernel

theorem test_stream_begins_at_an_orbit_start :
    (streamTurn { calibrated with target := some .stream }).mode = .stream := by decide +kernel

theorem test_hyp_timers :
    (withSquare { timerDue := true }).coreOn = true ∧ ((withSquare { timerDue := true }).square 1).timerDue = true ∧
      ((withSquare { bunchEn := true, bunch := 7 }).square 1).bunchBp ≠ some up.bp ∧
      ((withSquare { bunchEn := true, bunch := 7, bunchBp := some 5000 }).square 1).bunchBp = some up.bp ∧
      ((withSquare { timer := 1 }).square 1).timer ≠ 0 ∧ ((withSquare { timer := 1 }).square 1).timer.toNat ≤ 1 := by decide

theorem test_timer_of_one_expires_at_the_next_boundary :
    ((stepTimers 1 (withSquare { timer := 1 })).square 1).timerDue = true ∧ ((stepTimers 1 (withSquare { timer := 2 })).square 1).timerDue = false ∧
      ((stepTimers 1 (withSquare { timer := 2 })).square 1).timer = 1 := by decide +kernel

theorem test_hyp_pulsers :
    (let s := (F.AFE_PAMP_AMP 0).wr 9 ((F.AFE_PULSE_SRC 0).wr 3 ((F.AFE_PULSE_BCID 0).wr 7 slice))
     (s.slice 0).pulse = none ∧ s.adcCal = false ∧ 0 ∈ s.chans ∧ (F.AFE_PULSE_SRC 0).rd s % 2 = 1 ∧ s.clk.ref = some .k ∧
      (let u : State := { s with slices := [(0, { pulse := some ⟨4950, 4950 * 1024, 36, 18, false⟩ })] }
       (u.slice 0).pulse = some ⟨4950, 4950 * 1024, 36, 18, false⟩ ∧ u.bp * 1024 + (F.AFE_PULSE_FINE 0).rd u < 4950 * 1024 + 63488)) ∧
      (F.ACQ_MARKCFG_CMDEN.wr 1 streaming).mode = .stream ∧ streaming.marks = [] := by decide

theorem test_hyp_leading_edges :
    (slice.discHolds 0 = false ∧ (slice.slice 0).relieved = none) ∧
      (let s : State := { slice with slices := [(0, { relieved := some (true, 0), ledAt := some (5000 * 1024 + 500) })] }
       (s.slice 0).relieved = some (true, 0) ∧ s.discHolds 0 = false ∧ s.bp * 1024 + s.interpFine 0 0 10 20 < 5000 * 1024 + 500 + 61) ∧
      (let s : State := { slice with slices := [(0, { relieved := some (true, 1), ledAt := some 5 })] }
       (s.slice 0).relieved = some (true, 1) ∧ 5 + 95 ≤ s.bp * 1024 + s.interpFine 0 1 10 20) ∧
      (let s : State := { slice with orbStart := 5000, bcid := 0, rwoOld := [((F.AFE_DISC_THR 0).addr, some ((F.AFE_DISC_THR 0).into 9 0))] }
       s.discHolds 0 = true ∧ (s.slice 0).relieved = none ∧ s.edgeFine 0 true 0 1 < 61 ∧ 95 ≤ s.edgeFine 0 true 0 60) ∧
      (let h : Hit := ⟨⟨4999, 6, 0⟩, 100, 8, false, false, true, 4999, 4999, none⟩
       let s : State := { slice with slices := [(0, { queue := [h] })] }
       (s.slice 0).timedOut = false ∧ (s.slice 0).queue.getLast? = some h ∧ s.stoppedAt 0 s.bp = false ∧ s.discActive 0 = true ∧
        (s.slice 0).high = false) ∧
      ({ slice with slices := [(0, { timedOut := true })] } : State).stoppedAt 0 5000 = false := by decide +kernel

theorem test_hyp_hits_completed :
    (let h : OpenHit := ⟨⟨5000, 6, 0⟩, 100, false, false, 5000, true, false⟩
     let s : State := { slice with slices := [(0, { high := true, openHit := some h })] }
     (s.slice 0).high = true ∧ (s.slice 0).relieved = none ∧ s.discHolds 0 = false ∧ (s.slice 0).openHit = some h ∧
      s.bp * 1024 + s.edgeFine 0 false 58 37 ≤ h.tag.bp * 1024 + h.fine + 1020 ∧
      s.bp * 1024 + s.cyc * 128 + 128 ≤ h.tag.bp * 1024 + h.fine + 1020) ∧
      (let h : OpenHit := ⟨⟨4990, 6, 0⟩, 100, false, false, 4990, true, true⟩
       let s : State := { slice with slices := [(0, { high := true, openHit := some h })] }
       (s.slice 0).openHit = some h ∧ h.tag.bp * 1024 + h.fine + 1020 < s.bp * 1024 + s.edgeFine 0 false 58 37) ∧
      (let d : Hit := ⟨⟨4990, 6, 0⟩, 100, 8, false, false, true, 4997, 4990, none⟩
       let h : OpenHit := ⟨⟨4999, 6, 0⟩, 900, false, false, 4999, true, false⟩
       let s : State := { slice with slices := [(0, { high := true, openHit := some h, queue := List.replicate 8 d })] }
       8 ≤ (s.slice 0).queue.length ∧ (s.slice 0).queue.getLast? = some d ∧ (s.slice 0).timedOut = false ∧
        s.bp * 1024 + s.edgeFine 0 false 58 37 ≤ h.tag.bp * 1024 + h.fine + 1020 ∧ (s.slice 0).deqBp ≠ some s.bp) ∧
      (({ slice with slices := [(0, { high := true })] } : State).slice 0).openHit = none := by decide +kernel

theorem test_hyp_fto_stretcher :
    (let s : State := { up with fto := [(0, { rise := some (5000 * 1024 + 100) })] }
     (s.ftoOf 0).rise = some (5000 * 1024 + 100) ∧ s.bp * 1024 + s.cyc * 128 < 5000 * 1024 + 100 + 61) ∧
      (let s : State := { up with fto := [(0, { rise := some 5000 })] }
       s.orHigh 0 = false ∧ 5000 + 95 ≤ s.bp * 1024 + s.cyc * 128) := by decide +kernel

theorem test_hyp_bus_lines :
    (let s : State := (F.TDC_TBCAP_ARM 3).wr 1 up
     (s.line 3).level ≠ true ∧ (F.TDC_TBCAP_ARM 3).is s = true ∧ (F.TDC_TBCAP_EDGE 3).is s ≠ true ∧ (s.line 3).fell = none) ∧
      (let s : State := { up with tb := [(1, { fell := some (5000 * 64 - 10) })] }
       (s.line 1).fell = some (5000 * 64 - 10) ∧ s.bp * 64 + (9 - 1) < 5000 * 64 - 10 + 64) ∧
      (({ up with tb := [(1, { level := true })] } : State).line 1).level ≠ false ∧
      (let s := F.ACQ_MARKCFG_TBEN.wr 15 { streaming with tb := [(2, { edges := [4999] })] }
       (s.line 2).edges = 4999 :: [] ∧ 4999 ≤ s.bp ∧ s.stoppedAt 25 4999 = false ∧ s.modeAt (s.tagOf 4999).bp = .stream ∧ s.marks = []) ∧
      (let s := F.ACQ_CAPCFG_SRC.wr 1 { capturing with cap := { st := .armed, armBp := 4990 }, tb := [(0, { edges := [4999] })] }
       F.ACQ_CAPCFG_SRC.rd s = 1 ∧ F.ACQ_CAPCFG_TBLINE.rd s = 0 ∧ s.cap.armBp < (s.tagOf 4999).bp) ∧
      (let s := F.ACQ_CAPCFG_SRC.wr 2 { capturing with cap := { st := .armed, armBp := 4000 }, slices := [(0, { tevs := [⟨⟨4990, 1, 0⟩, false, true, 5000, true⟩] })] }
       F.ACQ_CAPCFG_SRC.rd s ≠ 1 ∧ F.ACQ_CAPCFG_CH.rd s = 0 ∧ s.cap.armBp < 4990 ∧ s.coreOn = true) ∧
      ({ up with restarts := [⟨25, 4990, some ⟨4990, 1, 0⟩, false, false, 0, false, 0, 0, 0⟩] } : State).stoppedAt 25 4999 = true := by
  decide +kernel

/-- A hub with one restart in progress. -/
def restarting (r : Restart) (s : State) : State := { s with restarts := [r] }
def quiesce : Restart := ⟨3, 4990, some ⟨4990, 1, 0⟩, false, false, 0, false, 0, 0, 0⟩
def resetting : Restart := ⟨3, 4980, some ⟨4980, 1, 0⟩, false, true, 4992, false, 0, 0, 0⟩

theorem test_hyp_restart_steps :
    (let s := restarting { quiesce with waits := true } up
     s.restarts.filter Restart.waits = [{ quiesce with waits := true }] ∧ s.coreOn = true) ∧
      (let s := restarting quiesce { up with cyc := 0 }
       s.blockDrained 3 = true ∧ s.cyc = 0 ∧ quiesce.stop ≠ none ∧ quiesce.resetting = false ∧ quiesce.waits = false) ∧
      (let w : Waiting := ⟨0, .h, ⟨4980, 7, 0⟩, false, false, false, false, .h 48 7 1 2 3 false false false, 0, .head⟩
       let s := F.RST_QTIMEOUT_BP.wr 2 (restarting quiesce { up with waiting := [w] })
       s.blockDrained 3 = false ∧ quiesce.stopBp + F.RST_QTIMEOUT_BP.rd s ≤ s.bp ∧ quiesce.mDisc = 0) ∧
      resetting.resetBp + 8 ≤ (restarting resetting up).bp ∧ ¬(resetting.resetBp + 8 ≤ (restarting resetting { up with bp := 4999 }).bp) ∧
      ¬(quiesce.stopBp + F.RST_QTIMEOUT_BP.rd up ≤ (restarting quiesce up).bp) := by decide +kernel

theorem test_acknowledged_block_waits_for_the_boundary :
    (run (.quiesceAck 3) (restarting quiesce up)).restarts = [{ quiesce with waits := true }] ∧
      ((run (.quiesceAck 3) (restarting quiesce { up with cyc := 0 })).restarts.map (·.resetBp)) = [5000] := by decide +kernel

theorem test_hyp_control_episode :
    (let s : State := { up with shadow := [(8, 2)], target := some .doze, tb := [(2, { dues := [5001], driveEnd := 5010 })] }
     s.pinReach = .control ∧ s.rst.pin = false ∧ s.episode = false ∧ s.target = some .doze ∧ (s.line 2).dues ≠ []) ∧
      (let s : State := { up with shadow := [(8, 1)] }
       s.pinReach = .core ∧ s.target = none ∧ ∀ i, i < 64 → (s.square i).fusing = false) := by decide

theorem test_hyp_start_sequence :
    (let s : State := { up with mode := .hold, rst := { por := false, pin := true, reach := some .core, stayed := ⟨true, false⟩, pllKept := true } }
     s.rst.por = false ∧ s.rst.pin = true ∧ s.coreOn = true ∧ s.clk.ref ≠ none ∧ s.rst.pllKept = true ∧ s.rst.stayed.k = true) ∧
      (let s : State := { up with mode := .settle, clk := { up.clk with settled := false, count := some .k } }
       s.clk.pllLock = true ∧ s.clk.ref ≠ none ∧ s.topClaim ≠ 0 ∧ s.clk.count = s.clk.ref ∧ s.rst.reach ≠ some .chip) ∧
      (let s := F.RST_STATUS_STEP.wr 2 { up with mode := .hold, bp := 20000, rst := { por := false, reach := some .core, initBp := 4000 } }
       s.mode = .hold ∧ s.coreOn = true ∧ F.RST_STATUS_STEP.rd s = 2 ∧ s.rst.initBp + 6144 ≤ s.bp) ∧
      ({ up with rst := { por := false, reach := some .core, starting := true, finish := true, fromSafe := true } } : State).rst.finish = true := by
  decide

/-- R80: a lock that was lost in the episode is sought again, though it has come back. -/
theorem test_lost_lock_is_sought_again :
    let s : State := { up with mode := .hold, rst := { por := false, pin := true, reach := some .core } }
    (run .rstnRelease s).mode = .search ∧
      (run .rstnRelease { s with rst := { s.rst with stayed := ⟨false, true⟩, pllKept := true } }).mode = .hold := by decide +kernel

theorem test_hyp_clock_follows :
    (let s : State := { up with packets := [{ packet with dataBp := 4998 }] }
     s.clk.act.get .k = true ∧ s.clk.ref = some .k ∧ s.clk.holdover = false ∧ s.coreOn = true) ∧
      ({ up with clk := { up.clk with pllLock := false } } : State).clk.ref ≠ none ∧
      (let s : State := { up with clk := { up.clk with switchTo := some .q } }
       s.coreOn = true ∧ s.claims .q = true ∧ s.pllOff = false ∧ s.clk.act.get .q = true) ∧
      (let s : State := { up with clk := { up.clk with ref := none, holdover := true, holdBp := 4990, holdSince := 4985 } }
       s.topClaim ≠ 0 ∧ s.coreOn = true ∧ s.clk.holdBp + 2 ≤ s.bp) ∧
      (let s : State := { up with clk := { up.clk with ref := none, holdover := true, holdBp := 4990 }, sid := {} }
       s.topClaim = 0 ∧ s.coreOn = true) ∧
      (let s : State := { up with mode := .safe, clk := { up.clk with settled := false } }
       s.clk.pllLock = true ∧ s.clk.ref ≠ none ∧ s.topClaim ≠ 0 ∧ s.rst.por = false ∧ s.rst.pin = false) := by decide

theorem test_hyp_lone_return :
    let s : State := { up with sid := { healthy := ⟨true, true⟩, ret := ⟨some ⟨true, 4⟩, none⟩ }, clk := { up.clk with ref := none, holdover := true } }
    s.coreOn = true ∧ s.sid.ret.get .k ≠ none ∧ s.topClaim = 0 ∧ s.rating .k ≠ 0 ∧ s.sid.ret.get Side.k.other = none := by decide

theorem test_hyp_calibration_ends :
    (let s : State := { up with adcCal := true, adcStart := 5, bp := 900000 }
     s.adcStart + 720000 ≤ s.bp ∧ s.adcCal = true ∧ s.coreOn = true) ∧
      (let s : State := { up with mon := { cal := some 3, calStart := some 10 }, bp := 5000000 }
       s.mon.cal = some 3 ∧ s.mon.calStart = some 10 ∧ 10 + 1600000 * ((List.range 8).filter fun k => (3 : BitVec 8).getLsbD k).length ≤ s.bp) := by
  decide

theorem test_hyp_idle_timeout :
    let s : State := sleeping .active { up with mode := .doze }
    s.hasFn 5 = true ∧ s.fnIdle 5 = true ∧ (s.group 5).exit = none ∧ (s.group 5).st ≠ .off ∧ (s.group 5).st.code < (s.restState 5).code ∧
      (s.group 5).since + 64 ≤ s.bp := by decide +kernel

/-- An entry of the monitor's sequence in progress. -/
def monResultOf (cmp : Word) : MonRun := { kind := .regular, entry := 3, left := 1, pins := 0, conv := 0, lin := 0, par := 0, lo := 0xFFFFF000, hi := 0x1000, cmp := cmp, ratio := 1 }

theorem test_hyp_monitor_turn :
    (let s : State := { up with mon := { cur := some (monResultOf ((F.MON_CMP_ACTION 0).into 3 0)), seqOn := true } }
     s.mode.runs = true ∧ (s.group 9).st = .active ∧ s.drained 23 = false ∧ s.mon.cur = some (monResultOf ((F.MON_CMP_ACTION 0).into 3 0)) ∧
      (F.MON_CMP_ACTION 0).of ((F.MON_CMP_ACTION 0).into 3 0) = 3) ∧
      ({ up with mon := { ilkDue := [(false, 3)] } } : State).mon.ilkDue = [(false, 3)] ∧
      (let r := { monResultOf 0 with conv := (F.MON_CONV_EXC 0).into 5 0 }
       let s : State := { up with mon := { ilkDue := [(true, 9)], cur := some r } }
       s.mon.cur = some r ∧ r.excited = true ∧ F.MON_ILK_EXC.is s = false) ∧
      (let s : State := { up with mon := { handDue := some 5000000 } }
       s.mon.handDue = some 5000000 ∧ s.hasLed = true) := by decide +kernel

theorem test_hyp_lamp_pulses :
    (let s : State := F.LED_CTL_EN.wr 1 { up with cyc := 0, led := { rowOn := true, row := 2, dues := [⟨0, 0, 37, 95, 40, false, 5000⟩] } }
     s.cyc = 0 ∧ s.ledOn = true ∧ s.ledScale ≠ 0 ∧ (s.group 10).st = .active ∧ s.led.row = 37 / 16 ∧ s.led.col (37 % 16) = none ∧
      s.hasLed = true ∧ s.stoppedAt 24 s.bp = false) ∧
      (let s : State := F.LED_CTL_EN.wr 1 { up with cyc := 0, led := { rowOn := true, row := 2, diag := some 37, diagBp := 4990 } }
       s.led.diag = some 37 ∧ s.led.diagBp < s.bp ∧ s.ledOn = true ∧ s.ledScale ≠ 0 ∧ s.coreOn = true) ∧
      (let s : State := { up with led := { cols := [(9, some ⟨57, 0, 1600, false, true⟩)] } }
       s.led.col (57 % 16) = some ⟨57, 0, 1600, false, true⟩) ∧
      (let s : State := F.LED_CTL_EN.wr 1 { up with led := { row := 3, blanking := true, slots := [(0, some ⟨0, 0, 37, false, 4, 0, 3, 0, 0, 0⟩)] } }
       s.led.blanking = true ∧ s.led.cols = [] ∧ (s.group 10).st = .active ∧ s.ledOn = true) := by decide +kernel

theorem test_hyp_records_pass :
    (let s : State := F.ACQ_SHED_KIB.wr 0 { F.ACQ_CREDH_CREDIT.wrInt (-1) withHit with packets := [{ packet with cls := .h, chain := [3, 4] }] }
     s.credit false < 640 ∧ s.overShed = true ∧ s.drained 0 = false ∧ s.orbit = 0) ∧
      (let s : State := { withHit with bp := 4906, wins := [⟨4900, 4902, 0, [0], [], [(0, 5000)]⟩] }
       s.wins = [] ++ ⟨4900, 4902, 0, [0], [], [(0, 5000)]⟩ :: [] ∧ ¬(4902 + 4 < s.bp)) ∧
      (let w : Waiting := ⟨5, .m, ⟨5000, 7, 0⟩, false, false, false, false, .m 3 1 6 7 0 [0], 0, .head⟩
       let s : State := { streaming with waiting := [w] }
       s.waiting = [w] ∧ s.ringFills = false ∧ s.openPacket w.cls = none ∧ s.descFor w.cls = true ∧ w.r.size ≤ 16000 ∧
        ∀ n, n ≤ 64 → s.pagesFor w.cls n = true) := by decide +kernel

theorem test_hyp_captures :
    (let s : State := { capturing with cap := { st := .waitRel, pre := 5, post := 9 } }
     s.cap.st = .waitRel ∧ s.capPackets = false ∧ s.pagesFor .w s.capArea = true ∧ s.coreOn = true) ∧
      (let v : Samp := ⟨⟨5000, 7, 0⟩, false, 5, false, 5, 5, false⟩
       let s : State := { capturing with bp := 6000, scrubBack := [100], bufErr := [(100, some .single)], cap := { st := .post, post := 1, pre := 2, chain := [4], armBp := 4000, trig := ⟨5000, 7, 0⟩, buf := [(3, [v])] } }
       s.cap.st = .post ∧ s.cap.trig.bp + s.cap.post + 3 ≤ s.bp ∧ (100 : Nat) ∈ s.scrubBack ∧
        ((sget (fun _ => []) s.cap.buf 3).reverse.filter fun v => Nat.ble s.cap.trig.bp (v.tag.bp + s.cap.pre)) = v :: []) := by
  decide +kernel

/-- A job of engine 0 whose packet stands in page 5 and whose slot is page 6. -/
def jobIn (b : Nat) : State := { inJob with packets := [{ packet with st := .job 0, b := b, chain := [5], slotChain := [6] }], nextPid := 10 }

theorem test_hyp_jobs :
    (let p : Packet := { packet with st := .queued, chain := [5] }
     let s : State := { streaming with packets := [p], nextPid := 10 }
     oldestPacket (s.packets.filter fun p => p.st == .queued) = some p ∧ s.freeEngine = some 0 ∧ s.pagesFor p.cls (pagesOf p.slot) = true ∧
      s.stoppedAt 22 s.bp = false) ∧
      (let p : Packet := { packet with st := .job 0, b := 12, chain := [5], slotChain := [6] }
       (jobIn 12).jobOf 0 = some p ∧ (jobIn 12).ringFills = false ∧ p.compressed.length ≤ p.slot ∧ (jobIn 12).badInput p = none ∧
        (∀ y ∈ (jobIn 12).packets, y.pid = p.pid → y = p) ∧ p.pid < (jobIn 12).nextPid) ∧
      (((jobIn 8).jobOf 0).bind fun p => ((jobIn 8).jobEnd p).map Prod.fst) = some 1 ∧
      (let s : State := { jobIn 12 with bufErr := [(162, some (.double 7))] }
       (s.jobOf 0).bind (fun p => (s.jobEnd p).map Prod.fst) = some 2) ∧
      natBit (F.CMP_STAT_ENGQ.rd (F.CMP_STAT_ENGQ.wr 1 up)) 0 = true := by decide +kernel

/-- A packet that side K's framer is sending on the bond of group 0. -/
def sending (x : Bool) : State :=
  { complete with nextPid := 10, packets := [{ packet with st := .complete, chain := [5], sent := ⟨false, x⟩ }], sends := [⟨.k, 2, 3, false, false⟩] }

theorem test_hyp_sends :
    (let p : Packet := { packet with st := .complete, chain := [5] }
     (sending false).sends.find? (fun y => y.side == .k && y.port == (sending false).placeOf 2) = some ⟨.k, 2, 3, false, false⟩ ∧
      (sending false).packet 3 = some p ∧ (∀ y ∈ (sending false).packets, y.pid = p.pid → y = p) ∧ p.pid < (sending false).nextPid ∧
      ((sending false).group (lgOf 2)).st = .active ∧ (sending false).dead .q = false) ∧
      ((sending true).packet 3).map (·.sent.q) = some true ∧ (({ sending false with groups := [] } : State).group (lgOf 2)).st ≠ .active := by
  decide +kernel

theorem test_hyp_dead_sides_turn :
    (let s := F.BUF_DEAD_BP.wr 5 { sending false with deadCnt := ⟨5, 5⟩ }
     F.BUF_DEAD_BP.rd s ≠ 0 ∧ F.BUF_DEAD_BP.rd s ≤ s.deadCnt.get .k ∧ natBit (F.BUF_SIDE_DEAD.rd s) 0 = false ∧ s.bufErr = []) ∧
      (let s := F.BUF_SIDE_DEAD.wr 3 (sending false)
       natBit (F.BUF_SIDE_DEAD.rd s) 1 = true ∧ s.declaredDead .q = false ∧ s.deadCnt.get .q < F.BUF_DEAD_BP.rd s) := by decide +kernel

theorem test_hyp_scrub_words :
    let s : State := { up with gap := { inGap := true, scrub := true }, packets := [{ packet with chain := [0] }], nextPid := 9 }
    s.bufErr = [] ∧ (16 * F.BUF_SCRUB_POS.rd s + 5) / 32 = 0 ∧ s.ringFills = false ∧
      (∀ y ∈ s.packets, (16 * F.BUF_SCRUB_POS.rd s + 5) / 32 ∈ y.chain ++ y.slotChain) ∧
      ({ s with cap := { st := .armed } } : State).ringFills = true := by decide +kernel

/-- The lanes of group 0 in service, late in a run. -/
def bonded : State :=
  [3, 4, 5].foldl (fun s p => (F.LNK_PSTAT_LOCKED p).wr 1 s) ((F.LNK_LGSTAT_MEMBERS 0).wr 15 { up with bp := 200000 })

theorem test_hyp_lanes_and_bonds :
    ((∀ q ∈ groupPorts 0, q ≠ 2 → bonded.backDue q = false ∧ bonded.failDue q = false) ∧
      (F.LNK_PCFG_EN 2).is bonded = true ∧ (F.LNK_PSTAT_LOCKED 2).is bonded = false ∧ (bonded.group 0).st = .active ∧
      bonded.loopOn 2 = false ∧ (F.LNK_PSTAT_FAILED 2).is bonded = false ∧
      max (bonded.lane 2).changeBp ((bonded.lane 2).freshBp + 7500) + max 1 ((F.LNK_LOSSBP_BP 2).rd bonded) ≤ bonded.bp) ∧
      (let s := (F.LNK_PSTAT_FAILED 2).wr 1 ((F.LNK_PSTAT_LOCKED 2).wr 1 { bonded with lanes := [(2, { rejoin := true })] })
       (s.lane 2).rejoin = true ∧ (F.LNK_PSTAT_FAILED 2).is s = true ∧ (F.LNK_PSTAT_LOCKED 2).is s = true ∧
        (s.lane 2).changeBp + 256 ≤ s.bp ∧ s.sends = [] ∧ ∀ q ∈ groupPorts 0, q ≠ 2 → s.backDue q = false ∧ s.failDue q = false) ∧
      (bonded.single 0 = false ∧ (∃ q ∈ bonded.members 0, bonded.sendsOwn q = true) ∧ (bonded.lane 2).markBp + 160 ≤ bonded.bp ∧
        bonded.sends = [] ∧ (bonded.members 0)[1]? = some 3) ∧
      (let s := (F.LNK_LGSTAT_SINGLE 0).wr 1 { bonded with lanes := [(3, { markBp := 199999 }), (4, { markBp := 199999 }), (5, { markBp := 199999 })] }
       s.single 0 = true ∧ 2 ∈ groupPorts 0 ∧ s.sendsOwn 2 = true ∧ (s.lane 2).markBp + 544 ≤ s.bp ∧ ∀ q ∈ [3, 4, 5], ¬((s.lane q).markBp + 544 ≤ s.bp)) ∧
      ((sending false).sends.any fun x => x.port == 2) = true := by decide +kernel

theorem test_hyp_compares :
    (let s := (F.TIM_CMPST_ARMED 0).wr 1 { up with tim := { cmpDue := [(0, some ⟨4999, 6, 0⟩)] } }
     s.cmpTag 0 = some ⟨4999, 6, 0⟩ ∧ s.stepDue = false ∧ (F.TIM_CMPST_ARMED 0).is s = true) ∧
      (let s := (F.TIM_CMPST_ARMED 0).wr 1 { up with cyc := 0, tim := { step := some (7, 4999), cmpDue := [(0, some ⟨5000, 7, 0⟩)] } }
       s.stepDue = true ∧ s.tim.step = some (7, 4999) ∧ s.cmpTag 0 = some ⟨5000, 7, 0⟩ ∧ s.cyc = 0) ∧
      (let s := (F.TIM_CMPSEC_CSEC 0).wr 1 ((F.TIM_CMPNS_CNS 0).wr 500 (F.TIM_INC_INC.wr 0x0C800000 { up with tim := { now := ⟨0, 999999999, 77⟩ } }))
       (s.ticksToTarget 0).isSome = true) ∧
      ({ up with restarts := [⟨26, 4990, some ⟨4990, 1, 0⟩, false, false, 0, false, 0, 0, 0⟩] } : State).stoppedAt 26 5000 = true := by
  decide +kernel

theorem test_hyp_faults_contained :
    (let s := F.ERR_CFG_WDOG.wr 9 (jobIn 12)
     F.ERR_CFG_WDOG.rd s ≠ 0 ∧ s.holdsWork 22 = true ∧ up.holdsWork 22 = false ∧ s.hasBlock 22 = true) ∧
      ({ up with rst := { up.rst with chipDue := true } } : State).coreOn = true ∧ (jobIn 12).jobOf 0 ≠ none ∧
      ({ turning .idle (some .test) with pins := { testen := true, forcing := false } } : State).mode ≠ .test := by decide +kernel

theorem test_hyp_front_end :
    slice.bleedClosed 0 = false ∧ up.bleedClosed 0 = true ∧ slice.discActive 0 = true ∧ (slice.slice 0).high = false ∧
      (let rise : Int := ((F.AFE_DISC_THR 0).rd slice * slice.highRange 0 : Nat)
       rise - 1 < rise ∧ slice.discNext 0 (rise - 1) rise = true ∧ slice.discNext 0 rise rise = false) ∧
      up.discActive 0 = false ∧ (up.ftoOf 0).en = false := by decide +kernel

/-- Figure 7-1 and Table 7-1: 5 pC and 80 pC full scale at FB 0; ±1.0 V over the feedback resistor is the current of baseline restore. -/
theorem test_ranges_of_table_7_1 :
    slice.lowRange 0 / 10 ^ 9 = 5000 ∧ slice.highRange 0 * 16 = slice.lowRange 0 := by decide +kernel

/-! #### Results that a review asked for -/

/-- R381: K28.5 at negative disparity, and after it. -/
theorem test_code_group_of_k28_5 :
    codeGroups false [.k285] = msbBits 10 0b0011111010 ∧ codeGroups true [.k285] = msbBits 10 0b1100000101 := by decide +kernel

/-- R123: of two commands of one core cycle, K's stands before Q's. -/
theorem test_k_stands_before_q :
    let s : State := { up with a1 := { queue := [⟨.q, 6, 5, 40001⟩] }, sid := { up.sid with part := ⟨some (5, 7), none⟩ } }
    ((run (.downlinkFrame .k true 2 0 (BitVec.ofNat 44 (3 * 2 ^ 27))) s).a1.queue.map (·.side)) = [.k, .q] := by decide +kernel

end Sys2Proof.Tests
end

section
/-!
PROOFS. The instructions of chapter 6 on registers, events of the issuing square, and scratch memory, the illegal opcodes, and
ADMIT: what the instructions share beside Laws/Issue.lean and Laws/Records.lean.
-/
namespace Sys2Proof.Machine

/-! ### Writes of the field map read and change the field map only -/

theorem regs_trans {s t u : State} (h1 : t = { s with regs := t.regs }) (h2 : u = { t with regs := u.regs }) :
    u = { s with regs := u.regs } := h2.trans (by rw [h1])

theorem Fld.wr_frame (f : Fld) (v : Nat) (s : State) : f.wr v s = { s with regs := (f.wr v s).regs } := rfl

theorem Fld.wr_regs_congr {s t : State} (h : t.regs = s.regs) (f : Fld) (v : Nat) : (f.wr v t).regs = (f.wr v s).regs := by
  unfold Fld.wr State.setWord
  simp only [State.word_congr h, h]

theorem raiseFlag_regs_congr {s t : State} (h : t.regs = s.regs) (w b : Nat) :
    (raiseFlag w b t).regs = (raiseFlag w b s).regs := by
  have h1 := Fld.wr_regs_congr h ⟨w, b, b⟩ 1
  unfold raiseFlag Fld.count
  rw [Fld.rd_congr h1, Fld.wr_regs_congr h1]

theorem issued_withRegs (by_ : Issuer) (s : State) (m : Sparse Word) :
    issued by_ { s with regs := m } = { issued by_ s with regs := m } := by
  cases by_ <;> rfl

theorem issued_regs (by_ : Issuer) (s : State) : (issued by_ s).regs = s.regs := by cases by_ <;> rfl

theorem issued_wr (by_ : Issuer) (f : Fld) (v : Nat) (s : State) : issued by_ (f.wr v s) = f.wr v (issued by_ s) := by
  rw [Fld.wr_frame, issued_withRegs, Fld.wr_frame f v (issued by_ s), Fld.wr_regs_congr (issued_regs by_ s)]

/-! ### Completing with a change beside the registers -/

theorem squares_refl (s : State) : s = { s with squares := s.squares } := rfl

theorem squares_trans {s t u : State} (h1 : t = { s with squares := t.squares }) (h2 : u = { t with squares := u.squares }) :
    u = { s with squares := u.squares } := h2.trans (by rw [h1])

/-- An instruction that takes the state `s` to `r` and writes gd: the result, the flags and the frame. -/
theorem issue_result_from {by_ : Issuer} {op : Nat} {rf : Bool} {body : State → Outc} {s x : State} {gd : Reg} {v : Word}
    (r : State) (h : s.issuable by_ = true) (hb : body (issued by_ s) = result by_.idx gd v x)
    (hf : x = { issued by_ r with squares := x.squares }) (hs : ∀ j, x.square j = (issued by_ r).square j) :
    let u := issue by_ op rf body s
    Completes by_ rf (ackValue gd v) r u ∧ Wrote by_.idx gd v r u ∧ KeptFlags by_.idx r u := by
  obtain ⟨hc, hr, hfl⟩ := issue_completes (op := op) (rf := rf) r h hb
    (squares_trans hf (setReg_frame ..))
    (fun j hj => (setReg_square_ne _ _ _ hj).trans (by rw [hs, issued_square, if_neg hj]))
    (by conv_lhs => rw [setReg_square, hs]
        conv_rhs => rw [setReg_square, hs])
  refine ⟨hc, fun g => ?_, ?_⟩
  · rw [hr, reg_setReg, State.reg_congr (congrArg Square.g (hs _)), issued_reg]
  · rw [setReg_square, hs, issued_square, if_pos rfl] at hfl
    exact hfl

/-- An instruction that takes the state `s` to `r` and writes no register. -/
theorem issue_done_from {by_ : Issuer} {op : Nat} {rf : Bool} {body : State → Outc} {s x : State} {v : Word}
    (r : State) (h : s.issuable by_ = true) (hb : body (issued by_ s) = .done v x)
    (hf : x = { issued by_ r with squares := x.squares }) (hs : ∀ j, x.square j = (issued by_ r).square j) :
    let u := issue by_ op rf body s
    Completes by_ rf v r u ∧ KeptRegs by_.idx r u ∧ KeptFlags by_.idx r u := by
  obtain ⟨hc, hr, hfl⟩ := issue_completes (op := op) (rf := rf) r h hb hf
    (fun j hj => by rw [hs, issued_square, if_neg hj]) (by rw [hs])
  refine ⟨hc, fun g => ?_, ?_⟩
  · rw [hr, State.reg_congr (congrArg Square.g (hs _)), issued_reg]
  · rw [hs, issued_square, if_pos rfl] at hfl
    exact hfl

/-- The issuing square changed after the issue, or before it: the squares are the same where the change does not touch what
the issue counts. -/
theorem modSquare_issued_square (by_ : Issuer) (s : State) (f : Square → Square)
    (hf : ∀ q : Square, f { q with issued := q.issued + 1, effPrio := q.prio } =
      { f q with issued := (f q).issued + 1, effPrio := (f q).prio }) (j : Nat) :
    ((issued by_ s).modSquare by_.idx f).square j = (issued by_ (s.modSquare by_.idx f)).square j := by
  rw [issued_square]
  by_cases hj : j = by_.idx
  · subst hj
    rw [if_pos rfl, State.square_modSquare_same, State.square_modSquare_same, issued_square, if_pos rfl, hf]
  · have hj' := Ne.symm hj
    rw [if_neg hj, State.square_modSquare_ne _ _ hj', State.square_modSquare_ne _ _ hj', issued_square, if_neg hj]

/-- The issuing square changed after the issue, or before it: the rest of the state is the same where the change keeps the
priority. -/
theorem modSquare_issued_frame (by_ : Issuer) (s : State) (f : Square → Square) (hp : ∀ q, (f q).prio = q.prio) :
    (issued by_ s).modSquare by_.idx f =
      { issued by_ (s.modSquare by_.idx f) with squares := ((issued by_ s).modSquare by_.idx f).squares } := by
  cases by_ with
  | host side id => rfl
  | prog n =>
    have hq : ((s.modSquare (n.val + 1) f).square (n.val + 1)).prio = (s.square (n.val + 1)).prio := by
      rw [State.square_modSquare_same, hp]
    obtain ⟨x, hx⟩ := issued_prog n s
    obtain ⟨y, hy⟩ := issued_prog n (s.modSquare (n.val + 1) f)
    simp only [Issuer.idx]
    rw [hy, hq, hx]
    rfl

/-! ### Instructions that a1 never executes -/

/-- In a program square they issue as any other instruction. -/
theorem issueProg_of_prog (n : Fin 63) (op : Nat) (body : State → Outc) (s : State) :
    issueProg (.prog n) op body s = issue (.prog n) op false body s := by
  have h : (Issuer.prog n).idx ≠ 0 := Nat.succ_ne_zero _
  simp only [issueProg, if_neg h]

/-- In a1 they are refused with RANGE (R124, R159). -/
theorem issueProg_host_refused {side : Side} {id : BitVec 16} {op : Nat} {body : State → Outc} {s : State}
    (h : s.issuable (.host side id) = true) :
    RefusedWith (.host side id) op .range 0 0 s (issueProg (.host side id) op body s) :=
  issue_refused h (if_pos rfl)

/-! ### Faults -/

/-- An instruction of `by_` that faults: it leaves a program square FAULTED with the cause (R150), and a1 refuses it with RANGE
(R159); `x` is the state it changes so. -/
def Faults (c : Instr) (by_ : Issuer) (op cause : Nat) (x s : State) : Prop :=
  (∀ n, by_ = .prog n → ∃ t, exec c s = .next t ∧ FaultedWith n cause x t) ∧
    ∀ side id, by_ = .host side id → ∃ t, exec c s = .next t ∧ RefusedWith by_ op .range 0 0 x t

theorem faults_of {c : Instr} {by_ : Issuer} {op cause : Nat} {rf : Bool} {body : State → Outc} {s : State}
    (he : exec c s = .next (issue by_ op rf body s)) (h : s.issuable by_ = true)
    (hb : body (issued by_ s) = .fault cause (issued by_ s)) : Faults c by_ op cause s s := by
  refine ⟨fun n hn => ⟨_, he, ?_⟩, fun side id hh => ⟨_, he, ?_⟩⟩
  · subst hn; exact issue_faulted h hb
  · subst hh; exact issue_host_fault h hb

/-! ### Faults with a change of the record path -/

theorem RecordPath.symm {s t : State} (h : RecordPath s t) : RecordPath t s := by
  obtain ⟨hf, hw⟩ := h
  exact ⟨by conv_rhs => rw [hf], fun a ha => (hw a ha).symm⟩

/-- What a refusal leaves is told from any state that differs in the record path only. -/
theorem RefusedWith.of_path {by_ : Issuer} {op : Nat} {r : Reason} {test grp : Nat} {x y t : State} (hp : RecordPath y x)
    (h : RefusedWith by_ op r test grp y t) : RefusedWith by_ op r test grp x t := by
  obtain ⟨hq, ho, hr, hf, hw⟩ := h
  refine ⟨by rw [hp.square]; exact hq, fun j hj => (ho j hj).trans (hp.square j).symm, ?_, ?_, ?_⟩
  · cases by_ with
    | prog n => exact hr.trans (by rw [hp.1])
    | host side id =>
      refine hr.trans ?_
      rw [answers_congr (s := y) (t := x) (by rw [hp.1]), hp.1]
  · exact (RefusalFrame.of_path hp.symm).trans hf
  · refine SameWords.trans (hp.symm.2.mono fun a ha => ?_) hw
    simp only [refusalWords, List.mem_append]
    exact .inl (.inr ha)

/-- What a fault leaves is told from any state that differs in the record path only. -/
theorem FaultedWith.of_path {n : Fin 63} {cause : Nat} {x y t : State} (hp : RecordPath y x)
    (h : FaultedWith n cause y t) : FaultedWith n cause x t := by
  obtain ⟨hq, ho, hs, hf, hw⟩ := h
  refine ⟨by rw [hp.square]; exact hq, fun j hj => (ho j hj).trans (hp.square j).symm, hs, ?_,
    SameWords.trans (hp.symm.2.mono fun a ha => List.mem_append_right _ ha) hw⟩
  rw [hf, hp.1]

end Sys2Proof.Machine
end

section
/-!
PROOFS. The register and immediate instructions (R166, Table 6-3): the flags of the model's operations in the plain terms of the
spec, and the results.
-/
namespace Sys2Proof.Machine

/-! ### Flags in plain terms -/

theorem natBle_eq_decide (a b : Nat) : Nat.ble a b = decide (a ≤ b) := by
  rw [Bool.eq_iff_iff, Nat.ble_eq, decide_eq_true_iff]

theorem not_beq_eq_decide_ne (a b : Int) : (!(a == b)) = decide (a ≠ b) := by
  rw [decide_not, beq_eq_decide]

theorem aluAdd_c (a b : Word) (c : Bool) : (aluAdd a b).c.getD c = decide (2 ^ 32 ≤ a.toNat + b.toNat) :=
  natBle_eq_decide ..

theorem aluAdd_v (a b : Word) (v : Bool) : (aluAdd a b).v.getD v = decide ((a + b).toInt ≠ a.toInt + b.toInt) :=
  not_beq_eq_decide_ne ..

theorem aluSub_c (a b : Word) (c : Bool) : (aluSub a b).c.getD c = decide (b.toNat ≤ a.toNat) :=
  natBle_eq_decide ..

theorem aluSub_v (a b : Word) (v : Bool) : (aluSub a b).v.getD v = decide ((a - b).toInt ≠ a.toInt - b.toInt) :=
  not_beq_eq_decide_ne ..

/-- The last bit shifted out; none by a shift of 0. -/
theorem shiftedOut_eq (a : Word) (n k : Nat) : (!(n == 0) && natBit a.toNat k) = (decide (n ≠ 0) && a.getLsbD k) := by
  rw [natBit_eq, decide_not, beq_eq_decide]

/-- `MOVHI` puts its 14 bits above the low 18 of ga. -/
theorem movhi_value (imm : BitVec 18) (a : Word) : BitVec.ofNat 32 (imm.toNat % 2 ^ 14 * 2 ^ 18 + a.toNat % 2 ^ 18) =
    (imm.truncate 14 : BitVec 14) ++ (a.truncate 18 : BitVec 18) := by
  have ha : a.toNat % 2 ^ 18 < 2 ^ 18 := Nat.mod_lt _ (by decide)
  apply BitVec.eq_of_toNat_eq
  rw [BitVec.toNat_append, BitVec.toNat_setWidth, BitVec.toNat_setWidth, ← Nat.shiftLeft_add_eq_or_of_lt ha,
    Nat.shiftLeft_eq, BitVec.toNat_ofNat]
  omega

/-! ### The claims -/

theorem threeRegisterResults : Claims.ThreeRegisterResults := by
  intro by_ gd ga gb s h a b q
  refine ⟨?_, ?_, ?_, ?_, ?_, ?_⟩
  · exact computes_of (o := aluAdd a b) rfl h (by simp only [issued_reg, a, b]) rfl (aluAdd_c ..) (aluAdd_v ..)
  · exact computes_of (o := aluSub a b) rfl h (by simp only [issued_reg, a, b]) rfl (aluSub_c ..) (aluSub_v ..)
  · exact computes_of (o := aluKeep (a &&& b)) rfl h (by simp only [issued_reg, a, b]) rfl rfl rfl
  · exact computes_of (o := aluKeep (a ||| b)) rfl h (by simp only [issued_reg, a, b]) rfl rfl rfl
  · exact computes_of (o := aluKeep (a ^^^ b)) rfl h (by simp only [issued_reg, a, b]) rfl rfl rfl
  · exact computes_of (o := aluMul a b) rfl h (by simp only [issued_reg, a, b]) rfl rfl rfl

theorem shiftResults : Claims.ShiftResults := by
  intro by_ gd ga gb sub s h a n
  have hn : s.shiftBy by_.idx gb sub = n := rfl
  refine ⟨?_, ?_, ?_⟩
  · exact computes_of (o := aluShl a n) rfl h (by simp only [issued_reg, issued_shift, hn, a]) rfl (shiftedOut_eq ..) rfl
  · exact computes_of (o := aluShr a n) rfl h (by simp only [issued_reg, issued_shift, hn, a]) rfl (shiftedOut_eq ..) rfl
  · exact computes_of (o := aluSar a n) rfl h (by simp only [issued_reg, issued_shift, hn, a]) rfl (shiftedOut_eq ..) rfl

theorem comparisonResults : Claims.ComparisonResults := by
  intro by_ gd ga gb unsigned imm s h a b e q less
  have hless : lessThan unsigned a b = less := lessThan_eq ..
  refine ⟨?_, ?_, ?_, ?_⟩
  · exact compares_of (o := aluSub a b) rfl h (by simp only [issued_reg, a, b]) rfl (aluSub_c ..) (aluSub_v ..)
  · exact compares_of (o := aluSub a e) rfl h (by simp only [issued_reg, sext18, a, e]) rfl (aluSub_c ..) (aluSub_v ..)
  · exact computes_of (o := aluMin unsigned a b) rfl h (by simp only [issued_reg, a, b]) (by rw [← hless]; rfl) rfl rfl
  · exact computes_of (o := aluMax unsigned a b) rfl h (by simp only [issued_reg, a, b]) (by rw [← hless]; rfl) rfl rfl

theorem immediateResults : Claims.ImmediateResults := by
  intro by_ gd ga imm s h a e q
  refine ⟨?_, ?_, ?_, ?_, ?_⟩
  · exact computes_of (o := aluAdd a e) rfl h (by simp only [issued_reg, sext18, a, e]) rfl (aluAdd_c ..) (aluAdd_v ..)
  · exact computes_of (o := aluKeep (a &&& zext18 imm)) rfl h (by simp only [issued_reg, a]) rfl rfl rfl
  · exact computes_of (o := aluKeep (a ||| zext18 imm)) rfl h (by simp only [issued_reg, a]) rfl rfl rfl
  · exact moves_of rfl h rfl
  · exact moves_of rfl h (by simp only [issued_reg, movhi_value, a])

end Sys2Proof.Machine

open Sys2Proof.Machine

/-- Settles O8: each instruction of Table 6-3 is one operation of the ALU, whose result, flags and frame `computes_of`,
`compares_of` and `moves_of` give; what is left is each flag in the terms of the table. -/
theorem registerAndImmediateResults : Obligations.RegisterAndImmediateResults :=
  ⟨threeRegisterResults, shiftResults, comparisonResults, immediateResults⟩
end

section
/-!
PROOFS. NOP, YIELD, HALT and WAIT (R134, R175, R176, R179).
-/
namespace Sys2Proof.Machine

/-- A change of a square that is not one of its registers. -/
theorem reg_modSquare (s : State) (i : Nat) (f : Square → Square) (hg : ∀ q, (f q).g = q.g) (x : Reg) :
    (s.modSquare i f).reg i x = s.reg i x := State.reg_congr (by rw [State.square_modSquare_same, hg]) x

/-- A square that halts. -/
def Square.halt (q : Square) : Square := { q with state := .halted }

/-- `HALT` of a program square (R175). -/
theorem halt_completes {n : Fin 63} {s : State} (h : s.issuable (.prog n) = true) :
    ∃ t, exec (.halt (.prog n)) s = .next t ∧ Completes (.prog n) false 0 (s.modSquare (n.val + 1) Square.halt) t ∧
      KeptRegs (n.val + 1) s t ∧ KeptFlags (n.val + 1) s t := by
  refine ⟨_, rfl, ?_⟩
  rw [issueProg_of_prog]
  obtain ⟨hc, hr, hf⟩ := issue_done_from (op := 0x23) (rf := false)
    (body := fun s => .done 0 (s.modSquare (n.val + 1) Square.halt)) (s.modSquare (n.val + 1) Square.halt) h rfl
    (modSquare_issued_frame (.prog n) s Square.halt fun _ => rfl)
    (modSquare_issued_square (.prog n) s Square.halt fun _ => rfl)
  refine ⟨hc, fun x => (hr x).trans (reg_modSquare s _ Square.halt (fun _ => rfl) x), ?_⟩
  have hq : (s.modSquare (n.val + 1) Square.halt).square (n.val + 1) = (s.square (n.val + 1)).halt :=
    State.square_modSquare_same ..
  simp only [KeptFlags, Issuer.idx, hq] at hf
  exact hf

theorem nopYieldHalt : Claims.NopYieldHalt := by
  refine ⟨fun by_ s h => ⟨_, rfl, issue_nothing h rfl⟩, fun n s h => ⟨⟨_, rfl, ?_⟩, halt_completes h⟩⟩
  rw [issueProg_of_prog]
  exact issue_nothing h rfl

/-! ### WAIT -/

/-- The event mask of a square after a `WAIT` with mask m, which adds m to it where the operand says so. -/
def Square.maskAfter (q : Square) (operand : BitVec 18) (m : BitVec 13) : BitVec 13 :=
  if operand.getLsbD 17 then q.evmask ||| m else q.evmask

/-- A `WAIT` with mask m that finds an event pending takes those of its mask. -/
def Square.takes (operand : BitVec 18) (m : BitVec 13) (q : Square) : Square :=
  { q with evmask := q.maskAfter operand m, evpend := q.evpend &&& ~~~m }

/-- A `WAIT` with mask m that finds none waits for one. -/
def Square.awaits (operand : BitVec 18) (m : BitVec 13) (q : Square) : Square :=
  { q with state := .waitEvent, waitMask := m, evmask := q.maskAfter operand m }

theorem operand_top_bit (operand : BitVec 18) : operand.toNat / 2 ^ 17 = 1 ↔ operand.getLsbD 17 = true := by
  have := operand.isLt
  rw [BitVec.getLsbD, Nat.testBit_eq_decide_div_mod_eq, decide_eq_true_iff]
  omega

/-- What a `WAIT` comes to in a program square. -/
def waitOutcome (i : Nat) (gd : Reg) (operand : BitVec 18) (m : BitVec 13) (s : State) : Outc :=
  let q := s.square i
  if q.evpend &&& m ≠ 0 ∨ m = 0 then
    result i gd ((q.evpend &&& m).zeroExtend 32) (s.modSquare i (Square.takes operand m))
  else .stay (s.modSquare i (Square.awaits operand m))

theorem execWait_eq (n : Fin 63) (gd ga : Reg) (operand : BitVec 18) (s : State) : exec (.wait (.prog n) gd ga operand) s =
    .next (issue (.prog n) 0x28 false (fun t => waitOutcome (n.val + 1) gd operand (t.waitMask (n.val + 1) ga operand) t) s) := by
  show execWait (.prog n) gd ga operand s = _
  unfold execWait
  rw [issueProg_of_prog]
  congr 2
  funext t
  simp only [waitOutcome, operand_top_bit]
  by_cases hb : operand.getLsbD 17 = true
  · simp only [hb, if_true, State.modSquare, Square.takes, Square.awaits, Square.maskAfter]
    rfl
  · simp only [hb, State.modSquare, Square.takes, Square.awaits, Square.maskAfter]
    rfl

theorem issued_evpend (by_ : Issuer) (s : State) (i : Nat) : ((issued by_ s).square i).evpend = (s.square i).evpend := by
  rw [issued_square]; split <;> rfl

theorem waitOutcome_takes {i : Nat} {gd : Reg} {operand : BitVec 18} {m : BitVec 13} {s : State}
    (h : (s.square i).evpend &&& m ≠ 0 ∨ m = 0) : waitOutcome i gd operand m s =
      result i gd (((s.square i).evpend &&& m).zeroExtend 32) (s.modSquare i (Square.takes operand m)) := if_pos h

theorem waitOutcome_awaits {i : Nat} {gd : Reg} {operand : BitVec 18} {m : BitVec 13} {s : State}
    (h : ¬((s.square i).evpend &&& m ≠ 0 ∨ m = 0)) : waitOutcome i gd operand m s =
      .stay (s.modSquare i (Square.awaits operand m)) := if_neg h

theorem issued_waitMask (by_ : Issuer) (s : State) (i : Nat) (ga : Reg) (operand : BitVec 18) :
    (issued by_ s).waitMask i ga operand = s.waitMask i ga operand := by
  unfold State.waitMask; rw [issued_reg]

/-- What issuing changes outside the square is told from the state before a change of the square, too. -/
theorem IssueFrame.of_modSquare {n : Fin 63} {s t : State} {f : Square → Square} (hp : ∀ q, (f q).prio = q.prio)
    (h : IssueFrame (.prog n) (s.modSquare (n.val + 1) f) t) : IssueFrame (.prog n) s t := by
  obtain ⟨ho, ht⟩ := h
  refine ⟨fun j hj => (ho j hj).trans (State.square_modSquare_ne _ _ (Ne.symm hj)), ?_⟩
  simp only [State.square_modSquare_same, hp] at ht
  exact ht

theorem wait_takes {n : Fin 63} {gd : Reg} {operand : BitVec 18} {m : BitVec 13} {body : State → Outc} {s : State}
    (h : s.issuable (.prog n) = true) (hb : body (issued (.prog n) s) = waitOutcome (n.val + 1) gd operand m (issued (.prog n) s))
    (hh : (s.square (n.val + 1)).evpend &&& m ≠ 0 ∨ m = 0) :
    let q := s.square (n.val + 1)
    let t := issue (.prog n) 0x28 false body s
    IssueFrame (.prog n) s t ∧ Wrote (n.val + 1) gd ((q.evpend &&& m).zeroExtend 32) s t ∧
      t.square (n.val + 1) = { q with
        g := (t.square (n.val + 1)).g, evmask := q.maskAfter operand m, evpend := q.evpend &&& ~~~m, pc := q.pc + 1
        issued := q.issued + 1, effPrio := q.prio, resv := none } := by
  intro q t
  have hr : (s.modSquare (n.val + 1) (Square.takes operand m)).square (n.val + 1) = q.takes operand m :=
    State.square_modSquare_same ..
  obtain ⟨⟨hsq, hfr, -⟩, hw, hz, hn, hc, hv⟩ :=
    issue_result_from (op := 0x28) (rf := false) (s.modSquare (n.val + 1) (Square.takes operand m)) h
      (hb.trans (waitOutcome_takes (by rw [issued_evpend]; exact hh)))
      (modSquare_issued_frame (.prog n) s (Square.takes operand m) fun _ => rfl)
      (modSquare_issued_square (.prog n) s (Square.takes operand m) fun _ => rfl)
  refine ⟨.of_modSquare (f := Square.takes operand m) (fun _ => rfl) hfr, fun x => ?_, ?_⟩
  · rw [← reg_modSquare s _ (Square.takes operand m) (fun _ => rfl) x, ← issued_evpend (.prog n)]
    exact hw x
  · simp only [Issuer.idx, hr] at hz hn hc hv
    simp only [SquareFrame, Issuer.idx, hr, hz, hn, hc, hv] at hsq
    exact hsq

theorem wait_awaits {n : Fin 63} {gd : Reg} {operand : BitVec 18} {m : BitVec 13} {body : State → Outc} {s : State}
    (h : s.issuable (.prog n) = true) (hb : body (issued (.prog n) s) = waitOutcome (n.val + 1) gd operand m (issued (.prog n) s))
    (hh : ¬((s.square (n.val + 1)).evpend &&& m ≠ 0 ∨ m = 0)) :
    let q := s.square (n.val + 1)
    let t := issue (.prog n) 0x28 false body s
    IssueFrame (.prog n) s t ∧ t.square (n.val + 1) = { q with
      state := .waitEvent, waitMask := m, evmask := q.maskAfter operand m, issued := q.issued + 1, effPrio := q.prio
      resv := none } := by
  intro q t
  have hi : (issued (.prog n) s).square (n.val + 1) = { q with issued := q.issued + 1, effPrio := q.prio } :=
    (issued_square ..).trans (if_pos rfl)
  obtain ⟨hsq, hfr, -⟩ := issue_stay (op := 0x28) (rf := false) s h
    (hb.trans (waitOutcome_awaits (by rw [issued_evpend]; exact hh))) rfl
    fun j hj => (State.square_modSquare_ne _ _ (Ne.symm hj)).trans ((issued_square ..).trans (if_neg hj))
  refine ⟨hfr, hsq.trans ?_⟩
  simp only [Issuer.idx, State.square_modSquare_same, hi]
  rfl

theorem waitForEvents : Claims.WaitForEvents := by
  intro n gd ga operand s h i q m mask
  refine ⟨_, execWait_eq .., ?_⟩
  have hb : waitOutcome (n.val + 1) gd operand ((issued (.prog n) s).waitMask (n.val + 1) ga operand) (issued (.prog n) s) =
      waitOutcome (n.val + 1) gd operand m (issued (.prog n) s) := by rw [issued_waitMask]; rfl
  by_cases hh : q.evpend &&& m ≠ 0 ∨ m = 0
  · rw [if_pos hh]
    exact wait_takes h hb hh
  · rw [if_neg hh]
    exact wait_awaits h hb hh

end Sys2Proof.Machine

open Sys2Proof.Machine

/-- Settles O9: HALT and a WAIT that finds its event are an instruction that changes its own square beside registers and
flags; a WAIT that finds none does not complete. -/
theorem haltYieldAndWait : Obligations.HaltYieldAndWait := ⟨nopYieldHalt, waitForEvents⟩
end

section
/-!
PROOFS. LD and ST (R167), and the uncorrectable word that LD finds (R520).
-/
namespace Sys2Proof.Machine

/-! ### An uncorrectable word is found -/

/-- What the finding of an uncorrectable word writes to the field map, before its report. -/
def notedBad (cls a : Nat) (s : State) : State :=
  F.ERR_LASTDET_DETAIL.wr (BitVec.ofNat 32 a).toNat
    (F.ERR_LAST_WORD0.wr (BitVec.ofNat 32 (packBits [(4, 1), (6, cls), (5, 31), (9, 5), (8, 0)])).toNat
      (raiseFlag F.ERR_STICKY_CELLUE.addr 0 s))

/-- The rest of it is the path of a record. -/
theorem foundBad_path (cls a : Nat) (s : State) : RecordPath (notedBad cls a s) (foundBad cls a s) := by
  unfold foundBad faultReport hubRecord notedBad
  exact hubRecordOf_path ..

theorem notedBad_frame (cls a : Nat) (s : State) : notedBad cls a s = { s with regs := (notedBad cls a s).regs } := by
  unfold notedBad
  exact regs_trans (regs_trans (raiseFlag_frame ..) (Fld.wr_frame ..)) (Fld.wr_frame ..)

theorem notedBad_regs_congr {s t : State} (h : t.regs = s.regs) (cls a : Nat) :
    (notedBad cls a t).regs = (notedBad cls a s).regs :=
  Fld.wr_regs_congr (Fld.wr_regs_congr (raiseFlag_regs_congr h ..) ..) ..

theorem issued_notedBad (by_ : Issuer) (cls a : Nat) (s : State) :
    issued by_ (notedBad cls a s) = notedBad cls a (issued by_ s) := by
  rw [notedBad_frame, issued_withRegs, notedBad_frame _ _ (issued by_ s), notedBad_regs_congr (issued_regs by_ s)]

theorem issuable_withRegs (by_ : Issuer) (s : State) (m : Sparse Word) :
    ({ s with regs := m } : State).issuable by_ = s.issuable by_ := rfl

theorem notedBad_issuable (by_ : Issuer) (cls a : Nat) (s : State) : (notedBad cls a s).issuable by_ = s.issuable by_ := by
  rw [notedBad_frame, issuable_withRegs]

/-! ### A fault with a report -/

/-- The state whose issue leads to `u`, where `u` is on the record path from the issue in `s`. -/
def unissued (s u : State) : State := { u with squares := s.squares, rr := s.rr, a1 := s.a1 }

theorem issued_unissued {by_ : Issuer} {s u : State} (h : RecordPath (issued by_ s) u) : issued by_ (unissued s u) = u := by
  rw [h.1]
  cases by_ <;> rfl

theorem unissued_path {by_ : Issuer} {s u : State} (h : RecordPath (issued by_ s) u) : RecordPath s (unissued s u) := by
  refine ⟨?_, fun a ha => (h.2 a ha).trans (State.word_congr (issued_regs by_ s) a)⟩
  rw [h.1]
  cases by_ <;> rfl

theorem RecordPath.issuable {s t : State} (h : RecordPath s t) (by_ : Issuer) : t.issuable by_ = s.issuable by_ := by
  rw [h.1]; rfl

/-- An instruction that faults after a record is issued from a state that the record path leads to. -/
theorem issue_fault_unissued {by_ : Issuer} {op : Nat} {rf : Bool} {body : State → Outc} {s y u : State} {cause : Nat}
    (h : s.issuable by_ = true) (hy : y.issuable by_ = true) (hb : body (issued by_ s) = .fault cause u)
    (hp : RecordPath (issued by_ y) u) :
    issue by_ op rf body s = issue by_ op rf (fun t => .fault cause t) (unissued y u) := by
  unfold issue
  rw [if_pos h, if_pos (((unissued_path hp).issuable by_).trans hy), hb, issued_unissued hp]

/-- An instruction that meets an uncorrectable word faults after the report of it. -/
theorem faults_of_foundBad {c : Instr} {by_ : Issuer} {op cause cls a : Nat} {rf : Bool} {body : State → Outc} {s : State}
    (he : exec c s = .next (issue by_ op rf body s)) (h : s.issuable by_ = true)
    (hb : body (issued by_ s) = .fault cause (foundBad cls a (issued by_ s))) :
    Faults c by_ op cause (foundBad cls a s) s := by
  have hu : RecordPath (issued by_ (notedBad cls a s)) (foundBad cls a (issued by_ s)) := by
    rw [issued_notedBad]; exact foundBad_path ..
  have hy := (notedBad_issuable by_ cls a s).trans h
  have hx := ((unissued_path hu).issuable by_).trans hy
  have hto := (unissued_path hu).symm.trans (foundBad_path cls a s)
  rw [issue_fault_unissued h hy hb hu] at he
  refine ⟨fun n hn => ⟨_, he, ?_⟩, fun side id hh => ⟨_, he, ?_⟩⟩
  · subst hn; exact .of_path hto (issue_faulted hx rfl)
  · subst hh; exact .of_path hto (issue_host_fault hx rfl)

/-! ### LD and ST -/

theorem issued_scratchAddr (by_ : Issuer) (s : State) (i : Nat) (ga : Reg) (imm : BitVec 18) :
    (issued by_ s).scratchAddr i ga imm = s.scratchAddr i ga imm := by
  unfold State.scratchAddr; rw [issued_reg]

theorem issued_scratchBad (by_ : Issuer) (s : State) : (issued by_ s).scratchBad = s.scratchBad := by cases by_ <;> rfl

theorem issued_scratchWrite (by_ : Issuer) (a : Nat) (v : Word) (s : State) :
    (issued by_ s).scratchWrite a v = issued by_ (s.scratchWrite a v) := by
  cases by_ <;> rfl

/-- The check bits of the word that is written are renewed. -/
theorem mem_scratchWrite_bad (a : Nat) (v : Word) (s : State) (b : Nat) :
    b ∈ (s.scratchWrite a v).scratchBad ↔ b ∈ s.scratchBad ∧ b ≠ a := by
  have h : (!(b.beq a)) = true ↔ b ≠ a := by rw [Bool.not_eq_true', ← Bool.not_eq_true, Nat.beq_eq]
  simp only [State.scratchWrite, List.mem_filter, h]

theorem IssueFrame.scratch {by_ : Issuer} {s t : State} (h : IssueFrame by_ s t) :
    t.scratch = s.scratch ∧ t.scratchBad = s.scratchBad := by
  obtain ⟨-, ht⟩ := h
  cases by_ with
  | prog n => dsimp only at ht; rw [ht]; exact ⟨rfl, rfl⟩
  | host side id => rw [ht.1]; exact ⟨rfl, rfl⟩

section
variable {by_ : Issuer} {r ga : Reg} {imm : BitVec 18} {s : State}

theorem ld_moves (h : s.issuable by_ = true) (ha : s.scratchAddr by_.idx ga imm ≤ 4095)
    (hbad : s.scratchAddr by_.idx ga imm ∉ s.scratchBad) :
    Moves (.ld by_ r ga imm) by_ r (Memory.read s.scratch (s.scratchAddr by_.idx ga imm)) s :=
  moves_of rfl h (by
    simp only [issued_scratchAddr, issued_scratchBad, issued_keeps_scratch, if_neg (Nat.not_lt.mpr ha),
      List.contains_iff_mem, if_neg hbad])

theorem ld_foundBad (h : s.issuable by_ = true) (ha : s.scratchAddr by_.idx ga imm ≤ 4095)
    (hbad : s.scratchAddr by_.idx ga imm ∈ s.scratchBad) :
    Faults (.ld by_ r ga imm) by_ 0x18 5 (foundBad 3 (s.scratchAddr by_.idx ga imm) s) s :=
  faults_of_foundBad rfl h (by
    simp only [issued_scratchAddr, issued_scratchBad, if_neg (Nat.not_lt.mpr ha), List.contains_iff_mem, if_pos hbad])

theorem ld_outside (h : s.issuable by_ = true) (ha : 4095 < s.scratchAddr by_.idx ga imm) :
    Faults (.ld by_ r ga imm) by_ 0x18 6 s s :=
  faults_of rfl h (by simp only [issued_scratchAddr, if_pos ha])

theorem st_outside (h : s.issuable by_ = true) (ha : 4095 < s.scratchAddr by_.idx ga imm) :
    Faults (.st by_ r ga imm) by_ 0x19 6 s s :=
  faults_of rfl h (by simp only [issued_scratchAddr, if_pos ha])

/-- `ST` takes the state to the one with the word written. -/
theorem st_completes (h : s.issuable by_ = true) (ha : s.scratchAddr by_.idx ga imm ≤ 4095) :
    ∃ t, exec (.st by_ r ga imm) s = .next t ∧
      Completes by_ false 0 (s.scratchWrite (s.scratchAddr by_.idx ga imm) (s.reg by_.idx r)) t ∧
      KeptRegs by_.idx s t ∧ KeptFlags by_.idx s t :=
  ⟨_, rfl, issue_done_from _ h
    (by simp only [issued_scratchAddr, issued_reg, issued_scratchWrite, if_neg (Nat.not_lt.mpr ha)]) rfl fun _ => rfl⟩

end

end Sys2Proof.Machine

open Sys2Proof.Machine

/-- Settles O10: LD writes a register; ST changes scratch memory beside its square; an address outside it, and a bad word that
LD finds, is a fault. -/
theorem scratchLoadStore : Obligations.ScratchLoadStore := by
  intro by_ r ga imm s h a
  refine ⟨fun ha hbad => ld_moves h ha hbad, fun ha => ?_, fun ha hbad => ld_foundBad h ha hbad, fun ha n hn => ?_,
    fun ha side id hh => ?_⟩
  · obtain ⟨t, he, hc, hr, hf⟩ := st_completes (r := r) h ha
    have ⟨_, hframe, _⟩ := hc
    obtain ⟨hs, hb⟩ := hframe.scratch
    refine ⟨t, he, by rw [hs, hb]; exact hc, hr, hf, fun b => ?_, fun b => by rw [hb]; exact mem_scratchWrite_bad ..⟩
    rw [hs, State.scratchWrite_read]
    exact if_congr eq_comm rfl rfl
  · exact ⟨(ld_outside h ha).1 n hn, (st_outside h ha).1 n hn⟩
  · exact ⟨(ld_outside h ha).2 side id hh, (st_outside h ha).2 side id hh⟩
end

section
/-!
PROOFS. The illegal opcodes (R194), and the instructions that a1 never executes (R124).
-/
namespace Sys2Proof.Machine

/-! ### The opcodes that are none, quarter by quarter of Table 6-2 -/

section
variable {by_ : Issuer} {n : BitVec 6} {k : Nat} {f : WordFields}

/-- The last arm of a decoder, which is taken at the opcodes that P tells. -/
theorem illegalOpcode_iff {m : BitVec 6} {P : Prop} (hP : P) :
    Instr.illegalOpcode by_ m = .illegalOpcode by_ n ↔ P ∧ m = n := by
  rw [Instr.illegalOpcode.injEq, eq_self, true_and, and_iff_right hP]

theorem decodeA_illegal (hk : k < 0x10) :
    decodeA by_ k f = .illegalOpcode by_ n ↔ 0x0D ≤ k ∧ BitVec.ofNat 6 k = n := by
  unfold decodeA
  extract_lets u
  split
  case h_14 => exact illegalOpcode_iff (by grind)
  all_goals simp

theorem decodeI_illegal (h0 : 0x10 ≤ k) (hk : k < 0x20) :
    decodeI by_ k f = .illegalOpcode by_ n ↔ (k = 0x16 ∨ k = 0x17 ∨ 0x1D ≤ k) ∧ BitVec.ofNat 6 k = n := by
  unfold decodeI
  split
  case h_12 => exact illegalOpcode_iff (by grind)
  all_goals simp

theorem decodeSignal_ne_illegal : decodeSignal by_ f ≠ .illegalOpcode by_ n := by
  unfold decodeSignal
  split <;> simp

theorem decodeFlow_illegal (h0 : 0x20 ≤ k) (hk : k < 0x30) :
    decodeFlow by_ k f = .illegalOpcode by_ n ↔ ((0x24 ≤ k ∧ k ≤ 0x27) ∨ 0x2B ≤ k) ∧ BitVec.ofNat 6 k = n := by
  unfold decodeFlow
  split
  case h_6 => simp [decodeSignal_ne_illegal]
  case h_8 => exact illegalOpcode_iff (by grind)
  all_goals simp

theorem decodeDevice_illegal (h0 : 0x30 ≤ k) :
    decodeDevice by_ k f = .illegalOpcode by_ n ↔ (k = 0x3A ∨ 0x3C ≤ k) ∧ BitVec.ofNat 6 k = n := by
  unfold decodeDevice
  split
  case h_1 => split <;> simp
  case h_2 => split <;> simp
  case h_12 => exact illegalOpcode_iff (by grind)
  all_goals simp

/-- The opcodes of R194. -/
def illegalOp (k : Nat) : Prop :=
  (0x0D ≤ k ∧ k ≤ 0x0F) ∨ k = 0x16 ∨ k = 0x17 ∨ (0x1D ≤ k ∧ k ≤ 0x1F) ∨ (0x24 ≤ k ∧ k ≤ 0x27) ∨ (0x2B ≤ k ∧ k ≤ 0x2F) ∨
    k = 0x3A ∨ 0x3C ≤ k

theorem decodeWord_illegal (by_ : Issuer) (w : Word) (n : BitVec 6) : decodeWord by_ w = .illegalOpcode by_ n ↔
    illegalOp (w.extractLsb' 26 6).toNat ∧ w.extractLsb' 26 6 = n := by
  unfold decodeWord illegalOp
  extract_lets op f
  have hop : BitVec.ofNat 6 op = w.extractLsb' 26 6 := BitVec.ofNat_toNat ..
  by_cases hA : op < 0x10
  · rw [if_pos hA, decodeA_illegal hA, hop]
    exact and_congr_left' (by omega)
  · by_cases hI : op < 0x20
    · rw [if_neg hA, if_pos hI, decodeI_illegal (by omega) hI, hop]
      exact and_congr_left' (by omega)
    · by_cases hF : op < 0x30
      · rw [if_neg hA, if_neg hI, if_pos hF, decodeFlow_illegal (by omega) hF, hop]
        exact and_congr_left' (by omega)
      · rw [if_neg hA, if_neg hI, if_neg hF, decodeDevice_illegal (by omega), hop]
        exact and_congr_left' (by omega)

end

/-! ### The claims -/

theorem illegalOp_iff (op : BitVec 6) : illegalOp op.toNat ↔
    (0x0D ≤ op.toNat ∧ op.toNat ≤ 0x0F) ∨ op = 0x16 ∨ op = 0x17 ∨ (0x1D ≤ op.toNat ∧ op.toNat ≤ 0x1F) ∨
      (0x24 ≤ op.toNat ∧ op.toNat ≤ 0x27) ∨ (0x2B ≤ op.toNat ∧ op.toNat ≤ 0x2F) ∨ op = 0x3A ∨ 0x3C ≤ op.toNat := by
  simp only [illegalOp, ← BitVec.toNat_inj, BitVec.reduceToNat]

theorem illegalOpcode_faults {by_ : Issuer} {op : BitVec 6} {s : State} (h : s.issuable by_ = true) :
    Faults (.illegalOpcode by_ op) by_ op.toNat 1 s s := faults_of rfl h rfl

theorem illegalOpcodes : Claims.IllegalOpcodes := by
  refine fun op s => ⟨fun n h => (illegalOpcode_faults h).1 n rfl, fun side id h => (illegalOpcode_faults h).2 side id rfl,
    fun by_ w hw => ⟨?_, fun n hn => ?_⟩⟩
  · simp only [decodeWord_illegal, hw, exists_and_left, exists_eq', and_true, illegalOp_iff]
  · rw [← hw]
    exact ((decodeWord_illegal by_ w n).mp hn).2.symm

theorem programOnlyInA1 : Claims.ProgramOnlyInA1 := by
  intro side id cond gd ga target operand s h b
  refine ⟨?_, ?_, ?_, ?_, ?_, ?_⟩ <;> exact ⟨_, rfl, issueProg_host_refused h⟩

end Sys2Proof.Machine

open Sys2Proof.Machine

/-- Settles O12: each quarter of the decoder falls to its last arm at the opcodes of R194 and no other; the model of an illegal
opcode is a fault, and a1 refuses what `issueProg` issues. -/
theorem illegalOpcodesAndSquareA1 : Obligations.IllegalOpcodesAndSquareA1 := ⟨illegalOpcodes, programOnlyInA1⟩
end

section
/-!
PROOFS. ADMIT (R147, R148, R192, Table 5-5).
-/
namespace Sys2Proof.Machine

/-! ### The tests, in the terms of the rules -/

/-- The streams of a channel group with the settings that are coming (R148). -/
def State.loadComing (s : State) (g : Nat) : Nat :=
  ((List.range 16).map fun i =>
    if (F.ADC_CFG_EN (16 * g + i)).coming s = 1 then 1 + (F.ADC_CFG_MODE (16 * g + i)).coming s else 0).sum

/-- The least S rate for the channels whose enable is coming (R148, R320). -/
def State.sMinComing (s : State) : Nat :=
  sMin (s.chans.filter fun c => (F.ADC_CFG_EN c).coming s == 1).length (F.LNK_ORBIT_NB.coming s)

theorem groupFits_iff (s : State) (g : Nat) : s.groupFits g = true ↔ s.loadComing g ≤ 24 := iff_of_eq Nat.ble_eq

/-- A group fails test 1. -/
def State.overfull (s : State) (g : Nat) : Bool := s.hasGroup g && !s.groupFits g

theorem overfull_iff (s : State) (g : Nat) : s.overfull g = true ↔ s.hasGroup g = true ∧ 24 < s.loadComing g := by
  rw [State.overfull, Bool.and_eq_true, Bool.not_eq_true', ← Bool.not_eq_true, groupFits_iff, Nat.not_le]

theorem admitFails_eq (s : State) (std : Nat) : s.admitFails std =
    match below 16 s.overfull with
    | g :: _ => some (1, g)
    | [] =>
      if (F.PWR_DECL_RATE 2).coming s < s.sMinComing then some (2, 0)
      else if s.admCap std < s.declComing then some (3, 0) else none := rfl

theorem declComing_eq (s : State) : s.declComing = (F.PWR_DECL_RATE 0).coming s + (F.PWR_DECL_RATE 1).coming s +
    (F.PWR_DECL_RATE 2).coming s + (F.PWR_DECL_RATE 3).coming s := by
  simp [State.declComing, List.range_succ, Nat.add_assoc]

theorem admCap_eq (s : State) (std : Nat) : s.admCap std =
    if s.variant = 2 then (if std = 0 then 8192 else 6144) else (if std = 0 then 16384 else 14336) := by
  simp only [State.admCap, State.isSmall, beq_iff_eq]

/-- The first of the numbers below n that has a property. -/
theorem below_eq_cons {n g : Nat} {p : Nat → Bool} (hg : g < n) (hp : p g = true) (hbefore : ∀ h, h < g → p h = false) :
    ∃ l, below n p = g :: l := by
  rw [← List.head?_eq_some_iff, below, List.head?_filter, List.find?_range_eq_some]
  exact ⟨hp, List.mem_range.mpr hg, fun h hh => by rw [hbefore h hh, Bool.not_false]⟩

theorem below_eq_nil {n : Nat} {p : Nat → Bool} (h : ∀ g, g < n → p g = false) : below n p = [] :=
  List.filter_eq_nil_iff.mpr fun g hg => by rw [h g (List.mem_range.mp hg)]; exact Bool.false_ne_true

section
variable {s : State} {std : Nat}

theorem not_overfull {g : Nat} (hfit : s.hasGroup g = true → s.loadComing g ≤ 24) : s.overfull g = false := by
  rw [← Bool.not_eq_true, overfull_iff]
  exact fun ⟨hp, hl⟩ => absurd (hfit hp) (Nat.not_le.mpr hl)

theorem admitFails_group {g : Nat} (hg : g < 16) (hp : s.hasGroup g = true) (hl : 24 < s.loadComing g)
    (hbefore : ∀ h, h < g → s.hasGroup h = true → s.loadComing h ≤ 24) : s.admitFails std = some (1, g) := by
  obtain ⟨l, hb⟩ := below_eq_cons hg ((overfull_iff s g).mpr ⟨hp, hl⟩) fun h hh => not_overfull (hbefore h hh)
  rw [admitFails_eq, hb]

/-- Tests 2 and 3, where every present group fits. -/
theorem admitFails_fits (hfit : ∀ g, g < 16 → s.hasGroup g = true → s.loadComing g ≤ 24) :
    s.admitFails std = if (F.PWR_DECL_RATE 2).coming s < s.sMinComing then some (2, 0)
      else if s.admCap std < s.declComing then some (3, 0) else none := by
  rw [admitFails_eq, below_eq_nil fun g hg => not_overfull (hfit g hg)]

end

/-! ### What ADMIT leaves -/

/-- The settings are admitted under a standard. -/
def State.admitted (std : Nat) (s : State) : State :=
  F.PWR_ADM_ADMITTED.wr 1 (F.PWR_ADM_STD.wr std { s with admDirty := false })

theorem issued_admitted (by_ : Issuer) (std : Nat) (s : State) :
    issued by_ (State.admitted std s) = State.admitted std (issued by_ s) := by
  have h : issued by_ { s with admDirty := false } = { issued by_ s with admDirty := false } := by cases by_ <;> rfl
  rw [State.admitted, issued_wr, issued_wr, h, State.admitted]

theorem admitted_square (std : Nat) (s : State) (i : Nat) : (s.admitted std).square i = s.square i := by
  rw [State.admitted, Fld.wr_square, Fld.wr_square]
  rfl

theorem issued_coming (by_ : Issuer) (f : Fld) (s : State) : f.coming (issued by_ s) = f.coming s := by cases by_ <;> rfl

theorem issued_isSmall (by_ : Issuer) (s : State) : (issued by_ s).isSmall = s.isSmall := by cases by_ <;> rfl

theorem issued_declComing (by_ : Issuer) (s : State) : (issued by_ s).declComing = s.declComing := by
  simp only [State.declComing, issued_coming]

theorem issued_overfull (by_ : Issuer) (s : State) : (issued by_ s).overfull = s.overfull := by
  funext g
  simp only [State.overfull, State.hasGroup, State.groupFits, issued_isSmall, issued_coming]

theorem issued_sMinComing (by_ : Issuer) (s : State) : (issued by_ s).sMinComing = s.sMinComing := by
  simp only [State.sMinComing, State.chans, issued_isSmall, issued_coming]

theorem issued_admCap (by_ : Issuer) (s : State) (std : Nat) : (issued by_ s).admCap std = s.admCap std := by
  simp only [State.admCap, issued_isSmall]

theorem issued_admitFails (by_ : Issuer) (std : Nat) (s : State) : (issued by_ s).admitFails std = s.admitFails std := by
  rw [admitFails_eq, admitFails_eq, issued_overfull, issued_coming, issued_sMinComing, issued_admCap, issued_declComing]

theorem issued_mode (by_ : Issuer) (s : State) : (issued by_ s).mode = s.mode := by cases by_ <;> rfl

/-- What an `ADMIT` comes to by the tests. -/
def admitTested (i : Nat) (gd : Reg) (std : Nat) (s : State) : Outc :=
  match s.admitFails std with
  | some f => .refuse .range f.1 f.2 s
  | none => result i gd (BitVec.ofNat 32 s.declComing) (s.admitted std)

/-- What an `ADMIT` comes to. -/
def admitOutcome (i : Nat) (gd : Reg) (operand : BitVec 18) (s : State) : Outc :=
  if s.mode ≠ .idle then refuse .state s
  else if 1 < operand.toNat then refuse .range s
  else admitTested i gd (operand.toNat % 2) s

theorem execAdmission_eq (by_ : Issuer) (gd : Reg) (operand : BitVec 18) (s : State) :
    exec (.admission by_ gd operand) s = .next (issue by_ 0x39 true (admitOutcome by_.idx gd operand) s) := rfl

section
variable {by_ : Issuer} {gd : Reg} {operand : BitVec 18} {s : State}

theorem admission_refused_state (h : s.issuable by_ = true) (hm : s.mode ≠ .idle) :
    ∃ t, exec (.admission by_ gd operand) s = .next t ∧ RefusedWith by_ 0x39 .state 0 0 s t :=
  ⟨_, execAdmission_eq .., issue_refused h (if_pos (by rwa [issued_mode]))⟩

theorem admitOutcome_idle (i : Nat) (hm : s.mode = .idle) : admitOutcome i gd operand s =
    if 1 < operand.toNat then refuse .range s else admitTested i gd (operand.toNat % 2) s :=
  if_neg (not_not_intro hm)

theorem admitOutcome_tested (i : Nat) (hm : s.mode = .idle) (ho : operand.toNat ≤ 1) :
    admitOutcome i gd operand s = admitTested i gd (operand.toNat % 2) s :=
  (admitOutcome_idle i hm).trans (if_neg (Nat.not_lt.mpr ho))

theorem admitTested_fails {i std test grp : Nat} (hf : s.admitFails std = some (test, grp)) :
    admitTested i gd std s = .refuse .range test grp s := by
  rw [admitTested, hf]

theorem admitTested_passes {i std : Nat} (hf : s.admitFails std = none) :
    admitTested i gd std s = result i gd (BitVec.ofNat 32 s.declComing) (s.admitted std) := by
  rw [admitTested, hf]

theorem admission_refused_range (h : s.issuable by_ = true) (hm : s.mode = .idle) (ho : 1 < operand.toNat) :
    ∃ t, exec (.admission by_ gd operand) s = .next t ∧ RefusedWith by_ 0x39 .range 0 0 s t :=
  ⟨_, execAdmission_eq .., issue_refused h ((admitOutcome_idle _ ((issued_mode ..).trans hm)).trans (if_pos ho))⟩

theorem admission_fails (h : s.issuable by_ = true) (hm : s.mode = .idle) (ho : operand.toNat ≤ 1) {test grp : Nat}
    (hf : s.admitFails (operand.toNat % 2) = some (test, grp)) :
    ∃ t, exec (.admission by_ gd operand) s = .next t ∧ RefusedWith by_ 0x39 .range test grp s t :=
  ⟨_, execAdmission_eq .., issue_refused h (by
    rw [admitOutcome_tested _ ((issued_mode ..).trans hm) ho, admitTested_fails ((issued_admitFails ..).trans hf)])⟩

theorem admission_passes (h : s.issuable by_ = true) (hm : s.mode = .idle) (ho : operand.toNat ≤ 1)
    (hf : s.admitFails (operand.toNat % 2) = none) :
    ∃ t, exec (.admission by_ gd operand) s = .next t ∧
      Completes by_ true (ackValue gd (BitVec.ofNat 32 s.declComing)) (s.admitted (operand.toNat % 2)) t ∧
      Wrote by_.idx gd (BitVec.ofNat 32 s.declComing) s t ∧ KeptFlags by_.idx s t := by
  obtain ⟨hc, hw, hf⟩ := issue_result_from (op := 0x39) (rf := true) (body := admitOutcome by_.idx gd operand)
    (s.admitted (operand.toNat % 2)) h
    (by rw [admitOutcome_tested _ ((issued_mode ..).trans hm) ho, admitTested_passes ((issued_admitFails ..).trans hf),
      issued_declComing, ← issued_admitted]) (squares_refl _) fun _ => rfl
  refine ⟨_, execAdmission_eq .., hc, fun x => ?_, ?_⟩
  · rw [← State.reg_congr (congrArg Square.g (admitted_square _ s by_.idx)) x]
    exact hw x
  · rw [KeptFlags, admitted_square] at hf
    exact hf

end

end Sys2Proof.Machine

open Sys2Proof.Machine

/-- Settles O22: the model lists the present groups that fail test 1, in rising order, and goes on to tests 2 and 3 where it
lists none. -/
theorem admitTests : Obligations.AdmitTests := by
  intro by_ gd operand s h std load n rates total capacity
  have htotal : s.declComing = total := declComing_eq s
  have hcap : s.admCap std = capacity := admCap_eq s std
  refine ⟨admission_refused_state h, admission_refused_range h, fun hm ho => ⟨fun g hg hp hl hbefore => ?_, fun hfit => ?_⟩⟩
  · exact admission_fails h hm ho (admitFails_group hg hp hl hbefore)
  · have hf : s.admitFails std = if rates 2 < sMin n (F.LNK_ORBIT_NB.coming s) then some (2, 0)
        else if s.admCap std < s.declComing then some (3, 0) else none := admitFails_fits hfit
    refine ⟨fun h2 => ?_, fun h2 h3 => ?_, fun h2 h3 => ?_⟩
    · exact admission_fails h hm ho (hf.trans (if_pos h2))
    · rw [if_neg (Nat.not_lt.mpr h2), hcap, htotal, if_pos h3] at hf
      exact admission_fails h hm ho hf
    · rw [if_neg (Nat.not_lt.mpr h2), hcap, htotal, if_neg (Nat.not_lt.mpr h3)] at hf
      rw [← htotal]
      exact admission_passes h hm ho hf
end
